-- ==== Sys2Proof/Word.lean ====
section
/-!
DEFINITION. The word types of the Malup ISA and their plainest arithmetic (R4, R205): lane and scalar registers are
32-bit words, addresses and counters are 64-bit doublewords, memory is bytes.
-/

namespace Sys2Proof

/-- A byte of memory. -/
abbrev Byte := BitVec 8

/-- One lane of a vector register, or a scalar register (R205). -/
abbrev Word := BitVec 32

/-- A 64-bit value: an even register pair, an address, a counter (R205). -/
abbrev DWord := BitVec 64

/-- The pair of 32-bit words `lo`, `hi` as one 64-bit value: bits [31:0] in the lower register (R205). -/
def DWord.ofPair (lo hi : Word) : DWord := hi ++ lo

/-- Bits [31:0] of a 64-bit value (R205). -/
def DWord.lo (x : DWord) : Word := x.setWidth 32

/-- Bits [63:32] of a 64-bit value (R205). -/
def DWord.hi (x : DWord) : Word := (x >>> 32).setWidth 32

end Sys2Proof
end

