-- ==== Sys2Proof/Machine/Forms.lean ====
section
/-!
DEFINITION. The layouts of the long forms (Table 3.3), and the plain data that steps other than instruction words carry: an
operation on memory as the fabric brings it (Table 9.1), and what a collective chunk carries beside its bytes.
-/

namespace Sys2Proof

/-- The LR layout of a long form (Table 3.3): T1, T2, RM and c of the first word, and the extension word. -/
structure LR where
  t1 : BitVec 4
  t2 : BitVec 4
  rm : BitVec 3
  c : BitVec 8
  g : BitVec 3
  d : BitVec 8
  a : BitVec 8
  b : BitVec 8
  kd : Bool
  ka : Bool
  kb : Bool
  sat : Bool
  x : Bool
deriving DecidableEq, Repr

/-- The LI layout of a long form (Table 3.3): K, guard, d and a of the first word, and a 32-bit immediate. -/
structure LI where
  k : Bool
  g : BitVec 2
  d : BitVec 8
  a : BitVec 8
  imm : Word
deriving DecidableEq, Repr

/-- A long form of an operation that takes both layouts (R58). -/
inductive Long where
  | lr (o : LR)
  | li (o : LI)
deriving DecidableEq, Repr

namespace Machine

/-- What a decay lane carries: format, class snapshot and step (R131). The class is none until the lane translates. -/
structure DecaySnap where
  de64 : Bool
  step : Word
  beta : Word := 0
  alpha : Word := 0
  thr : Word := 0
  /-- Stamp width, 8 or 16. -/
  w : Nat := 8
  /-- The class snapshot has been taken. -/
  taken : Bool := false
deriving DecidableEq, Repr

/-- The decay operations (R138). -/
inductive DecayOp where
  | dld | dst | dadd | dema | dmrg
deriving DecidableEq, Repr

/-- An operation on memory at its place of performance (R88, R113). -/
inductive MemOp where
  | read
  | write
  /-- An atomic: operation code of T2, type code of T1; `ret`: it returns a value, the new one with `new` (R116). -/
  | atom (op t1 : Nat) (new ret : Bool)
  /-- BFP32 add (R90). -/
  | bfp
  /-- Compare and swap (R118). -/
  | cas
  | decay (op : DecayOp) (p : DecaySnap)
  /-- A completion record updated: 1 is added to its COUNT, and its other fields are replaced (R88, R149, R321). -/
  | record
deriving DecidableEq, Repr

/-- What an access of a peer is beside its operation: of the holder of the region's token, which reads a line or writes it back (R78);
an acquire or a release at pod scope or wider (R357). Table 9.1 lists no field of a packet for it (DESIGN CHOICE, log entry 61). -/
structure PeerHow where
  token : Bool := false
  acq : Bool := false
  rel : Bool := false
  /-- The core of a release at core scope, which the line's promote tag comes to name (R357). -/
  core : Option Nat := none
deriving DecidableEq, Repr

/-- A message of IEEE 1588-2019 delay request-response with two-step time stamps (R324): the sync message and the delay request are event
messages; the follow-up brings the time at which the sync left, and the delay response that at which the request arrived. -/
inductive PtpMsg where
  | sync
  | followUp (sent : DWord)
  | delayReq
  | delayResp (received : DWord)
deriving DecidableEq, Repr

/-- A PLDM message (R404): its type, the sensor that it asks for, and the firmware image that it brings. -/
structure Pldm where
  type : Nat
  sensor : Nat := 0
  image : List Byte := []
deriving DecidableEq, Repr

/-- What a chunk of a collective carries beside its bytes (R310, R312, R315, R327). Its place on the wire is the model's
(DESIGN CHOICE, log entry 30): it travels with the transfer header. -/
structure ChunkMeta where
  /-- Number of the collective within its peloton: 1,024 times its number in start order among those of its FLOW, plus FLOW. -/
  ord : Nat
  /-- 0 partial sum of the first ring, 1 of the second; 2 and 3 finished data on the second and first ring; 4 and 5
  all-to-all data on the first and second ring. -/
  phase : Nat
  chunk : Nat
  /-- Rank whose data it is, for all-gather, broadcast, all-to-all and the pair sets of THIN. -/
  orig : Nat := 0
  /-- Rank that all-to-all data goes to. -/
  dest : Nat := 0
  epoch : Word
  attempt : Nat := 0
  /-- Least overflowed block so far; none if none (R312). -/
  first : Option Nat := none
  /-- Modules that dropped non-finite values (R315). -/
  nf : BitVec 256 := 0
  /-- The codes of MAXOUT that the final rank computed (R312). -/
  codes : List Nat := []
deriving DecidableEq, Repr

end Machine

end Sys2Proof
end

