-- ==== Sys2Proof/Syntax.lean ====
section
/-!
DEFINITION. The syntax of the machine's steps: one constructor of `Instr` per row of the opcode table. Rows 0 to 293 are
instruction words (03_encoding_and_opcode_map.md); the short forms carry the fields of Table 3.2, the long forms the two
layouts of Table 3.3. Rows 294 to 416 are the steps that other agents of the machine take (95_what_each_step_holds.md):
each carries the choices that the spec leaves to the agent, and what reaches the module from outside.
The C and S bits of a word (R42) belong to its issue, not to its meaning: the decoder gives them beside the `Instr`.
-/

namespace Sys2Proof

/-- The steps of the machine, one constructor per row of the opcode table. -/
inductive Instr where

  /-- Short three-register integer add on vector registers. (R243) -/
  | iaddSr (g : BitVec 2) (d a b : BitVec 6)
  /-- Short register-immediate integer add. (R243) -/
  | iaddSi (g : BitVec 2) (d a i : BitVec 6)
  /-- Short scalar integer add, register or immediate. (R243) -/
  | iaddSu (k : BitVec 1) (d a b : BitVec 6)
  /-- Long-form integer add with type, saturation or 32-bit immediate. (R243) -/
  | iaddL (o : Long)
  /-- Short three-register integer subtract. (R243) -/
  | isubSr (g : BitVec 2) (d a b : BitVec 6)
  /-- Short register-immediate integer subtract. (R243) -/
  | isubSi (g : BitVec 2) (d a i : BitVec 6)
  /-- Short scalar integer subtract. (R243) -/
  | isubSu (k : BitVec 1) (d a b : BitVec 6)
  /-- Long-form integer subtract. (R243) -/
  | isubL (o : Long)
  /-- Short three-register integer multiply. (R243) -/
  | imulSr (g : BitVec 2) (d a b : BitVec 6)
  /-- Short register-immediate integer multiply. (R243) -/
  | imulSi (g : BitVec 2) (d a i : BitVec 6)
  /-- Short scalar integer multiply. (R243) -/
  | imulSu (k : BitVec 1) (d a b : BitVec 6)
  /-- Long-form integer multiply. (R243) -/
  | imulL (o : Long)
  /-- Integer multiply-add with addend from vector c. (R243) -/
  | imadL (o : LR)
  /-- Short signed high half of a 32-bit product. (R243) -/
  | imulhiSr (g : BitVec 2) (d a b : BitVec 6)
  /-- Short scalar high half of a product. (R243) -/
  | imulhiSu (k : BitVec 1) (d a b : BitVec 6)
  /-- Long-form high half of a product, signed by T1. (R243) -/
  | imulhiL (o : LR)
  /-- Short 64-bit add on register pairs. (R243) -/
  | iadd64Sr (g : BitVec 2) (d a b : BitVec 6)
  /-- Short 64-bit add of a pair and an immediate. (R243) -/
  | iadd64Si (g : BitVec 2) (d a i : BitVec 6)
  /-- Short scalar 64-bit add. (R243) -/
  | iadd64Su (k : BitVec 1) (d a b : BitVec 6)
  /-- Long-form 64-bit add, optionally with one extended 32-bit register. (R243) -/
  | iadd64L (o : Long)
  /-- Short integer negate. (R243) -/
  | inegSr (g : BitVec 2) (d a : BitVec 6)
  /-- Short scalar integer negate. (R243) -/
  | inegSu (d a : BitVec 6)
  /-- Long-form integer negate. (R243) -/
  | inegL (o : LR)
  /-- Short integer absolute value. (R243) -/
  | iabsSr (g : BitVec 2) (d a : BitVec 6)
  /-- Short scalar integer absolute value. (R243) -/
  | iabsSu (d a : BitVec 6)
  /-- Long-form integer absolute value. (R243) -/
  | iabsL (o : LR)
  /-- Short integer minimum. (R243) -/
  | iminSr (g : BitVec 2) (d a b : BitVec 6)
  /-- Short integer minimum with immediate. (R243) -/
  | iminSi (g : BitVec 2) (d a i : BitVec 6)
  /-- Short scalar integer minimum. (R243) -/
  | iminSu (k : BitVec 1) (d a b : BitVec 6)
  /-- Long-form integer minimum, signed by T1. (R243) -/
  | iminL (o : Long)
  /-- Short integer maximum. (R243) -/
  | imaxSr (g : BitVec 2) (d a b : BitVec 6)
  /-- Short integer maximum with immediate. (R243) -/
  | imaxSi (g : BitVec 2) (d a i : BitVec 6)
  /-- Short scalar integer maximum. (R243) -/
  | imaxSu (k : BitVec 1) (d a b : BitVec 6)
  /-- Long-form integer maximum. (R243) -/
  | imaxL (o : Long)
  /-- Short bitwise and. (R244) -/
  | andSr (g : BitVec 2) (d a b : BitVec 6)
  /-- Short bitwise and with immediate. (R244) -/
  | andSi (g : BitVec 2) (d a i : BitVec 6)
  /-- Short scalar bitwise and. (R244) -/
  | andSu (k : BitVec 1) (d a b : BitVec 6)
  /-- Long-form bitwise and. (R244) -/
  | andL (o : Long)
  /-- Short bitwise or. (R244) -/
  | orSr (g : BitVec 2) (d a b : BitVec 6)
  /-- Short bitwise or with immediate. (R244) -/
  | orSi (g : BitVec 2) (d a i : BitVec 6)
  /-- Short scalar bitwise or. (R244) -/
  | orSu (k : BitVec 1) (d a b : BitVec 6)
  /-- Long-form bitwise or. (R244) -/
  | orL (o : Long)
  /-- Short bitwise exclusive or. (R244) -/
  | xorSr (g : BitVec 2) (d a b : BitVec 6)
  /-- Short exclusive or with immediate. (R244) -/
  | xorSi (g : BitVec 2) (d a i : BitVec 6)
  /-- Short scalar exclusive or. (R244) -/
  | xorSu (k : BitVec 1) (d a b : BitVec 6)
  /-- Long-form exclusive or. (R244) -/
  | xorL (o : Long)
  /-- Short bitwise complement. (R244) -/
  | notSr (g : BitVec 2) (d a : BitVec 6)
  /-- Short scalar bitwise complement. (R244) -/
  | notSu (d a : BitVec 6)
  /-- Long-form bitwise complement. (R244) -/
  | notL (o : LR)
  /-- Short shift left by register count. (R245) -/
  | shlSr (g : BitVec 2) (d a b : BitVec 6)
  /-- Short shift left by immediate. (R245) -/
  | shlSi (g : BitVec 2) (d a i : BitVec 6)
  /-- Short scalar shift left. (R245) -/
  | shlSu (k : BitVec 1) (d a b : BitVec 6)
  /-- Long-form shift left. (R245) -/
  | shlL (o : LR)
  /-- Short logical shift right. (R245) -/
  | shrSr (g : BitVec 2) (d a b : BitVec 6)
  /-- Short logical shift right by immediate. (R245) -/
  | shrSi (g : BitVec 2) (d a i : BitVec 6)
  /-- Short scalar logical shift right. (R245) -/
  | shrSu (k : BitVec 1) (d a b : BitVec 6)
  /-- Long-form logical shift right. (R245) -/
  | shrL (o : LR)
  /-- Short arithmetic shift right. (R245) -/
  | sarSr (g : BitVec 2) (d a b : BitVec 6)
  /-- Short arithmetic shift right by immediate. (R245) -/
  | sarSi (g : BitVec 2) (d a i : BitVec 6)
  /-- Short scalar arithmetic shift right. (R245) -/
  | sarSu (k : BitVec 1) (d a b : BitVec 6)
  /-- Long-form arithmetic shift right. (R245) -/
  | sarL (o : LR)
  /-- Short rotate left. (R245) -/
  | rotlSr (g : BitVec 2) (d a b : BitVec 6)
  /-- Short rotate left by immediate. (R245) -/
  | rotlSi (g : BitVec 2) (d a i : BitVec 6)
  /-- Short scalar rotate left. (R245) -/
  | rotlSu (k : BitVec 1) (d a b : BitVec 6)
  /-- Long-form rotate left. (R245) -/
  | rotlL (o : LR)
  /-- Extract a bit field, sign- or zero-extended. (R246) -/
  | bfxL (o : LR)
  /-- Insert a bit field. (R246) -/
  | bfiL (o : LR)
  /-- Short population count. (R247) -/
  | popcSr (g : BitVec 2) (d a : BitVec 6)
  /-- Short scalar population count. (R247) -/
  | popcSu (d a : BitVec 6)
  /-- Long-form population count. (R247) -/
  | popcL (o : LR)
  /-- Short count of leading zeros. (R247) -/
  | clzSr (g : BitVec 2) (d a : BitVec 6)
  /-- Short scalar count of leading zeros. (R247) -/
  | clzSu (d a : BitVec 6)
  /-- Long-form count of leading zeros. (R247) -/
  | clzL (o : LR)
  /-- Short bit reversal. (R247) -/
  | brevSr (g : BitVec 2) (d a : BitVec 6)
  /-- Short scalar bit reversal. (R247) -/
  | brevSu (d a : BitVec 6)
  /-- Long-form bit reversal. (R247) -/
  | brevL (o : LR)
  /-- Short select between two sources by a predicate. (R249) -/
  | selSr (p : BitVec 2) (d a b : BitVec 6)
  /-- Long-form select by predicate p0-p7. (R249) -/
  | selL (o : LR)
  /-- Short vector register copy. (R248) -/
  | movSr (g : BitVec 2) (d a : BitVec 6)
  /-- Short scalar register copy. (R248) -/
  | movSu (d a : BitVec 6)
  /-- Long-form copy between vector and scalar registers. (R248) -/
  | movL (o : LR)
  /-- Read a special register with the LR form of mov and X = 1. (R208) -/
  | movSpecial (o : LR)
  /-- Load a 6-bit immediate into a vector register. (R248) -/
  | moviSi (g : BitVec 2) (d i : BitVec 6)
  /-- Load a 6-bit immediate into a scalar register. (R248) -/
  | moviSu (d i : BitVec 6)
  /-- Load a 32-bit immediate. (R248) -/
  | moviLi (o : LI)
  /-- Form a 64-bit address from a base pair and scaled index or immediate. (R250) -/
  | leaL (o : Long)
  /-- Short integer equality compare into a predicate pair. (R252) -/
  | icmpEqSc (g : BitVec 2) (t : BitVec 3) (q : BitVec 2) (w : BitVec 1) (a b : BitVec 6)
  /-- Short integer equality compare with immediate. (R252) -/
  | icmpEqSci (g : BitVec 2) (t : BitVec 3) (q : BitVec 2) (w : BitVec 1) (a i : BitVec 6)
  /-- Short integer inequality compare. (R252) -/
  | icmpNeSc (g : BitVec 2) (t : BitVec 3) (q : BitVec 2) (w : BitVec 1) (a b : BitVec 6)
  /-- Short integer inequality compare with immediate. (R252) -/
  | icmpNeSci (g : BitVec 2) (t : BitVec 3) (q : BitVec 2) (w : BitVec 1) (a i : BitVec 6)
  /-- Short signed less-than compare. (R252) -/
  | icmpLtSc (g : BitVec 2) (t : BitVec 3) (q : BitVec 2) (w : BitVec 1) (a b : BitVec 6)
  /-- Short less-than compare with immediate. (R252) -/
  | icmpLtSci (g : BitVec 2) (t : BitVec 3) (q : BitVec 2) (w : BitVec 1) (a i : BitVec 6)
  /-- Short less-or-equal compare. (R252) -/
  | icmpLeSc (g : BitVec 2) (t : BitVec 3) (q : BitVec 2) (w : BitVec 1) (a b : BitVec 6)
  /-- Short less-or-equal compare with immediate. (R252) -/
  | icmpLeSci (g : BitVec 2) (t : BitVec 3) (q : BitVec 2) (w : BitVec 1) (a i : BitVec 6)
  /-- Long-form integer compare with condition in T2. (R252) -/
  | icmpL (o : LR)
  /-- Short FP32 add. (R253) -/
  | faddSr (g : BitVec 2) (d a b : BitVec 6)
  /-- Short scalar FP32 add. (R253) -/
  | faddSu (d a b : BitVec 6)
  /-- Long-form floating add with type, rounding and saturation. (R253) -/
  | faddL (o : Long)
  /-- Short FP32 subtract. (R253) -/
  | fsubSr (g : BitVec 2) (d a b : BitVec 6)
  /-- Short scalar FP32 subtract. (R253) -/
  | fsubSu (d a b : BitVec 6)
  /-- Long-form floating subtract. (R253) -/
  | fsubL (o : Long)
  /-- Short FP32 multiply. (R253) -/
  | fmulSr (g : BitVec 2) (d a b : BitVec 6)
  /-- Short scalar FP32 multiply. (R253) -/
  | fmulSu (d a b : BitVec 6)
  /-- Long-form floating multiply. (R253) -/
  | fmulL (o : Long)
  /-- Fused multiply-add rounded once. (R253) -/
  | ffmaL (o : LR)
  /-- Short floating minimumNumber. (R253) -/
  | fminSr (g : BitVec 2) (d a b : BitVec 6)
  /-- Short scalar floating minimum. (R253) -/
  | fminSu (d a b : BitVec 6)
  /-- Long-form floating minimum. (R253) -/
  | fminL (o : Long)
  /-- Short floating maximumNumber. (R253) -/
  | fmaxSr (g : BitVec 2) (d a b : BitVec 6)
  /-- Short scalar floating maximum. (R253) -/
  | fmaxSu (d a b : BitVec 6)
  /-- Long-form floating maximum. (R253) -/
  | fmaxL (o : Long)
  /-- Short floating negate. (R253) -/
  | fnegSr (g : BitVec 2) (d a : BitVec 6)
  /-- Short scalar floating negate. (R253) -/
  | fnegSu (d a : BitVec 6)
  /-- Long-form floating negate. (R253) -/
  | fnegL (o : LR)
  /-- Short floating absolute value. (R253) -/
  | fabsSr (g : BitVec 2) (d a : BitVec 6)
  /-- Short scalar floating absolute value. (R253) -/
  | fabsSu (d a : BitVec 6)
  /-- Long-form floating absolute value. (R253) -/
  | fabsL (o : LR)
  /-- Short reciprocal special function. (R254) -/
  | frcpSr (g : BitVec 2) (d a : BitVec 6)
  /-- Short scalar reciprocal. (R254) -/
  | frcpSu (d a : BitVec 6)
  /-- Long-form reciprocal. (R254) -/
  | frcpL (o : LR)
  /-- Short reciprocal square root. (R254) -/
  | frsqSr (g : BitVec 2) (d a : BitVec 6)
  /-- Short scalar reciprocal square root. (R254) -/
  | frsqSu (d a : BitVec 6)
  /-- Long-form reciprocal square root. (R254) -/
  | frsqL (o : LR)
  /-- Short square root. (R254) -/
  | fsqrtSr (g : BitVec 2) (d a : BitVec 6)
  /-- Short scalar square root. (R254) -/
  | fsqrtSu (d a : BitVec 6)
  /-- Long-form square root. (R254) -/
  | fsqrtL (o : LR)
  /-- Short base-2 exponential. (R254) -/
  | fexp2Sr (g : BitVec 2) (d a : BitVec 6)
  /-- Short scalar base-2 exponential. (R254) -/
  | fexp2Su (d a : BitVec 6)
  /-- Long-form base-2 exponential. (R254) -/
  | fexp2L (o : LR)
  /-- Short base-2 logarithm. (R254) -/
  | flog2Sr (g : BitVec 2) (d a : BitVec 6)
  /-- Short scalar base-2 logarithm. (R254) -/
  | flog2Su (d a : BitVec 6)
  /-- Long-form base-2 logarithm. (R254) -/
  | flog2L (o : LR)
  /-- Short sine. (R254) -/
  | fsinSr (g : BitVec 2) (d a : BitVec 6)
  /-- Short scalar sine. (R254) -/
  | fsinSu (d a : BitVec 6)
  /-- Long-form sine. (R254) -/
  | fsinL (o : LR)
  /-- Short cosine. (R254) -/
  | fcosSr (g : BitVec 2) (d a : BitVec 6)
  /-- Short scalar cosine. (R254) -/
  | fcosSu (d a : BitVec 6)
  /-- Long-form cosine. (R254) -/
  | fcosL (o : LR)
  /-- Short hyperbolic tangent. (R254) -/
  | ftanhSr (g : BitVec 2) (d a : BitVec 6)
  /-- Short scalar hyperbolic tangent. (R254) -/
  | ftanhSu (d a : BitVec 6)
  /-- Long-form hyperbolic tangent. (R254) -/
  | ftanhL (o : LR)
  /-- Short classification mask of an FP32 value. (R255) -/
  | fclassSr (g : BitVec 2) (d a : BitVec 6)
  /-- Long-form classification of a floating value of any format. (R255) -/
  | fclassL (o : LR)
  /-- Short FP32 to INT32 conversion. (R257) -/
  | cvtSr (g : BitVec 2) (d a : BitVec 6)
  /-- Short scalar FP32 to INT32 conversion. (R257) -/
  | cvtSu (d a : BitVec 6)
  /-- Long-form conversion between any two types. (R257) -/
  | cvtL (o : LR)
  /-- Short FP32 equality compare. (R252) -/
  | fcmpEqSc (g : BitVec 2) (t : BitVec 3) (q : BitVec 2) (w : BitVec 1) (a b : BitVec 6)
  /-- Short FP32 inequality compare. (R252) -/
  | fcmpNeSc (g : BitVec 2) (t : BitVec 3) (q : BitVec 2) (w : BitVec 1) (a b : BitVec 6)
  /-- Short FP32 less-than compare. (R252) -/
  | fcmpLtSc (g : BitVec 2) (t : BitVec 3) (q : BitVec 2) (w : BitVec 1) (a b : BitVec 6)
  /-- Short FP32 less-or-equal compare. (R252) -/
  | fcmpLeSc (g : BitVec 2) (t : BitVec 3) (q : BitVec 2) (w : BitVec 1) (a b : BitVec 6)
  /-- Long-form floating compare with condition in T2. (R252) -/
  | fcmpL (o : LR)
  /-- Short unscaled INT4 dot product accumulate. (R259) -/
  | dot4Sr (g : BitVec 2) (d a b : BitVec 6)
  /-- Long-form 4-bit dot product with types and scales. (R259) -/
  | dot4L (o : LR)
  /-- Short unscaled INT8 dot product accumulate. (R259) -/
  | dot8Sr (g : BitVec 2) (d a b : BitVec 6)
  /-- Long-form 8-bit dot product with types and scales. (R259) -/
  | dot8L (o : LR)
  /-- Short pack of four FP32 registers into E4M3. (R260) -/
  | qpackSr (g : BitVec 2) (d a : BitVec 6)
  /-- Long-form pack into narrow elements, optionally scaled. (R260) -/
  | qpackL (o : LR)
  /-- Short unpack of four E4M3 elements. (R261) -/
  | qunpkSr (g : BitVec 2) (d a : BitVec 6)
  /-- Long-form unpack of narrow elements. (R261) -/
  | qunpkL (o : LR)
  /-- Short shuffle by per-lane source index. (R264) -/
  | shflSr (g : BitVec 2) (d a b : BitVec 6)
  /-- Short rotating shuffle by immediate. (R264) -/
  | shflRotSi (g : BitVec 2) (d a i : BitVec 6)
  /-- Long-form shuffle, indexed or rotating. (R264) -/
  | shflL (o : LR)
  /-- Short butterfly exchange by register. (R264) -/
  | xbflySr (g : BitVec 2) (d a b : BitVec 6)
  /-- Short butterfly exchange by immediate. (R264) -/
  | xbflySi (g : BitVec 2) (d a i : BitVec 6)
  /-- Long-form butterfly exchange. (R264) -/
  | xbflyL (o : LR)
  /-- Short broadcast from a register-named lane. (R264) -/
  | bcastSr (g : BitVec 2) (d a b : BitVec 6)
  /-- Short broadcast from an immediate lane. (R264) -/
  | bcastSi (g : BitVec 2) (d a i : BitVec 6)
  /-- Long-form broadcast, possibly to a scalar. (R264) -/
  | bcastL (o : LR)
  /-- Combine a predicate over contributing lanes: any, all, eq or ballot. (R265) -/
  | voteSf (g : BitVec 2) (m p : BitVec 3) (d : BitVec 6)
  /-- Long-form vote. (R265) -/
  | voteL (o : LR)
  /-- Set a predicate in the lowest contributing lane only: `p` is [19:15], the guard of every SF word (R47) above pd. (R266) -/
  | elect (p : BitVec 5)
  /-- Short integer add reduction over lanes. (R267) -/
  | lredSr (g : BitVec 2) (d a : BitVec 6)
  /-- Long-form lane reduction with operation and type. (R267) -/
  | lredL (o : LR)
  /-- Short inclusive integer add scan. (R267) -/
  | lscanSr (g : BitVec 2) (d a : BitVec 6)
  /-- Long-form lane scan, inclusive or exclusive. (R267) -/
  | lscanL (o : LR)
  /-- Factored second-moment estimate, optionally reciprocal square root. (R268) -/
  | vfacL (o : LR)
  /-- Short global 32-bit load. (R106) -/
  | ldSi (g : BitVec 2) (d a i : BitVec 6)
  /-- Long-form load with space, type, full/empty action and acquire scope. (R106) -/
  | ldL (o : Long)
  /-- Short global 32-bit store. (R109) -/
  | stSi (g : BitVec 2) (d a i : BitVec 6)
  /-- Long-form store with space, type, set-full and release scope. (R109) -/
  | stL (o : Long)
  /-- Short prefetch of a line into L1 or L2. (R110) -/
  | prefSi (g : BitVec 2) (l a i : BitVec 6)
  /-- Long-form prefetch. (R110) -/
  | prefL (o : Long)
  /-- Atomic read-modify-write at the home returning old or new value. (R116) -/
  | atomL (o : LR)
  /-- Atomic reduction without result, including BFP32 add. (R117) -/
  | redL (o : LR)
  /-- 32-bit compare-and-swap. (R118) -/
  | casL (o : LR)
  /-- 64-bit compare-and-swap. (R118) -/
  | cas64L (o : LR)
  /-- 128-bit compare-and-swap. (R118) -/
  | cas128L (o : LR)
  /-- Short decaying load of DE64 elements aged to the grid's step. (R138) -/
  | dldSi (g : BitVec 2) (d a i : BitVec 6)
  /-- Long-form decaying load. (R138) -/
  | dldL (o : LR)
  /-- Short decaying store stamping with the grid's step. (R138) -/
  | dstSi (g : BitVec 2) (d a i : BitVec 6)
  /-- Long-form decaying store. (R138) -/
  | dstL (o : LR)
  /-- Merge an operand into a decaying element. (R138) -/
  | daddL (o : LR)
  /-- Merge alpha times an operand into a decaying element. (R138) -/
  | demaL (o : LR)
  /-- Merge a value-stamp pair into a decaying element. (R138) -/
  | dmrgL (o : LR)
  /-- Read the tenant odometer. (R141) -/
  | odoRd (g : BitVec 2) (d : BitVec 6)
  /-- Advance the tenant odometer unless a lag bound refuses it. (R133) -/
  | odoAdv (g : BitVec 2) (d n : BitVec 6)
  /-- Bind the group into limb segments of n lanes. (R273) -/
  | lbind (n : BitVec 3)
  /-- Unbind the group. (R273) -/
  | lfree
  /-- Short segment add with carry to p3. (R276) -/
  | laddSr (g : BitVec 2) (d a b : BitVec 6)
  /-- Long-form segment add with carry and overflow predicates. (R276) -/
  | laddL (o : LR)
  /-- Short segment add with carry-in p3. (R276) -/
  | ladcSr (g : BitVec 2) (d a b : BitVec 6)
  /-- Long-form segment add with carry-in. (R276) -/
  | ladcL (o : LR)
  /-- Short segment subtract with borrow. (R276) -/
  | lsubSr (g : BitVec 2) (d a b : BitVec 6)
  /-- Long-form segment subtract. (R276) -/
  | lsubL (o : LR)
  /-- Short segment subtract with borrow-in. (R276) -/
  | lsbcSr (g : BitVec 2) (d a b : BitVec 6)
  /-- Long-form segment subtract with borrow-in. (R276) -/
  | lsbcL (o : LR)
  /-- Short segment negate. (R276) -/
  | lnegSr (g : BitVec 2) (d a : BitVec 6)
  /-- Long-form segment negate. (R276) -/
  | lnegL (o : LR)
  /-- Short segment shift left by lane-0 count. (R277) -/
  | lshlSr (g : BitVec 2) (d a b : BitVec 6)
  /-- Short segment shift left by immediate. (R277) -/
  | lshlSi (g : BitVec 2) (d a k : BitVec 6)
  /-- Long-form segment shift left, optionally funnel. (R277) -/
  | lshlL (o : LR)
  /-- Short segment shift right. (R277) -/
  | lshrSr (g : BitVec 2) (d a b : BitVec 6)
  /-- Short segment shift right by immediate. (R277) -/
  | lshrSi (g : BitVec 2) (d a k : BitVec 6)
  /-- Long-form segment shift right, arithmetic or funnel. (R277) -/
  | lshrL (o : LR)
  /-- Short unsigned less-than compare of segments. (R278) -/
  | lcmpSc (g : BitVec 2) (t : BitVec 3) (q : BitVec 2) (w : BitVec 1) (a b : BitVec 6)
  /-- Long-form segment compare. (R278) -/
  | lcmpL (o : LR)
  /-- Segment multiply by one limb and add, top limb to c. (R279) -/
  | lmadL (o : LR)
  /-- Short add of b shifted one limb into a. (R276) -/
  | lcarrySr (g : BitVec 2) (d a b : BitVec 6)
  /-- Long-form lcarry. (R276) -/
  | lcarryL (o : LR)
  /-- Check a parameter block and enqueue a matrix operation at the tile's engine. (R293) -/
  | mma (g : BitVec 2) (q : BitVec 6) (l : BitVec 1)
  /-- Hold the group until its matrix counter is at most n. (R295) -/
  | mmaWait (g : BitVec 2) (n : BitVec 3)
  /-- Check a drain block and enqueue a drain of a tile. (R297) -/
  | mmaDrainSf (g : BitVec 2) (q : BitVec 6) (l : BitVec 1)
  /-- Long-form drain with wider guard and scalar range. (R297) -/
  | mmaDrainL (o : LR)
  /-- Wait until the group's register results are written and end pending state. (R291) -/
  | ofence (g : BitVec 2)
  /-- Clear a tile of the accumulator store. (R302) -/
  | accClrSf (g : BitVec 2) (k : BitVec 6)
  /-- Long-form accumulator clear. (R302) -/
  | accClrL (o : LR)
  /-- Read accumulator columns into vector registers. (R302) -/
  | accLd (o : LR)
  /-- Write vector registers into accumulator columns. (R302) -/
  | accSt (o : LR)
  /-- Request more accumulator blocks, granted at once or refused. (R303) -/
  | accGrow (g : BitVec 2) (d : BitVec 6) (k : BitVec 4)
  /-- Enqueue a copy command at the core's copy engine. (R154) -/
  | cpySf (g : BitVec 2) (a : BitVec 6)
  /-- Long-form copy with optional source and destination override. (R154) -/
  | cpyL (o : LR)
  /-- Enqueue a quantising copy. (R155) -/
  | cpyQSf (g : BitVec 2) (a : BitVec 6)
  /-- Long-form quantising copy. (R155) -/
  | cpyQL (o : LR)
  /-- Enqueue a multicast fill into several teams' local memory. (R158) -/
  | cpyMcSf (g : BitVec 2) (a : BitVec 6)
  /-- Long-form multicast fill. (R158) -/
  | cpyMcL (o : LR)
  /-- Hold the group until its copy counter is at most n. (R162) -/
  | cpyWait (g : BitVec 2) (n : BitVec 6)
  /-- Read and clear copy status and counter. (R163) -/
  | cpyPoll (g : BitVec 2) (d : BitVec 6)
  /-- Enqueue a unicast flow transfer. (R198) -/
  | flowSendSf (g : BitVec 2) (f a l : BitVec 6)
  /-- Long-form flow send, optionally as key transfer. (R198) -/
  | flowSendL (o : LR)
  /-- Enqueue a multicast flow transfer. (R198) -/
  | flowMcastSf (g : BitVec 2) (f a l : BitVec 6)
  /-- Long-form multicast flow send. (R198) -/
  | flowMcastL (o : LR)
  /-- Hold until a flow end reaches a generation. (R199) -/
  | flowWaitSf (p : BitVec 2) (f e : BitVec 6)
  /-- Long-form flow wait. (R199) -/
  | flowWaitL (o : LR)
  /-- Read a flow end statistic. (R200) -/
  | flowStatSf (g : BitVec 2) (d f e : BitVec 6)
  /-- Long-form flow statistic read. (R200) -/
  | flowStatL (o : LR)
  /-- Start a collective from a descriptor. (R323) -/
  | collStartSf (g : BitVec 2) (a : BitVec 6)
  /-- Long-form collective start. (R323) -/
  | collStartL (o : LR)
  /-- Hold until the collective counter is at most n. (R323) -/
  | collWaitSf (g : BitVec 2) (n : BitVec 3)
  /-- Long-form collective wait. (R323) -/
  | collWaitL (o : LR)
  /-- Read collective or peloton status. (R323) -/
  | collStatSf (g : BitVec 2) (d p e : BitVec 6)
  /-- Long-form collective status read. (R323) -/
  | collStatL (o : LR)
  /-- Arm a trigger on the time counter. (R325) -/
  | trigAtSf (g : BitVec 2) (r t : BitVec 6)
  /-- Long-form time trigger. (R325) -/
  | trigAtL (o : LR)
  /-- Arm a trigger on a completion record's count. (R325) -/
  | trigOnSf (g : BitVec 2) (r w v : BitVec 6)
  /-- Long-form count trigger. (R325) -/
  | trigOnL (o : LR)
  /-- Branch by an 18-bit packet displacement. (R334) -/
  | braSb (g : BitVec 2) (d : BitVec 18)
  /-- Branch by a 32-bit packet displacement. (R334) -/
  | braLi (o : LI)
  /-- Branch to a byte offset held in a vector register. (R335) -/
  | brxSf (g : BitVec 2) (a : BitVec 6)
  /-- Long-form indirect branch, vector or scalar offset. (R335) -/
  | brxL (o : LR)
  /-- Call: push return entry and branch. (R336) -/
  | callSb (g : BitVec 2) (d : BitVec 18)
  /-- Call with a 32-bit displacement. (R336) -/
  | callLi (o : LI)
  /-- Pop the return stack and restore the meeting register. (R336) -/
  | ret (g : BitVec 2)
  /-- Set or clear each lane's meeting address. (R337) -/
  | meetSb (g : BitVec 2) (d : BitVec 18)
  /-- Set the meeting address with a 32-bit displacement. (R337) -/
  | meetLi (o : LI)
  /-- End each active lane whose guard reads 1. (R338) -/
  | exit (g : BitVec 2)
  /-- Wait at a team-wide change of group width. (R339) -/
  | regroup (g w : BitVec 2)
  /-- Open an idempotent region and take the region-entry snapshot. (R340) -/
  | rgn (g : BitVec 2)
  /-- Make the group the youngest ready group of its partition. (R340) -/
  | yield (g : BitVec 2)
  /-- Do nothing. (R340) -/
  | nop (g : BitVec 2)
  /-- Issue the next instruction count times with stepped register fields. (R53) -/
  | rep (n : BitVec 6) (e : BitVec 1) (k : BitVec 2) (f : BitVec 1) (j : BitVec 2) (h : BitVec 1) (m : BitVec 2)
  /-- Arrive n times on a barrier slot as a core-scope release. (R344) -/
  | barArriveSf (g : BitVec 2) (l : BitVec 6) (n : BitVec 12)
  /-- Long-form barrier arrival. (R344) -/
  | barArriveL (o : LR)
  /-- Add expected bytes to a barrier slot, optionally arriving. (R344) -/
  | barExpSf (g : BitVec 2) (l b : BitVec 6) (v : BitVec 1)
  /-- Long-form barrier expectation. (R344) -/
  | barExpL (o : LR)
  /-- Hold until the barrier slot's phase differs from ph. (R344) -/
  | barWaitSf (g : BitVec 2) (l : BitVec 6) (h : BitVec 1)
  /-- Long-form barrier wait. (R344) -/
  | barWaitL (o : LR)
  /-- Scoped release-acquire fence with side-log wait. (R346) -/
  | fence (g : BitVec 2) (e : BitVec 3)
  /-- Acquire a region's ownership token. (R347) -/
  | tokAcqSf (g : BitVec 2) (d a : BitVec 6)
  /-- Long-form token acquire. (R347) -/
  | tokAcqL (o : LR)
  /-- Write back and release a region's token. (R347) -/
  | tokRelSf (g : BitVec 2) (d a : BitVec 6)
  /-- Long-form token release. (R347) -/
  | tokRelL (o : LR)
  /-- Take a user trap with code n. (R348) -/
  | trap (g : BitVec 2) (n : BitVec 8)
  /-- Take a breakpoint trap to the module kernel. (R348) -/
  | brk (g : BitVec 2) (n : BitVec 8)
  /-- Read a tenant system register. (R349) -/
  | sysRdSf (g : BitVec 2) (d : BitVec 6) (n : BitVec 12)
  /-- Long-form system register read with number in a scalar. (R349) -/
  | sysRdL (o : LR)
  /-- Write a tenant system register. (R349) -/
  | sysWrSf (g : BitVec 2) (d : BitVec 6) (n : BitVec 12)
  /-- Long-form system register write. (R349) -/
  | sysWrL (o : LR)
  /-- Privileged read of the kernel register space. (R349) -/
  | sysRdK (o : LR)
  /-- Privileged write of the kernel register space. (R349) -/
  | sysWrK (o : LR)
  /-- Submit a launch record to the tenant's launch path. (R350) -/
  | launchSf (g : BitVec 2) (a : BitVec 6)
  /-- Long-form launch submission. (R350) -/
  | launchL (o : LR)
  /-- Wait as ofence, then sample the time counter. (R351) -/
  | tstamp (g : BitVec 2) (d : BitVec 6)
  /-- Read a 64-bit counter. (R352) -/
  | cntRdSf (g : BitVec 2) (d : BitVec 6) (n : BitVec 12)
  /-- Long-form counter read. (R352) -/
  | cntRdL (o : LR)
  /-- TFACT write 0: end the handler and reissue the trapped word. (R381) -/
  | handlerRetry (team grp : Nat)
  /-- TFACT write 1: end the handler and resume after the trapped word. (R381) -/
  | handlerSkip (team grp : Nat)
  /-- TFACT write 2: end the handler and exit its threads. (R381) -/
  | handlerEnd (team grp : Nat)
  /-- Write HOSTDB: raise a doorbell interrupt on the VF as a system-scope release. (R349) -/
  | hostdbWrite
  /-- A pending numeric or deferred-store trap is taken before the group's next issue. (R383) -/
  | pendingTrapTaken (team grp : Nat)
  /-- A loaded sector arrives and its lanes are written into the destination. (R111) -/
  | loadSectorArrival (i : Nat)
  /-- The place of performance acknowledges an outstanding store or reduction. (R355) -/
  | storeAck (i : Nat)
  /-- A peer store is refused and moves to the side log with its followers. (R114) -/
  | storeRefused (i : Nat)
  /-- An access or atomic reaches its home slice and is performed whole. (R88) -/
  | sliceOperation (i err : Nat)
  /-- Module kernel starts a page migration and recalls its token. (R82) -/
  | migrationStart (page size mod pa : Nat)
  /-- One line is locked, copied, acknowledged and marked copied. (R82) -/
  | migrationLineCopy (entry line : Nat)
  /-- Close a migration entry, refused while any bit is clear. (R83) -/
  | migrationClose (entry : Nat)
  /-- A sweep pass begins when the odometer passes PSTEP by PACE. (R144) -/
  | sweepPassStart (i : Nat)
  /-- A sweep engine rewrites one old element decayed to the current step. (R144) -/
  | sweepVisit (i elem : Nat)
  /-- INVCMD KIND 0: invalidate one page's translations. (R74) -/
  | invOnePage (ctx vpn : Nat)
  /-- INVCMD KIND 1: invalidate a virtual range of INVLEN pages. (R74) -/
  | invVirtualRange (ctx vpn len : Nat)
  /-- INVCMD KIND 2: invalidate a whole context. (R74) -/
  | invWholeContext (ctx : Nat)
  /-- INVCMD KIND 3: invalidate entries derived from one range-table entry. (R74) -/
  | invRangeEntry (ctx idx : Nat)
  /-- INVCMD KIND 4: invalidate every context. (R74) -/
  | invEveryContext
  /-- An invalidation completes and DONE reads 1. (R74) -/
  | invComplete
  /-- Module kernel resolves a fault record; the access is retried. (R384) -/
  | faultResolve (rid : Nat)
  /-- Module kernel ends the team of a fault record. (R384) -/
  | faultEnd (rid : Nat)
  /-- Module kernel ends the team and reports the frame to the VF. (R384) -/
  | faultReport (rid : Nat)
  /-- Module kernel reports a loss with no group to the tenant's host driver. (R384) -/
  | lossReport (ctx : Nat) (info addr mask : DWord)
  /-- Module kernel abandons an engine-faulted command. (R386) -/
  | engineAbandon (rid : Nat)
  /-- Replay a context's side-log entries in sequence order. (R125) -/
  | sideLogReplay (core ctx : Nat)
  /-- Discard a context's side-log entries and mark deferred-store traps. (R125) -/
  | sideLogDiscard (core ctx : Nat)
  /-- An increment reaches the exception counter unit and may fire its action. (R240) -/
  | excIncrement
  /-- A new counting window begins and WCNT and FIRED clear. (R240) -/
  | excWindowStart (ctx cls : Nat)
  /-- A READ request arrives, passes filters and is performed at the home slice. (R170) -/
  | fabricRead (src tid tag : Nat) (how : Machine.PeerHow) (pa n : Nat)
  /-- A WRITE request arrives and is performed at the home slice. (R170) -/
  | fabricWrite (src tid tag : Nat) (how : Machine.PeerHow) (pa : Nat) (bytes : List (Nat × Byte))
  /-- An ATOMIC request arrives and is performed once at the home atomic unit. (R170) -/
  | fabricAtomic (src tid tag pa w : Nat) (op : Machine.MemOp × Machine.PeerHow) (data cmp : Nat)
  /-- A response returns to the requester and ends the outstanding request. (R171) -/
  | fabricResponse (src tid status : Nat) (data : List Byte)
  /-- Home hub receives a token acquire and recalls, grants or refuses. (R78) -/
  | tokenAcquire (src tid tag region : Nat)
  /-- Home hub receives a token release. (R78) -/
  | tokenRelease (src tid tag region : Nat)
  /-- Holder receives a recall, writes back and gives up the token. (R79) -/
  | tokenRecall (src tid tag region : Nat)
  /-- Grant message from exporter after its filter entry is written. (R76) -/
  | grant (incoming : Option Nat) (peer id base len perm : Nat)
  /-- Importer acknowledges a grant. (R76) -/
  | grantAck (incoming : Option Nat) (peer id : Nat)
  /-- Exporter recalls a grant and starts its deadline timer. (R76) -/
  | recallGrant (incoming : Option Nat) (peer id deadline : Nat)
  /-- Exporter removes the grant, waits for admitted requests, frees frames. (R76) -/
  | recallAck (incoming : Option Nat) (peer id : Nat)
  /-- Recall deadline expires: deny entry written, grant removed. (R77) -/
  | recallDeadline (id : Nat)
  /-- Importer receives DENY after an expired recall. (R76) -/
  | deny (peer : Nat × Nat)
  /-- An IEEE 1588 event message is timestamped by the time unit. (R324) -/
  | ptpMessage (port : Nat) (kind : Machine.PtpMsg)
  /-- Module kernel steps the time counter forward, firing passed triggers. (R324) -/
  | timeStep (t : DWord)
  /-- A flit fails CRC; the sender resends from its sequence number. (R166) -/
  | flitReplayRequest (port seq : Nat)
  /-- A DOWN control flit arrives and the far end enters DOWN. (R173) -/
  | downFlit (port : Nat)
  /-- No valid flit for 10 µs: the port enters DOWN. (R173) -/
  | linkSilence (port : Nat)
  /-- A port leaves service; routes avoid it and outstanding requests are re-sent. (R174) -/
  | portDown (port : Nat)
  /-- A DOWN port retrains every 100 ms. (R173) -/
  | retrainTimer (port : Nat)
  /-- Training ends: the port enters UP or NARROW at both ends. (R173) -/
  | trainingComplete (port : Nat) (good : List Nat)
  /-- A CONTROL broadcast tells every hub a link has left service. (R174) -/
  | routeChangeBroadcast (src tid a b : Nat)
  /-- A route returns; in-doubt requests are re-sent first. (R174) -/
  | routeRestored (a b : Nat)
  /-- Derailleur samples error ratio or margin and may mark a lane weak. (R175) -/
  | laneSample (port lane : Nat) (eye : Bool) (high margin : Nat)
  /-- A SHIFT control flit names a weak lane and a switch flit number. (R176) -/
  | shift (port lane n : Nat)
  /-- The peer acknowledges a lane swap. (R176) -/
  | shiftAck (port n m : Nat)
  /-- No SHIFT_ACK within 100 µs: re-send, or down after 3 attempts. (R176) -/
  | shiftAckTimeout (port : Nat)
  /-- Flit N reached: traffic moves to the new lane map. (R176) -/
  | laneMapSwitch (port : Nat)
  /-- Every 250 µs the hub sends heartbeats to peloton peers. (R326) -/
  | heartbeatTimer
  /-- A heartbeat CONTROL packet arrives from a member. (R326) -/
  | heartbeat (src tid : Nat)
  /-- No heartbeat for 1.5 ms or no route: MEMBER_FAIL raised. (R326) -/
  | memberFail (mod : Nat)
  /-- A send end begins its next queued transfer and sends THDR. (R190) -/
  | flowTransferStart (ctx flow : Nat)
  /-- A BLOCKS message arrives and each block is checked and applied. (R191) -/
  | blocks (src tid tag slot base cnt : Nat) (body : List Byte)
  /-- A transfer header arrives and is accepted, refused or found lagging. (R191) -/
  | thdr (src tid tag : Nat) (hdr : DWord) (body : List Byte) (chunk : Option Machine.ChunkMeta)
  /-- A TAIL arrives; missing indices are requested or the transfer completes. (R191) -/
  | tail (src tid tag : Nat) (hdr : DWord) (body : List Byte)
  /-- A RESYNC arrives and the range is re-sent as KEY. (R193) -/
  | resync (src tid tag : Nat) (hdr : DWord) (body : List Byte)
  /-- A receiver acknowledgement arrives; the transfer may end. (R190) -/
  | ack (src tid tag : Nat) (hdr : DWord) (body : List Byte)
  /-- ABORT arrives at a receive end, which clears BUSY. (R196) -/
  | abort (src tid tag : Nat) (hdr : DWord) (body : List Byte)
  /-- Flow deadline after TAIL expires and unacknowledged receivers are excluded. (R192) -/
  | flowDeadline (ctx flow : Nat)
  /-- Write V = 1 to a flow table entry, zeroing its histories. (R180) -/
  | flowEndCreate (ctx flow slot : Nat) (v : BitVec 256)
  /-- Write V = 0 to a flow end, stopping transfers and releasing waiters. (R180) -/
  | flowEndDestroy (ctx flow : Nat) (v : BitVec 256)
  /-- Context 0 writes a multicast receiver slot. (R182) -/
  | mcastSlotWrite (grp i : Nat) (v : DWord)
  /-- An abort from another member ends a collective with ABORTED. (R328) -/
  | collAbort (src tid tag pnum ord : Nat)
  /-- SHRINK command changes members and epoch and settles collectives. (R332) -/
  | pelotonShrink (ctx pnum : Nat) (members : BitVec 256) (epoch : Word)
  /-- GROW command adds members with a new epoch. (R332) -/
  | pelotonGrow (ctx pnum : Nat) (members : BitVec 256) (epoch : Word)
  /-- RERUN command reruns a collective with doubled scales. (R332) -/
  | pelotonRerun (ctx pnum coll : Nat)
  /-- Context 0 writes a peloton entry; setting V zeroes EPOCH. (R305) -/
  | pelotonWrite (i : Nat) (v : BitVec 512)
  /-- The time counter reaches an armed trigger, which launches its work. (R325) -/
  | triggerTimeFire (id : Nat)
  /-- A watched COUNT write meets an armed trigger's target. (R325) -/
  | triggerWatchFire (id : Nat)
  /-- A VF doorbell write appends a launch record or is refused. (R396) -/
  | doorbell (vf q : Nat) (v : DWord)
  /-- A record becomes queue head and is read and checked. (R371) -/
  | queueHead (ctx q : Nat) (data : List Byte)
  /-- A watched COUNT reaches WAITVAL and the head may be placed. (R371) -/
  | dependenceMet (ctx q : Nat)
  /-- The hub places a team where all reserved resources are free. (R373) -/
  | teamPlacement (core : Nat)
  /-- A team's groups and commands have all ended; reservations released. (R338) -/
  | teamEnd (team : Nat)
  /-- Every thread waits and counters are zero: the width changes. (R210) -/
  | regroupEffect (team : Nat)
  /-- The copy engine starts a queued command and reads its shape record. (R152) -/
  | copyStart (core : Nat) (data : List Byte)
  /-- The copy engine writes one piece, setting full bits and counting down slots. (R151) -/
  | copyPiece (id first count : Nat) (data : List Byte) (answer : Nat)
  /-- The engine performs a queued matrix operation on its tile. (R293) -/
  | mmaPerform (id : Nat)
  /-- The engine drains a tile with scale, residual, dropout and conversion. (R298) -/
  | drainPerform (id first count answer : Nat)
  /-- PREEMPT OP SAVE: stop and save a context. (R390) -/
  | preemptSave (ctx : Nat)
  /-- A closing instruction's result misses the 10 µs wait and is made partly performed. (R390) -/
  | saveResultTimeout (team grp : Nat)
  /-- A core's image share is written and its resources released. (R390) -/
  | saveImageWritten (core : Nat)
  /-- PREEMPT OP RESUME: restore and restart a saved context. (R392) -/
  | preemptResume (ctx : Nat)
  /-- Context 0 creates a tenant context and enables its VF. (R397) -/
  | tenantCreate (ctx map dtag root limit deadline : Nat)
  /-- FLR or kernel command discards a tenant's work within 50 ms. (R398) -/
  | tenantReset (ctx : Nat)
  /-- Boot ROM reads, verifies and starts the firmware image. (R399) -/
  | resetNRelease
  /-- RECCTL GO verifies a staged image and programs flash. (R402) -/
  | recoveryGo (len : Nat)
  /-- Extend a measurement register with a digest. (R401) -/
  | measurementExtend (i : Nat) (d : BitVec 512)
  /-- Build and sign an attestation report over a nonce. (R403) -/
  | attestationRequest (ctx : Nat) (nonce : BitVec 512)
  /-- An MCTP or PLDM message is served or answered unsupported. (R404) -/
  | mctpMessage (kind : Nat) (pldm : Machine.Pldm) (nonce : BitVec 512)
  /-- Host read through a BAR2 window. (R395) -/
  | bar2Read (vf off n : Nat)
  /-- Host write through a BAR2 window. (R395) -/
  | bar2Write (vf off : Nat) (bytes : List Byte)
  /-- Move a VF's BAR2 window. (R395) -/
  | winbaseWrite (vf : Nat) (v : DWord)
  /-- A die reaches 105 °C; power target drops to 1,260 W. (R405) -/
  | thermalLimit (die : Nat)
  /-- Every die below 100 °C; the normal target returns. (R405) -/
  | thermalClear (die : List Nat)
  /-- A die reaches 120 °C; issue stops and THERMTRIP_N asserts. (R405) -/
  | thermtrip (die : Nat)
  /-- Every 24 hours firmware computes wear records. (R406) -/
  | wearUpdate (recs : List (BitVec 128))
  /-- Write a decode table entry; unassigned or privileged ops refused. (R55) -/
  | decodeEntryWrite (ctx opc : Nat) (v : Bool) (op : Nat)
  /-- Load a context's whole decode table from M3 or M2. (R56) -/
  | decodeTableLoad (ctx map : Nat)
  /-- Write a range-table entry, refused on overlap or bad target. (R69) -/
  | rangeEntryWrite (ctx i : Nat) (v : BitVec 128)
  /-- Write a decay class entry, refused if invalid. (R130) -/
  | decayClassWrite (ctx i : Nat) (v : BitVec 128)
  /-- Write a sweep range entry; V set latches PSTEP. (R143) -/
  | sweepRangeWrite (i : Nat) (v : BitVec 128)
  /-- Write a pannier entry, refused if invalid. (R160) -/
  | pannierWrite (ctx i : Nat) (v : BitVec 256)
  /-- Write a launch counter; V sets COUNT to RELOAD. (R320) -/
  | launchCounterWrite (ctx i : Nat) (v : BitVec 192)
  /-- Write a launch queue's priority and enable. (R370) -/
  | queueControlWrite (ctx q : Nat) (v : DWord)
  /-- Write an exception control register, refused with ACT 3. (R239) -/
  | excControlWrite (ctx cls : Nat) (v : DWord)
  /-- CLR bit zeroes TOTAL, WCNT and FIRED. (R239) -/
  | excClear (ctx cls : Nat)
  /-- Write to a register with no behaviour of its own. (R6) -/
  | registerWrite (n : Nat) (v : DWord)
  /-- A send end's read of one source block completes; the block is predicted, coded, written to history and sent to each receiver. (R190) -/
  | flowSourceBlockRead (ctx flow : Nat) (data : List Byte)
  /-- The hub finishes zeroing a new flow end's histories, clears BUSY and accepts transfers. (R180) -/
  | historyZeroingDone (ctx flow : Nat)
  /-- A non-load long-class result (special function, cross-lane, acc.ld, sys.rd, cnt.rd, flow.stat and the like) is written, possibly ending a park. (R46) -/
  | longResultWritten (team grp i : Nat)
  /-- A collective hop waiting on a missing end, a newer-epoch chunk or a malformed peer reaches the tenant's flow deadline and fails with FLOW. (R307) -/
  | collFlowDeadline (id : Nat)
  /-- The module kernel writes the POD register, and ports facing modules outside the shape enter HELD. (R164) -/
  | podWrite (rows cols row col : Nat)
  /-- The board removes the rails or power good falls, losing all module state and leaving any flash programming incomplete. (R405) -/
  | powerLoss
deriving DecidableEq, Repr

end Sys2Proof
end

