-- ==== Sys2Proof/Machine/Fields.lean ====
section
/-!
DEFINITION. The field checks of decode (R47, R49, R51, R57): for each instruction, the codes and registers its entry
accepts. `Instr.reason i` is the reason of Table 3.7 that makes the encoding illegal, or none.
-/

namespace Sys2Proof

/-- What a register field of a long form may hold. -/
inductive Use where
  /-- The field is not used: zero, and its K bit 0. -/
  | zero
  /-- A vector register whose number is a multiple of `m`. -/
  | vec (m : Nat)
  /-- A scalar register, at most s95, whose number is a multiple of `m`. -/
  | sca (m : Nat)
  /-- Either kind. -/
  | any (m : Nat)
  /-- A number, with K = 0. -/
  | num (max : Nat)
deriving DecidableEq, Repr

/-- Whether a field and its K bit fit the use (R47, R49). -/
def Use.fits (k : Bool) (n : Nat) : Use → Bool
  | .zero => !k && n == 0
  | .vec m => !k && n % m == 0
  | .sca m => k && decide (n ≤ 95) && n % m == 0
  | .any m => (!k || decide (n ≤ 95)) && n % m == 0
  | .num mx => !k && decide (n ≤ mx)

/-- What an entry accepts in its LR form. -/
structure LRUse where
  t1 : List Nat := [0]
  t2 : List Nat := [0]
  rm : List Nat := [0]
  c : Use := .zero
  d : Use := .zero
  a : Use := .zero
  b : Use := .zero
  sat : Bool := false
  x : Bool := false
deriving DecidableEq, Repr

/-- Whether an LR form holds only what its entry accepts. -/
def LRUse.fits (u : LRUse) (o : LR) : Bool :=
  u.t1.contains o.t1.toNat && u.t2.contains o.t2.toNat && u.rm.contains o.rm.toNat &&
  u.c.fits false o.c.toNat && u.d.fits o.kd o.d.toNat && u.a.fits o.ka o.a.toNat && u.b.fits o.kb o.b.toNat &&
  (u.sat || !o.sat) && (u.x || !o.x)

/-- Reason 5, FIELD, unless the test holds (Table 3.7). -/
def fieldUnless (b : Bool) : Option Nat := if b then none else some 5

/-- Kd = 1 makes every register source scalar (R241). -/
def LR.uniform (o : LR) : Bool := !o.kd || (o.ka && o.kb)

def intTypes : List Nat := [2, 3, 6, 7]
def fltTypes : List Nat := [8, 9, 10]
def anyRM : List Nat := [0, 1, 2, 3, 4]
def LR.wide (o : LR) : Bool := o.t1 == 3 || o.t1 == 7
def LR.mult (o : LR) : Nat := if o.wide then 2 else 1

/-- Three-operand integer LR forms (R243, R244). -/
def chkInt3 (types : List Nat) (sat : Bool) (o : LR) : Bool :=
  let m := o.mult
  ({ t1 := types, d := .any m, a := .any m, b := .any m, sat := sat } : LRUse).fits o && o.uniform

/-- Unary integer LR forms. -/
def chkInt2 (types : List Nat) (sat narrow : Bool) (o : LR) : Bool :=
  let m := o.mult
  ({ t1 := types, d := .any (if narrow then 1 else m), a := .any m, sat := sat } : LRUse).fits o && (!o.kd || o.ka)

/-- LI forms: K = 1 makes d and a scalar (R241). -/
def chkLI (m : Nat) (o : LI) : Bool :=
  (Use.any m).fits o.k o.d.toNat && (Use.any m).fits o.k o.a.toNat

/-- LR and LI of a three-operand integer operation. -/
def chkLong (lr : LR → Bool) (m : Nat) : Long → Option Nat
  | .lr o => fieldUnless (lr o)
  | .li o => fieldUnless (chkLI m o)

/-- Shifts: the count is one register (R245). -/
def chkShift (o : LR) : Bool :=
  let m := o.mult
  ({ t1 := intTypes, d := .any m, a := .any m, b := .any 1 } : LRUse).fits o && o.uniform

/-- Floating LR forms with sources a and b (R253). -/
def chkFlt3 (rm : List Nat) (sat : Bool) (c : Use) (o : LR) : Bool :=
  ({ t1 := fltTypes, rm := rm, c := c, d := if c = .zero then .any 1 else .vec 1, a := .any 1, b := .any 1,
     sat := sat } : LRUse).fits o && o.uniform

/-- Unary floating LR forms. -/
def chkFlt2 (types : List Nat) (o : LR) : Bool :=
  ({ t1 := types, d := .any 1, a := .any 1 } : LRUse).fits o && (!o.kd || o.ka)

/-- LR compares: predicates in d, combining type in RM (R51, R252). -/
def chkCmp (types conds : List Nat) (m : Nat) (o : LR) : Option Nat :=
  if !(({ t1 := types, t2 := conds, rm := [0, 1, 2, 3, 4, 5, 6, 7], d := .num 255, a := .any m, b := .any m } :
      LRUse).fits o && o.d.toNat / 128 == 0 && o.d.toNat / 8 % 2 == 0) then some 5
  else if o.d.toNat / 16 % 8 == o.d.toNat % 8 && o.d.toNat % 8 != 0 then some 8
  else none

/-- The narrow dot products (R258, R259, Table 13.8). -/
def chkDot (flts : List Nat) (o : LR) : Bool :=
  let ints := [0, 4]
  let ia := ints.contains o.t1.toNat
  let ib := ints.contains o.t2.toNat
  ({ t1 := ints ++ flts, t2 := ints ++ flts, rm := if ia && !o.x then [0] else anyRM,
     c := if o.x then .num 255 else .zero, d := .vec 1, a := .vec 1, b := .vec 1, sat := true, x := true } :
    LRUse).fits o && ia == ib

/-- `qpack` and `qunpk`: the register run is aligned and lies within v0–v255 (R260 to R262). -/
def chkPack (pack : Bool) (o : LR) : Bool :=
  let n := if o.t2 == 1 then 8 else 4
  let types := if o.t2 == 1 then [0, 4, 13] else [0, 4, 11, 12]
  let run := if pack then o.a.toNat else o.d.toNat
  ({ t1 := types, t2 := [0, 1], rm := anyRM, c := if o.x then .num 255 else .zero,
     d := if pack then .vec 1 else .vec n, a := if pack then .vec n else .vec 1, sat := true, x := true } :
    LRUse).fits o && decide (run + n - 1 ≤ 255)

/-- Lane movement (R264). -/
def chkMove (kd x : Bool) (o : LR) : Bool :=
  let m := if o.t1 == 7 then 2 else 1
  ({ t1 := [6, 7], d := if kd then .any m else .vec m, a := .vec m, b := .any 1, x := x } : LRUse).fits o

/-- `lred` and `lscan` (R267). -/
def chkRed (kd x : Bool) (o : LR) : Bool :=
  let m := o.mult
  ({ t1 := intTypes ++ fltTypes, t2 := if decide (o.t1.toNat < 8) then [0, 1, 2, 3, 4, 5] else [0, 1, 2],
     d := if kd then .any m else .vec m, a := .vec m, x := x } : LRUse).fits o

/-- `vote` LR (R265). -/
def chkVote (o : LR) : Bool :=
  let ballot := o.t2 == 3
  ({ t2 := [0, 1, 2, 3], c := .num 7, d := if ballot then .sca 2 else .num 7 } : LRUse).fits o

/-- `cvt` (R257). -/
def chkCvt (o : LR) : Bool :=
  let w (t : BitVec 4) : Nat := if t == 3 || t == 7 then 2 else 1
  ({ t1 := List.range 14, t2 := List.range 14, rm := anyRM, d := .any (w o.t1), a := .any (w o.t2), sat := true } :
    LRUse).fits o && o.t1 != o.t2 && (!o.kd || o.ka)

/-- `mov` of a special register (R208, R209). -/
def chkSpecial (o : LR) : Bool :=
  let n := o.c.toNat
  ({ t1 := if n = 6 then [7] else [6], c := .num 10, d := .any (if n = 6 then 2 else 1), x := true } : LRUse).fits o &&
    o.x && !(o.kd && (n == 0 || n == 7))


/-- `imad`: the addend is a vector register, so the destination is one (R241, R243). -/
def chkImad (o : LR) : Bool :=
  let m := o.mult
  ({ t1 := intTypes, c := .vec m, d := .vec m, a := .any m, b := .any m, sat := true } : LRUse).fits o

/-- `iadd64` LR: with X = 1 b is one 32-bit register (Table 13.2). -/
def chkIadd64 (o : LR) : Bool :=
  ({ t1 := [3, 7], d := .any 2, a := .any 2, b := .any (if o.x then 1 else 2), sat := true, x := true } : LRUse).fits o &&
    o.uniform

/-- `bfx`: with X = 1 the position is the number in b and the length that in c (R246). -/
def chkBfx (o : LR) : Bool :=
  ({ t1 := [2, 6], c := if o.x then .num 255 else .zero, d := .any 1, a := .any 1,
     b := if o.x then .num 255 else .any 1, x := true } : LRUse).fits o && (!o.kd || (o.ka && (o.x || o.kb)))

/-- `bfi` (R246). -/
def chkBfi (o : LR) : Bool :=
  ({ t1 := [2, 6], c := .vec 1, d := .vec 1, a := .any 1, b := .any 1 } : LRUse).fits o

/-- `sel`: the destination is a vector (R249). -/
def chkSel (o : LR) : Bool :=
  let m := o.mult
  ({ t1 := intTypes, d := .vec m, a := .any m, b := .any m } : LRUse).fits o

/-- `mov` of a register, in any of the four combinations of Kd and Ka (R248). -/
def chkMov (o : LR) : Bool :=
  let m := o.mult
  ({ t1 := intTypes, d := .any m, a := .any m } : LRUse).fits o

/-- `lea` LR (R250). -/
def chkLea (o : LR) : Bool :=
  ({ t1 := intTypes, c := .num 7, d := .any 2, a := .any 2, b := .any o.mult } : LRUse).fits o && o.uniform

/-- `vfac` (R268). -/
def chkVfac (o : LR) : Bool :=
  ({ t1 := [8], rm := if o.x then [0] else anyRM, c := .vec 2, d := .vec 1, a := .any 1, b := .any 1, sat := !o.x,
     x := true } : LRUse).fits o

/-- `ld` LR: the types and full/empty codes of Table 6.2, and the combinations of R105. -/
def chkLd (o : LR) : Bool :=
  let loc := o.t2.getLsbD 3
  ({ t1 := List.range 8, t2 := if loc then [8, 9, 10] else [0], rm := List.range 6, c := .num 255, d := .any o.mult,
     a := .any (if loc then 1 else 2), x := true } : LRUse).fits o && (!o.kd || (o.ka && !o.x))

/-- `st` LR (Table 6.2). -/
def chkSt (o : LR) : Bool :=
  let loc := o.t2.getLsbD 3
  ({ t1 := List.range 8, t2 := if loc then [8, 9] else [0], rm := List.range 6, c := .num 255, d := .any o.mult,
     a := .any (if loc then 1 else 2), x := true } : LRUse).fits o

/-- The long forms of `ld` and `st`: LI has an even address pair (R49, R103). -/
def chkMemLong (lr : LR → Bool) (d : Use) : Long → Option Nat
  | .lr o => fieldUnless (lr o)
  | .li o => fieldUnless (d.fits o.k o.d.toNat && (Use.any 2).fits o.k o.a.toNat)

/-- The long forms of `pref`: d is the level (R103). -/
def chkPref : Long → Option Nat
  | .lr o => fieldUnless (({ t1 := [6], c := .num 255, d := .num 1, a := .any 2, x := true } : LRUse).fits o)
  | .li o => fieldUnless (decide (o.d.toNat ≤ 1) && (Use.any 2).fits o.k o.a.toNat)

/-- Kind and scope go together: both 0 or neither (R115, R137). -/
def kindOk (kinds : List Nat) (o : LR) : Bool :=
  kinds.contains o.c.toNat && (o.c == 0) == (o.rm == 0)

/-- `atom` and `red` (Tables 6.5 to 6.7). -/
def chkAtomic (ret : Bool) (o : LR) : Bool :=
  let m := o.mult
  let ops := if decide (o.t1.toNat < 8) then List.range 7 else if o.t1 == 8 then [0, 1, 2, 6] else [0, 1, 2]
  ({ t1 := intTypes ++ fltTypes, t2 := if ret then ops else ops.filter (· != 6), rm := List.range 6, c := .num 3,
     d := if ret then .vec m else .zero, a := .any 2, b := .any m,
     x := if ret then o.t2 != 6 else o.t2 == 0 && o.t1 == 8 } : LRUse).fits o &&
    kindOk (if ret then [0, 1, 2, 3] else [0, 2]) o

/-- `cas`, `cas64` and `cas128`, of n registers (R115). -/
def chkCas (n : Nat) (o : LR) : Bool :=
  ({ rm := List.range 6, c := .num 3, d := .vec n, a := .any 2, b := .any n } : LRUse).fits o && kindOk [0, 1, 2, 3] o

/-- `dld` LR (Table 7.4, R140). -/
def chkDld (o : LR) : Bool :=
  ({ t1 := [8], t2 := [0, 1], rm := List.range 6, c := .num 3, d := .any (if o.x then 2 else 1), a := .any 2, x := true } :
    LRUse).fits o && kindOk [0, 1] o && (!o.kd || o.ka)

/-- `dst` LR (Table 7.4). -/
def chkDst (o : LR) : Bool :=
  ({ t1 := [8], t2 := [0, 1], rm := List.range 6, c := .num 3, d := .any 1, a := .any 2 } : LRUse).fits o && kindOk [0, 2] o

/-- `dadd`, `dema` and `dmrg`: the operand of `dmrg.de64` is a pair (Table 7.4). -/
def chkDecay (pair : Bool) (o : LR) : Bool :=
  ({ t1 := [8], t2 := [0, 1], rm := List.range 6, c := .num 3, a := .any 2,
     b := .any (if pair && o.t2 == 1 then 2 else 1) } : LRUse).fits o && kindOk [0, 2] o

/-- The carry-chain operations in LR (R276): whether the entry has a carry-in, an overflow predicate, a second source. -/
def chkLimb (pci pov two : Bool) (o : LR) : Bool :=
  ({ t1 := [6], rm := if pov then List.range 8 else [0], c := .num 127, d := .vec 1, a := .vec 1,
     b := if two then .vec 1 else .zero } : LRUse).fits o && o.c.toNat / 8 % 2 == 0 && (pci || o.c.toNat / 16 == 0)

/-- `lshl` and `lshr` in LR (R277). -/
def chkLimbShift (types : List Nat) (o : LR) : Bool :=
  ({ t1 := types, c := if o.x then .vec 1 else .zero, d := .vec 1, a := .vec 1, b := .any 1, x := true } : LRUse).fits o

/-- `lcmp` LR: a compare with every K bit 0 (R278). -/
def chkLcmp (o : LR) : Option Nat :=
  if o.ka || o.kb then some 5 else chkCmp [2, 6] [0, 1, 2, 3, 4, 5] 1 o

/-- `lmad` (R279, R280). -/
def chkLmad (o : LR) : Bool :=
  ({ t1 := [6], t2 := List.range 8, rm := List.range 8, c := .vec 1, d := .vec 1, a := .vec 1, b := .any 1 } : LRUse).fits o &&
    o.c != o.d

/-- `acc.ld` and `acc.st` (R301, R302). -/
def chkAcc (o : LR) : Bool :=
  ({ t1 := [8], c := .num 63, d := .vec 1, a := if o.ka then .sca 1 else .num 15, b := if o.kb then .sca 1 else .num 255 } :
    LRUse).fits o && decide (o.d.toNat + o.c.toNat ≤ 255)

/-- LR forms of classes 5 to 7: T1, T2, RM and SAT are zero. -/
def chkScalars (d a b c : Use) (x : Bool) (o : LR) : Bool :=
  ({ c := c, d := d, a := a, b := b, x := x } : LRUse).fits o

/-- Whether a register field names an even register. -/
def even (r : BitVec 6) : Bool := r.toNat % 2 == 0

namespace Machine

/-- Numbers that `sys.rd` accepts, and whether they name a 64-bit register (R349, R379). -/
def sysReadable (n : Nat) : Option Bool :=
  if n = 2 || n = 3 || n = 0x40 || n = 0x41 || n = 0x42 then some true
  else if n = 0 || n = 1 || n = 4 || n = 5 || (0x20 ≤ n && n ≤ 0x3F) then some false
  else none

/-- Numbers that `sys.wr` accepts (R349, R379). -/
def sysWritable (n : Nat) : Bool := n == 0x10 || n == 0x43 || (decide (0x20 ≤ n) && decide (n ≤ 0x3F))

/-- Numbers that `cnt.rd` accepts (Table 17.3). -/
def counterNumber (n : Nat) : Bool := decide (n ≤ 8) || (decide (0x10 ≤ n) && decide (n ≤ 0x15))

end Machine

/-- The reason of Table 3.7 for which an instruction's fields are an illegal encoding, where they are (R47, R49, R51, and
each entry's own rules). The steps that are no instruction words have no fields to check. -/
def Instr.reason : Instr → Option Nat
  | .iaddSr _ _ _ _ => none
  | .iaddSi _ _ _ _ => none
  | .iaddSu _ _ _ _ => none
  | .iaddL o => chkLong (chkInt3 intTypes true) 1 o
  | .isubSr _ _ _ _ => none
  | .isubSi _ _ _ _ => none
  | .isubSu _ _ _ _ => none
  | .isubL o => chkLong (chkInt3 intTypes true) 1 o
  | .imulSr _ _ _ _ => none
  | .imulSi _ _ _ _ => none
  | .imulSu _ _ _ _ => none
  | .imulL o => chkLong (chkInt3 intTypes true) 1 o
  | .imadL o => fieldUnless (chkImad o)
  | .imulhiSr _ _ _ _ => none
  | .imulhiSu _ _ _ _ => none
  | .imulhiL o => fieldUnless (chkInt3 [2, 6] false o)
  | .iadd64Sr _ d a b => fieldUnless (even d && even a && even b)
  | .iadd64Si _ d a _ => fieldUnless (even d && even a)
  | .iadd64Su k d a b => fieldUnless (even d && even a && (k == 1 || even b))
  | .iadd64L o => chkLong chkIadd64 2 o
  | .inegSr _ _ _ => none
  | .inegSu _ _ => none
  | .inegL o => fieldUnless (chkInt2 intTypes true false o)
  | .iabsSr _ _ _ => none
  | .iabsSu _ _ => none
  | .iabsL o => fieldUnless (chkInt2 [2, 3] true false o)
  | .iminSr _ _ _ _ => none
  | .iminSi _ _ _ _ => none
  | .iminSu _ _ _ _ => none
  | .iminL o => chkLong (chkInt3 intTypes false) 1 o
  | .imaxSr _ _ _ _ => none
  | .imaxSi _ _ _ _ => none
  | .imaxSu _ _ _ _ => none
  | .imaxL o => chkLong (chkInt3 intTypes false) 1 o
  | .andSr _ _ _ _ => none
  | .andSi _ _ _ _ => none
  | .andSu _ _ _ _ => none
  | .andL o => chkLong (chkInt3 intTypes false) 1 o
  | .orSr _ _ _ _ => none
  | .orSi _ _ _ _ => none
  | .orSu _ _ _ _ => none
  | .orL o => chkLong (chkInt3 intTypes false) 1 o
  | .xorSr _ _ _ _ => none
  | .xorSi _ _ _ _ => none
  | .xorSu _ _ _ _ => none
  | .xorL o => chkLong (chkInt3 intTypes false) 1 o
  | .notSr _ _ _ => none
  | .notSu _ _ => none
  | .notL o => fieldUnless (chkInt2 intTypes false false o)
  | .shlSr _ _ _ _ => none
  | .shlSi _ _ _ _ => none
  | .shlSu _ _ _ _ => none
  | .shlL o => fieldUnless (chkShift o)
  | .shrSr _ _ _ _ => none
  | .shrSi _ _ _ _ => none
  | .shrSu _ _ _ _ => none
  | .shrL o => fieldUnless (chkShift o)
  | .sarSr _ _ _ _ => none
  | .sarSi _ _ _ _ => none
  | .sarSu _ _ _ _ => none
  | .sarL o => fieldUnless (chkShift o)
  | .rotlSr _ _ _ _ => none
  | .rotlSi _ _ _ _ => none
  | .rotlSu _ _ _ _ => none
  | .rotlL o => fieldUnless (chkShift o)
  | .bfxL o => fieldUnless (chkBfx o)
  | .bfiL o => fieldUnless (chkBfi o)
  | .popcSr _ _ _ => none
  | .popcSu _ _ => none
  | .popcL o => fieldUnless (chkInt2 intTypes false true o)
  | .clzSr _ _ _ => none
  | .clzSu _ _ => none
  | .clzL o => fieldUnless (chkInt2 intTypes false true o)
  | .brevSr _ _ _ => none
  | .brevSu _ _ => none
  | .brevL o => fieldUnless (chkInt2 intTypes false false o)
  | .selSr _ _ _ _ => none
  | .selL o => fieldUnless (chkSel o)
  | .movSr _ _ _ => none
  | .movSu _ _ => none
  | .movL o => fieldUnless (chkMov o)
  | .movSpecial o => fieldUnless (chkSpecial o)
  | .moviSi _ _ _ => none
  | .moviSu _ _ => none
  | .moviLi o => fieldUnless ((Use.any 1).fits o.k o.d.toNat && o.a == 0)
  | .leaL o => chkLong chkLea 2 o
  | .icmpEqSc _ _ _ _ _ _ => none
  | .icmpEqSci _ _ _ _ _ _ => none
  | .icmpNeSc _ _ _ _ _ _ => none
  | .icmpNeSci _ _ _ _ _ _ => none
  | .icmpLtSc _ _ _ _ _ _ => none
  | .icmpLtSci _ _ _ _ _ _ => none
  | .icmpLeSc _ _ _ _ _ _ => none
  | .icmpLeSci _ _ _ _ _ _ => none
  | .icmpL o => chkCmp intTypes [0, 1, 2, 3, 4, 5] o.mult o
  | .faddSr _ _ _ _ => none
  | .faddSu _ _ _ => none
  | .faddL o => chkLong (chkFlt3 anyRM true .zero) 1 o
  | .fsubSr _ _ _ _ => none
  | .fsubSu _ _ _ => none
  | .fsubL o => chkLong (chkFlt3 anyRM true .zero) 1 o
  | .fmulSr _ _ _ _ => none
  | .fmulSu _ _ _ => none
  | .fmulL o => chkLong (chkFlt3 anyRM true .zero) 1 o
  | .ffmaL o => fieldUnless (chkFlt3 anyRM true (.vec 1) o)
  | .fminSr _ _ _ _ => none
  | .fminSu _ _ _ => none
  | .fminL o => chkLong (chkFlt3 [0] false .zero) 1 o
  | .fmaxSr _ _ _ _ => none
  | .fmaxSu _ _ _ => none
  | .fmaxL o => chkLong (chkFlt3 [0] false .zero) 1 o
  | .fnegSr _ _ _ => none
  | .fnegSu _ _ => none
  | .fnegL o => fieldUnless (chkFlt2 fltTypes o)
  | .fabsSr _ _ _ => none
  | .fabsSu _ _ => none
  | .fabsL o => fieldUnless (chkFlt2 fltTypes o)
  | .frcpSr _ _ _ => none
  | .frcpSu _ _ => none
  | .frcpL o => fieldUnless (chkFlt2 fltTypes o)
  | .frsqSr _ _ _ => none
  | .frsqSu _ _ => none
  | .frsqL o => fieldUnless (chkFlt2 fltTypes o)
  | .fsqrtSr _ _ _ => none
  | .fsqrtSu _ _ => none
  | .fsqrtL o => fieldUnless (chkFlt2 fltTypes o)
  | .fexp2Sr _ _ _ => none
  | .fexp2Su _ _ => none
  | .fexp2L o => fieldUnless (chkFlt2 fltTypes o)
  | .flog2Sr _ _ _ => none
  | .flog2Su _ _ => none
  | .flog2L o => fieldUnless (chkFlt2 fltTypes o)
  | .fsinSr _ _ _ => none
  | .fsinSu _ _ => none
  | .fsinL o => fieldUnless (chkFlt2 fltTypes o)
  | .fcosSr _ _ _ => none
  | .fcosSu _ _ => none
  | .fcosL o => fieldUnless (chkFlt2 fltTypes o)
  | .ftanhSr _ _ _ => none
  | .ftanhSu _ _ => none
  | .ftanhL o => fieldUnless (chkFlt2 fltTypes o)
  | .fclassSr _ _ _ => none
  | .fclassL o => fieldUnless (chkFlt2 [8, 9, 10, 11, 12, 13] o)
  | .cvtSr _ _ _ => none
  | .cvtSu _ _ => none
  | .cvtL o => fieldUnless (chkCvt o)
  | .fcmpEqSc _ _ _ _ _ _ => none
  | .fcmpNeSc _ _ _ _ _ _ => none
  | .fcmpLtSc _ _ _ _ _ _ => none
  | .fcmpLeSc _ _ _ _ _ _ => none
  | .fcmpL o => chkCmp fltTypes [0, 1, 2, 3, 4, 5, 6, 7] 1 o
  | .dot4Sr _ _ _ _ => none
  | .dot4L o => fieldUnless (chkDot [13] o)
  | .dot8Sr _ _ _ _ => none
  | .dot8L o => fieldUnless (chkDot [11, 12] o)
  | .qpackSr _ _ a => fieldUnless (a.toNat % 4 == 0)
  | .qpackL o => fieldUnless (chkPack true o)
  | .qunpkSr _ d _ => fieldUnless (d.toNat % 4 == 0)
  | .qunpkL o => fieldUnless (chkPack false o)
  | .shflSr _ _ _ _ => none
  | .shflRotSi _ _ _ _ => none
  | .shflL o => fieldUnless (chkMove false true o)
  | .xbflySr _ _ _ _ => none
  | .xbflySi _ _ _ i => fieldUnless (decide (i.toNat < 32))
  | .xbflyL o => fieldUnless (chkMove false false o)
  | .bcastSr _ _ _ _ => none
  | .bcastSi _ _ _ i => fieldUnless (decide (i.toNat < 32))
  | .bcastL o => fieldUnless (chkMove true false o)
  | .voteSf _ m _ d => fieldUnless (decide (m.toNat ≤ 3) && if m == 3 then even d else decide (d.toNat < 8))
  | .voteL o => fieldUnless (chkVote o)
  | .elect _ => none
  | .lredSr _ _ _ => none
  | .lredL o => fieldUnless (chkRed true false o)
  | .lscanSr _ _ _ => none
  | .lscanL o => fieldUnless (chkRed false true o)
  | .vfacL o => fieldUnless (chkVfac o)
  | .ldSi _ _ a _ => fieldUnless (even a)
  | .ldL o => chkMemLong chkLd (Use.any 1) o
  | .stSi _ _ a _ => fieldUnless (even a)
  | .stL o => chkMemLong chkSt (Use.any 1) o
  | .prefSi _ l a _ => fieldUnless (decide (l.toNat ≤ 1) && even a)
  | .prefL o => chkPref o
  | .atomL o => fieldUnless (chkAtomic true o)
  | .redL o => fieldUnless (chkAtomic false o)
  | .casL o => fieldUnless (chkCas 1 o)
  | .cas64L o => fieldUnless (chkCas 2 o)
  | .cas128L o => fieldUnless (chkCas 4 o)
  | .dldSi _ _ a _ => fieldUnless (even a)
  | .dldL o => fieldUnless (chkDld o)
  | .dstSi _ _ a _ => fieldUnless (even a)
  | .dstL o => fieldUnless (chkDst o)
  | .daddL o => fieldUnless (chkDecay false o)
  | .demaL o => fieldUnless (chkDecay false o)
  | .dmrgL o => fieldUnless (chkDecay true o)
  | .odoRd _ _ => none
  | .odoAdv _ _ _ => none
  | .lbind n => fieldUnless (decide (n.toNat ≤ 5))
  | .lfree => none
  | .laddSr _ _ _ _ => none
  | .laddL o => fieldUnless (chkLimb false true true o)
  | .ladcSr _ _ _ _ => none
  | .ladcL o => fieldUnless (chkLimb true true true o)
  | .lsubSr _ _ _ _ => none
  | .lsubL o => fieldUnless (chkLimb false true true o)
  | .lsbcSr _ _ _ _ => none
  | .lsbcL o => fieldUnless (chkLimb true true true o)
  | .lnegSr _ _ _ => none
  | .lnegL o => fieldUnless (chkLimb false true false o)
  | .lshlSr _ _ _ _ => none
  | .lshlSi _ _ _ _ => none
  | .lshlL o => fieldUnless (chkLimbShift [6] o)
  | .lshrSr _ _ _ _ => none
  | .lshrSi _ _ _ _ => none
  | .lshrL o => fieldUnless (chkLimbShift (if o.x then [6] else [2, 6]) o)
  | .lcmpSc _ _ _ _ _ _ => none
  | .lcmpL o => chkLcmp o
  | .lmadL o => fieldUnless (chkLmad o)
  | .lcarrySr _ _ _ _ => none
  | .lcarryL o => fieldUnless (chkLimb false false true o)
  | .mma _ q l => fieldUnless (l == 1 || q.toNat % 16 == 0)
  | .mmaWait _ _ => none
  | .mmaDrainSf _ q l => fieldUnless (l == 1 || q.toNat % 16 == 0)
  | .mmaDrainL o => fieldUnless (chkScalars .zero (.sca (if o.x then 1 else 16)) .zero .zero true o)
  | .ofence _ => none
  | .accClrSf _ _ => none
  | .accClrL o => fieldUnless (chkScalars .zero (.sca 1) .zero .zero false o)
  | .accLd o => fieldUnless (chkAcc o)
  | .accSt o => fieldUnless (chkAcc o)
  | .accGrow _ _ k => fieldUnless (decide (k.toNat ≤ 14))
  | .cpySf _ a => fieldUnless (even a)
  | .cpyL o => fieldUnless (chkScalars (if o.x then .sca 2 else .zero) (.sca 2) (if o.x then .sca 2 else .zero) .zero true o)
  | .cpyQSf _ a => fieldUnless (even a)
  | .cpyQL o => fieldUnless (chkScalars (if o.x then .sca 2 else .zero) (.sca 2) (if o.x then .sca 2 else .zero) .zero true o)
  | .cpyMcSf _ a => fieldUnless (even a)
  | .cpyMcL o => fieldUnless (chkScalars (if o.x then .sca 2 else .zero) (.sca 2) (if o.x then .sca 2 else .zero) .zero true o)
  | .cpyWait _ n => fieldUnless (decide (n.toNat ≤ 15))
  | .cpyPoll _ _ => none
  | .flowSendSf _ _ a _ => fieldUnless (even a)
  | .flowSendL o => fieldUnless (chkScalars (.sca 1) (.sca 2) (.sca 1) .zero true o)
  | .flowMcastSf _ _ a _ => fieldUnless (even a)
  | .flowMcastL o => fieldUnless (chkScalars (.sca 1) (.sca 2) (.sca 1) .zero true o)
  | .flowWaitSf _ _ _ => none
  | .flowWaitL o => fieldUnless (chkScalars (.sca 1) (.sca 1) .zero .zero false o)
  | .flowStatSf _ d _ e => fieldUnless (even d && decide (e.toNat ≤ 10))
  | .flowStatL o => fieldUnless (chkScalars (.sca 2) (.sca 1) .zero (.num 10) false o)
  | .collStartSf _ a => fieldUnless (even a)
  | .collStartL o => fieldUnless (chkScalars .zero (.sca 2) .zero .zero false o)
  | .collWaitSf _ _ => none
  | .collWaitL o => fieldUnless (chkScalars .zero .zero .zero (.num 7) false o)
  | .collStatSf _ d _ e => fieldUnless (even d && decide (e.toNat ≤ 7))
  | .collStatL o => fieldUnless (chkScalars (.sca 2) (.sca 1) .zero (.num 7) false o)
  | .trigAtSf _ r t => fieldUnless (even r && even t)
  | .trigAtL o => fieldUnless (chkScalars (.sca 2) (.sca 2) .zero .zero false o)
  | .trigOnSf _ r w _ => fieldUnless (even r && even w)
  | .trigOnL o => fieldUnless (chkScalars (.sca 2) (.sca 2) (.sca 1) .zero false o)
  | .braSb _ _ => none
  | .braLi o => fieldUnless (!o.k && o.d == 0 && o.a == 0)
  | .brxSf _ _ => none
  | .brxL o => fieldUnless (chkScalars .zero (.any 1) .zero .zero false o)
  | .callSb _ _ => none
  | .callLi o => fieldUnless (!o.k && o.d == 0 && o.a == 0)
  | .ret _ => none
  | .meetSb _ _ => none
  | .meetLi o => fieldUnless (!o.k && o.d == 0 && o.a == 0)
  | .exit _ => none
  | .regroup _ _ => none
  | .rgn _ => none
  | .yield _ => none
  | .nop _ => none
  | .rep _ _ _ _ _ _ _ => none
  | .barArriveSf _ _ n => fieldUnless (n != 0xFFF)
  | .barArriveL o => fieldUnless (chkScalars .zero (.sca 1) (.sca 1) .zero false o)
  | .barExpSf _ _ _ _ => none
  | .barExpL o => fieldUnless (chkScalars .zero (.sca 1) (.sca 1) .zero true o)
  | .barWaitSf _ _ _ => none
  | .barWaitL o => fieldUnless (chkScalars .zero (.sca 1) (.sca 1) .zero false o)
  | .fence _ e => fieldUnless (decide (1 ≤ e.toNat) && decide (e.toNat ≤ 5))
  | .tokAcqSf _ _ a => fieldUnless (even a)
  | .tokAcqL o => fieldUnless (chkScalars (.sca 1) (.sca 2) .zero .zero false o)
  | .tokRelSf _ _ a => fieldUnless (even a)
  | .tokRelL o => fieldUnless (chkScalars (.sca 1) (.sca 2) .zero .zero false o)
  | .trap _ _ => none
  | .brk _ _ => none
  | .sysRdSf _ d n => fieldUnless ((Machine.sysReadable n.toNat).elim false (fun wide => !wide || even d))
  | .sysRdL o => fieldUnless (chkScalars (.sca 1) (.sca 1) .zero .zero false o)
  | .sysWrSf _ _ n => fieldUnless (Machine.sysWritable n.toNat)
  | .sysWrL o => fieldUnless (chkScalars (.sca 1) (.sca 1) .zero .zero false o)
  | .sysRdK o => fieldUnless (chkScalars (.sca 2) (.sca 1) .zero .zero false o)
  | .sysWrK o => fieldUnless (chkScalars (.sca 2) (.sca 1) .zero .zero false o)
  | .launchSf _ a => fieldUnless (even a)
  | .launchL o => fieldUnless (chkScalars .zero (.sca 2) .zero .zero false o)
  | .tstamp _ d => fieldUnless (even d)
  | .cntRdSf _ d n => fieldUnless (even d && Machine.counterNumber n.toNat)
  | .cntRdL o => fieldUnless (chkScalars (.sca 2) (.sca 1) .zero .zero false o)
  | .handlerRetry _ _ => none
  | .handlerSkip _ _ => none
  | .handlerEnd _ _ => none
  | .hostdbWrite => none
  | .pendingTrapTaken _ _ => none
  | .loadSectorArrival _ => none
  | .storeAck _ => none
  | .storeRefused _ => none
  | .sliceOperation _ _ => none
  | .migrationStart _ _ _ _ => none
  | .migrationLineCopy _ _ => none
  | .migrationClose _ => none
  | .sweepPassStart _ => none
  | .sweepVisit _ _ => none
  | .invOnePage _ _ => none
  | .invVirtualRange _ _ _ => none
  | .invWholeContext _ => none
  | .invRangeEntry _ _ => none
  | .invEveryContext => none
  | .invComplete => none
  | .faultResolve _ => none
  | .faultEnd _ => none
  | .faultReport _ => none
  | .lossReport _ _ _ _ => none
  | .engineAbandon _ => none
  | .sideLogReplay _ _ => none
  | .sideLogDiscard _ _ => none
  | .excIncrement => none
  | .excWindowStart _ _ => none
  | .fabricRead _ _ _ _ _ _ => none
  | .fabricWrite _ _ _ _ _ _ => none
  | .fabricAtomic _ _ _ _ _ _ _ _ => none
  | .fabricResponse _ _ _ _ => none
  | .tokenAcquire _ _ _ _ => none
  | .tokenRelease _ _ _ _ => none
  | .tokenRecall _ _ _ _ => none
  | .grant _ _ _ _ _ _ => none
  | .grantAck _ _ _ => none
  | .recallGrant _ _ _ _ => none
  | .recallAck _ _ _ => none
  | .recallDeadline _ => none
  | .deny _ => none
  | .ptpMessage _ _ => none
  | .timeStep _ => none
  | .flitReplayRequest _ _ => none
  | .downFlit _ => none
  | .linkSilence _ => none
  | .portDown _ => none
  | .retrainTimer _ => none
  | .trainingComplete _ _ => none
  | .routeChangeBroadcast _ _ _ _ => none
  | .routeRestored _ _ => none
  | .laneSample _ _ _ _ _ => none
  | .shift _ _ _ => none
  | .shiftAck _ _ _ => none
  | .shiftAckTimeout _ => none
  | .laneMapSwitch _ => none
  | .heartbeatTimer => none
  | .heartbeat _ _ => none
  | .memberFail _ => none
  | .flowTransferStart _ _ => none
  | .blocks _ _ _ _ _ _ _ => none
  | .thdr _ _ _ _ _ _ => none
  | .tail _ _ _ _ _ => none
  | .resync _ _ _ _ _ => none
  | .ack _ _ _ _ _ => none
  | .abort _ _ _ _ _ => none
  | .flowDeadline _ _ => none
  | .flowEndCreate _ _ _ _ => none
  | .flowEndDestroy _ _ _ => none
  | .mcastSlotWrite _ _ _ => none
  | .collAbort _ _ _ _ _ => none
  | .pelotonShrink _ _ _ _ => none
  | .pelotonGrow _ _ _ _ => none
  | .pelotonRerun _ _ _ => none
  | .pelotonWrite _ _ => none
  | .triggerTimeFire _ => none
  | .triggerWatchFire _ => none
  | .doorbell _ _ _ => none
  | .queueHead _ _ _ => none
  | .dependenceMet _ _ => none
  | .teamPlacement _ => none
  | .teamEnd _ => none
  | .regroupEffect _ => none
  | .copyStart _ _ => none
  | .copyPiece _ _ _ _ _ => none
  | .mmaPerform _ => none
  | .drainPerform _ _ _ _ => none
  | .preemptSave _ => none
  | .saveResultTimeout _ _ => none
  | .saveImageWritten _ => none
  | .preemptResume _ => none
  | .tenantCreate _ _ _ _ _ _ => none
  | .tenantReset _ => none
  | .resetNRelease => none
  | .recoveryGo _ => none
  | .measurementExtend _ _ => none
  | .attestationRequest _ _ => none
  | .mctpMessage _ _ _ => none
  | .bar2Read _ _ _ => none
  | .bar2Write _ _ _ => none
  | .winbaseWrite _ _ => none
  | .thermalLimit _ => none
  | .thermalClear _ => none
  | .thermtrip _ => none
  | .wearUpdate _ => none
  | .decodeEntryWrite _ _ _ _ => none
  | .decodeTableLoad _ _ => none
  | .rangeEntryWrite _ _ _ => none
  | .decayClassWrite _ _ _ => none
  | .sweepRangeWrite _ _ => none
  | .pannierWrite _ _ _ => none
  | .launchCounterWrite _ _ _ => none
  | .queueControlWrite _ _ _ => none
  | .excControlWrite _ _ _ => none
  | .excClear _ _ => none
  | .registerWrite _ _ => none
  | .flowSourceBlockRead _ _ _ => none
  | .historyZeroingDone _ _ => none
  | .longResultWritten _ _ _ => none
  | .collFlowDeadline _ => none
  | .podWrite _ _ _ _ => none
  | .powerLoss => none

end Sys2Proof
end

