-- ==== Sys2Proof/Config.lean ====
section
/-!
DEFINITION. What an implementation of the Malup ISA fixes: the constants of one SL-940 module, and the free values, which
the spec leaves open. A free value has no body: nothing can be proved of it but what the model's own checks enforce.
-/

namespace Sys2Proof.Config

/-- Cores of one module (R13). -/
def cores : Nat := 192

/-- Bytes of main memory, aperture 0 (R84). -/
def memBytes : Nat := 0x18000000000

/-- First byte of the module kernel's carve-out (R85). -/
def carveOut : Nat := 0x17800000000

/-- A value the spec leaves open, by the number of the draw (`State.fresh`). -/
opaque freeWord : Nat → BitVec 32

/-- A choice the spec leaves open, by the number of the draw. -/
opaque freeNat : Nat → Nat

/-- The set of a set-associative store that a key falls in, by store: 0 L1, 1 an L2 slice, 2 a core TLB (R72, R87, R91 give the
ways and the sets, not the function). -/
opaque cacheSet : Nat → Nat → Nat

/-- The FP32 code a special function returns where its exact result is not representable: function number, type code
and source code (R254: the same bits for the same input and type everywhere). -/
opaque sfu : Nat → Nat → Nat → Nat

/-- The 32-byte blocks of a save area that a share of an image fills, by block number, with their values, by the number of the draw: the
layout is opaque (R389). -/
opaque saveImage : Nat → List (Nat × Nat)

/-- Credits of one channel of a port (R168 gives no number; log entry 21). They change timing only. -/
def credits : Nat := 64

/-- The digest of the firmware key that the boot ROM holds (R400). -/
opaque romDigest : BitVec 512

/-- The public modulus of the module's RSA-4096 identity key, big-endian, and its vendor certificate (R403). -/
opaque identity : BitVec 4096
opaque certificate : List (BitVec 8)

/-- The private exponent of that key, which only the attestation unit uses (R403), and the salt of a signature, by the number of the draw. -/
opaque identityKey : BitVec 4096
opaque salt : Nat → BitVec 512

/-- What a sensor of the module reads, by its number and the number of the draw (R404). -/
opaque sensor : Nat → Nat → BitVec 32

end Sys2Proof.Config
end

