-- ==== Sys2Proof/Machine/Num.lean ====
section
/-!
DEFINITION. Number formats and exact arithmetic (12_number_formats.md): the floating formats of R223, their exact
values, the roundings of R227 to R230, the zero-sum sign of R227, the generator of R232 and the event classes of
Table 12.7. Every rounding takes an exact dyadic value and rounds it once.
-/

namespace Sys2Proof.Machine

/-- How a floating format treats the codes with an all-ones exponent (R223): IEEE infinities and NaNs, the single
NaN magnitude of E4M3, or none at all (E2M1). -/
inductive FKind where
  | ieee
  | e4m3
  | e2m1
deriving DecidableEq, Repr

/-- A floating element format of Table 12.1: exponent width, fraction width and bias. -/
structure FFmt where
  ebits : Nat
  fbits : Nat
  bias : Nat
  kind : FKind
deriving DecidableEq, Repr

def fp32 : FFmt := ⟨8, 23, 127, .ieee⟩
def fp24 : FFmt := ⟨8, 15, 127, .ieee⟩
def bf16 : FFmt := ⟨8, 7, 127, .ieee⟩
def fp16 : FFmt := ⟨5, 10, 15, .ieee⟩
def e5m2 : FFmt := ⟨5, 2, 15, .ieee⟩
def e4m3 : FFmt := ⟨4, 3, 7, .e4m3⟩
def e2m1 : FFmt := ⟨2, 1, 1, .e2m1⟩

/-- Width of a code of the format, in bits. -/
def FFmt.bits (f : FFmt) : Nat := 1 + f.ebits + f.fbits

/-- The exact value of a floating code, or of an intermediate result: NaN, a signed infinity, or a signed magnitude
`m · 2^e` (a zero magnitude keeps its sign, R223). -/
inductive FV where
  | nan
  | inf (neg : Bool)
  | fin (neg : Bool) (m : Nat) (e : Int)
deriving DecidableEq, Repr

/-- The value of code `c` in format `f` (R223, R224: subnormals at their value, every NaN quiet). -/
def FFmt.decode (f : FFmt) (c : Nat) : FV :=
  let neg := (c / 2 ^ (f.ebits + f.fbits)) % 2 == 1
  let e := (c / 2 ^ f.fbits) % 2 ^ f.ebits
  let m := c % 2 ^ f.fbits
  let top := e == 2 ^ f.ebits - 1
  match f.kind, top, m with
  | .ieee, true, 0 => .inf neg
  | .ieee, true, _ => .nan
  | .e4m3, true, m' =>
    if m' = 2 ^ f.fbits - 1 then .nan
    else .fin neg (2 ^ f.fbits + m') ((e : Int) - f.bias - f.fbits)
  | _, _, m' =>
    if e = 0 then .fin neg m' (1 - (f.bias : Int) - f.fbits)
    else .fin neg (2 ^ f.fbits + m') ((e : Int) - f.bias - f.fbits)

/-- The canonical NaN of Table 12.1 (E2M1 has none: +0 stands for it, R228). -/
def FFmt.canonNaN (f : FFmt) : Nat :=
  match f.kind with
  | .ieee => (2 ^ f.ebits - 1) * 2 ^ f.fbits + 2 ^ (f.fbits - 1)
  | .e4m3 => 2 ^ (f.ebits + f.fbits) - 1
  | .e2m1 => 0

/-- The code of the largest finite magnitude (Table 12.1). -/
def FFmt.maxCode (f : FFmt) : Nat :=
  match f.kind with
  | .ieee => (2 ^ f.ebits - 1) * 2 ^ f.fbits - 1
  | .e4m3 => 2 ^ (f.ebits + f.fbits) - 2
  | .e2m1 => 2 ^ (f.ebits + f.fbits) - 1

/-- The code of +∞ in the IEEE formats. -/
def FFmt.infCode (f : FFmt) : Nat := (2 ^ f.ebits - 1) * 2 ^ f.fbits

/-- The sign bit added to a magnitude code. -/
def FFmt.signed (f : FFmt) (neg : Bool) (mag : Nat) : Nat :=
  if neg then 2 ^ (f.ebits + f.fbits) + mag else mag

/-- The rounding modes of Table 12.3; the stochastic mode carries its random word (R230). -/
inductive RMode where
  | rn
  | rz
  | ru
  | rd
  | rs (r : BitVec 32)
deriving DecidableEq, Repr

/-- The exception classes of Table 12.7. -/
inductive Ev where
  | invalid | divzero | overflow | underflow | nan | saturation | scale | flush | memcorr
deriving DecidableEq, Repr

/-- The class number of Table 12.7. -/
def Ev.num : Ev → Nat
  | .invalid => 0 | .divzero => 1 | .overflow => 2 | .underflow => 3 | .nan => 4
  | .saturation => 5 | .scale => 6 | .flush => 7 | .memcorr => 8

/-- `m` shifted right by `k` places and rounded: the quotient, rounded by the mode with the sign `neg` of the value,
and whether bits were lost (R227, R230). -/
def roundShift (mode : RMode) (neg : Bool) (m k : Nat) : Nat × Bool :=
  let q := m / 2 ^ k
  let r := m % 2 ^ k
  if r = 0 then (q, false)
  else
    let up : Bool :=
      match mode with
      | .rn => decide (2 ^ k < 2 * r) || (decide (2 * r = 2 ^ k) && q % 2 == 1)
      | .rz => false
      | .ru => !neg
      | .rd => neg
      | .rs w => decide (w.toNat < (2 ^ 32 * r) / 2 ^ k)
    (if up then q + 1 else q, true)

/-- `round_fmt` of R227: the magnitude `m · 2^e` (m ≠ 0) rounded into U(F), as a multiple of `2^q`: the count, `q`,
and whether the rounding was inexact. -/
def roundU (f : FFmt) (mode : RMode) (neg : Bool) (m : Nat) (e : Int) : Nat × Int × Bool :=
  let top : Int := (Nat.log2 m : Int) + e
  let emin : Int := 1 - (f.bias : Int)
  let q : Int := (if top < emin then emin else top) - f.fbits
  if q ≤ e then (m * 2 ^ (e - q).toNat, q, false)
  else
    let (n, ix) := roundShift mode neg m (q - e).toNat
    (n, q, ix)

/-- The magnitude code of `n · 2^q`, a member of U(F), when it does not exceed F's largest finite value; otherwise a
number above the largest code. -/
def FFmt.encodeU (f : FFmt) (n : Nat) (q : Int) : Nat :=
  let lowest : Int := 1 - (f.bias : Int) - f.fbits
  if n = 0 then 0
  else (q - lowest).toNat * 2 ^ f.fbits + n

/-- A rounded element: its code and the events it counts (R238). -/
structure Rnd where
  code : Nat
  ev : List Ev
deriving DecidableEq, Repr

/-- Table 12.4, finite column: a finite value whose rounded magnitude exceeds the largest finite value. -/
def overflowTo (f : FFmt) (mode : RMode) (sat neg : Bool) : Rnd :=
  match f.kind with
  | .e2m1 => ⟨f.signed neg f.maxCode, [.saturation]⟩
  | k =>
    if sat then ⟨f.signed neg f.maxCode, [.saturation]⟩
    else
      let toMax : Bool :=
        match mode with
        | .rn | .rs _ => false
        | .rz => true
        | .ru => neg
        | .rd => !neg
      if toMax then ⟨f.signed neg f.maxCode, [.overflow]⟩
      else
        match k with
        | .e4m3 => ⟨f.signed neg (f.maxCode + 1), [.overflow, .nan]⟩
        | _ => ⟨f.signed neg f.infCode, [.overflow]⟩

/-- Rounding and narrowing of an exact value into format `f` (R227, R228, R229). -/
def FFmt.round (f : FFmt) (mode : RMode) (sat : Bool) : FV → Rnd
  | .nan =>
    match f.kind with
    | .e2m1 => ⟨0, [.invalid]⟩
    | _ => ⟨f.canonNaN, [.nan]⟩
  | .inf neg =>
    match f.kind with
    | .ieee => ⟨f.signed neg f.infCode, []⟩
    | .e4m3 =>
      if sat then ⟨f.signed neg f.maxCode, [.saturation]⟩
      else ⟨f.signed neg (f.maxCode + 1), [.nan]⟩
    | .e2m1 => ⟨f.signed neg f.maxCode, [.saturation]⟩
  | .fin neg m e =>
    if m = 0 then ⟨f.signed neg 0, []⟩
    else
      let (n, q, ix) := roundU f mode neg m e
      let mag := f.encodeU n q
      if f.maxCode < mag then overflowTo f mode sat neg
      else
        ⟨f.signed neg mag,
          if ix && decide (0 < mag) && decide (mag < 2 ^ f.fbits) then [.underflow] else []⟩

/-! ### Exact arithmetic on values -/

def FV.isNaN : FV → Bool
  | .nan => true
  | _ => false

def FV.isInf : FV → Bool
  | .inf _ => true
  | _ => false

def FV.isZero : FV → Bool
  | .fin _ 0 _ => true
  | _ => false

def FV.isNeg : FV → Bool
  | .nan => false
  | .inf n => n
  | .fin n _ _ => n

def FV.neg : FV → FV
  | .nan => .nan
  | .inf n => .inf (!n)
  | .fin n m e => .fin (!n) m e

def FV.abs : FV → FV
  | .nan => .nan
  | .inf _ => .inf false
  | .fin _ m e => .fin false m e

/-- The exact product, and whether it is the invalid product of zero and infinity (R235). -/
def FV.mul : FV → FV → FV × Bool
  | .nan, _ => (.nan, false)
  | _, .nan => (.nan, false)
  | .inf a, .inf b => (.inf (xor a b), false)
  | .inf a, .fin b m _ => if m = 0 then (.nan, true) else (.inf (xor a b), false)
  | .fin a m _, .inf b => if m = 0 then (.nan, true) else (.inf (xor a b), false)
  | .fin a m e, .fin b m' e' => (.fin (xor a b) (m * m') (e + e'), false)

/-- The value times `2^k`, exactly (R234). -/
def FV.scale (k : Int) : FV → FV
  | .fin n m e => .fin n m (e + k)
  | v => v

/-- The signed multiple of `2^q` that a finite value is, for `q` at most its exponent. -/
def FV.units (q : Int) : FV → Int
  | .fin n m e =>
    let u : Nat := m * 2 ^ (e - q).toNat
    if n then -(u : Int) else u
  | _ => 0

/-- The least exponent among the finite terms. -/
def minExp : List FV → Int → Int
  | [], q => q
  | .fin _ _ e :: r, q => minExp r (if e < q then e else q)
  | _ :: r, q => minExp r q

def FV.expOf : FV → Int
  | .fin _ _ e => e
  | _ => 0

/-- The exact sum of the terms, with the zero sign of R227 and the special cases of R235. `inv` says whether an
invalid product occurred among the terms. The result carries INVALID where R235 counts it; NaN itself is counted when
the value is rounded. -/
def sumFV (mode : RMode) (inv : Bool) (ts : List FV) : FV × List Ev :=
  if ts.any FV.isNaN then (.nan, if inv then [.invalid] else [])
  else if ts.any (fun t => t.isInf && t.isNeg) && ts.any (fun t => t.isInf && !t.isNeg) then
    (.nan, [.invalid])
  else if ts.any (fun t => t.isInf && t.isNeg) then (.inf true, [])
  else if ts.any FV.isInf then (.inf false, [])
  else
    let q := minExp ts ((ts.map FV.expOf).headD 0)
    let total : Int := (ts.map (FV.units q)).foldl (· + ·) 0
    if total = 0 then
      if ts.all (fun t => t.isZero && t.isNeg) && !ts.isEmpty then (.fin true 0 0, [])
      else if ts.all (fun t => t.isZero && !t.isNeg) then (.fin false 0 0, [])
      else (.fin (decide (mode = .rd)) 0 0, [])
    else (.fin (decide (total < 0)) total.natAbs q, [])

/-- Numeric order of two non-NaN values: -1, 0 or 1, with both zeros equal. -/
def FV.cmp : FV → FV → Int
  | .inf a, .inf b => if a = b then 0 else if a then -1 else 1
  | .inf a, _ => if a then -1 else 1
  | _, .inf b => if b then 1 else -1
  | x, y =>
    let q := minExp [x, y] x.expOf
    let d := x.units q - y.units q
    if d < 0 then -1 else if d = 0 then 0 else 1

/-- minimumNumber (`wantMax = false`) and maximumNumber, with −0 below +0 (R229). -/
def FV.minmax (wantMax : Bool) (x y : FV) : FV :=
  match x, y with
  | .nan, .nan => .nan
  | .nan, b => b
  | a, .nan => a
  | a, b =>
    let c := a.cmp b
    let c := if c = 0 then (if a.isNeg && !b.isNeg then -1 else if !a.isNeg && b.isNeg then 1 else 0) else c
    if (c ≤ 0) != wantMax then a else b

/-! ### Integer ranges -/

/-- The least value of an `n`-bit integer type. -/
def imin (signed : Bool) (n : Nat) : Int := if signed then -(2 ^ (n - 1) : Nat) else 0

/-- The greatest value of an `n`-bit integer type. -/
def imax (signed : Bool) (n : Nat) : Int := if signed then (2 ^ (n - 1) : Nat) - 1 else (2 ^ n : Nat) - 1

/-- The integer nearest `x` within the range of the type. -/
def iclamp (signed : Bool) (n : Nat) (x : Int) : Int :=
  if x < imin signed n then imin signed n else if imax signed n < x then imax signed n else x

/-- Whether `x` lies in the range of the type. -/
def inRange (signed : Bool) (n : Nat) (x : Int) : Bool :=
  decide (imin signed n ≤ x) && decide (x ≤ imax signed n)

/-- The value of the low `n` bits of `c` as a signed or unsigned integer (R225). -/
def intVal (signed : Bool) (n : Nat) (c : Nat) : Int :=
  let u := c % 2 ^ n
  if signed && decide (2 ^ (n - 1) ≤ u) then (u : Int) - (2 ^ n : Nat) else u

/-- The low `n` bits of an integer, as a natural number. -/
def wrapNat (n : Nat) (x : Int) : Nat := (x % ((2 ^ n : Nat) : Int)).toNat

/-- A value rounded to an integer by the mode, spacing 1 (R257). -/
def roundInt (mode : RMode) (neg : Bool) (m : Nat) (e : Int) : Int :=
  let mag : Nat := if 0 ≤ e then m * 2 ^ e.toNat else (roundShift mode neg m (-e).toNat).1
  if neg then -(mag : Int) else mag

/-- Conversion of a value to an `n`-bit integer: rounded, clamped to the range with INVALID or SATURATION, NaN to 0
with INVALID (R257, R260). -/
def toIntClamp (mode : RMode) (sat signed : Bool) (n : Nat) : FV → Int × List Ev
  | .nan => (0, [.invalid])
  | .inf neg => (if neg then imin signed n else imax signed n, [if sat then .saturation else .invalid])
  | .fin neg m e =>
    let r := roundInt mode neg m e
    if inRange signed n r then (r, []) else (iclamp signed n r, [if sat then .saturation else .invalid])

/-- An integer as an exact value (zero is +0). -/
def FV.ofInt (x : Int) : FV := .fin (decide (x < 0)) x.natAbs 0

/-! ### The generator (R232) -/

/-- One round of the generator (Table 12.6). -/
def genRound (h : BitVec 64) (sh : Nat) (mul : BitVec 64) : BitVec 64 :=
  (h ^^^ (h >>> sh)) * mul

/-- The counter-based generator of R232. -/
def gen (seed : BitVec 64) (row col step : BitVec 32) : BitVec 32 :=
  let h := seed ^^^ ((row.setWidth 64) <<< 32) ^^^ (col.setWidth 64)
  let h := h + step.setWidth 64 * 0x9E3779B97F4A7C15#64
  let h := genRound h 30 0xBF58476D1CE4E5B9#64
  let h := genRound h 27 0x94D049BB133111EB#64
  let h := genRound h 31 0xD6E8FEB86659FD93#64
  let h := genRound h 29 0xA0761D6478BD642F#64
  (h ^^^ (h >>> 32)).setWidth 32

/-! ### Scales (R226) -/

/-- The exponent an E8M0 code stands for, or none for the NaN code 0xFF. -/
def e8m0 (c : Nat) : Option Int := if c = 255 then none else some ((c : Int) - 127)

/-- An element expanded with its scale code, exactly (R234). -/
def expand (v : FV) (scale : Option Int) : FV :=
  match scale with
  | none => .nan
  | some k => v.scale k

end Sys2Proof.Machine
end

