-- ==== Sys2Proof/Machine/Sparse.lean ====
section
/-!
DEFINITION. Sparse storage as plain data: a list of (key, value) pairs in one canonical form, keys strictly rising and no
entry equal to the value an unlisted key reads as. Memory (R84), local memory (R93), accumulator rows (R96) and register
files (R205) are held so. Keyed records (contexts, teams, commands) use `look`, `put` and `del`.
-/

namespace Sys2Proof.Machine

namespace Sparse

variable {α : Type}

/-- The value at key `a`; `d` where nothing is listed. -/
def get (d : α) : List (Nat × α) → Nat → α
  | [], _ => d
  | (k, v) :: r, a => if a = k then v else get d r a

/-- The list without key `a`. -/
def erase (m : List (Nat × α)) (a : Nat) : List (Nat × α) := m.filter (fun c => c.1 != a)

/-- `v` placed at key `a`, before the first larger key. -/
def insert : List (Nat × α) → Nat → α → List (Nat × α)
  | [], a, v => [(a, v)]
  | (k, x) :: r, a, v => if a < k then (a, v) :: (k, x) :: r else (k, x) :: insert r a v

/-- A write: the value `d` removes the entry, any other value replaces it. -/
def set [DecidableEq α] (d : α) (m : List (Nat × α)) (a : Nat) (v : α) : List (Nat × α) :=
  if v = d then erase m a else insert (erase m a) a v

/-- The canonical form. -/
abbrev WF (d : α) (m : List (Nat × α)) : Prop :=
  m.Pairwise (fun x y => x.1 < y.1) ∧ ∀ c ∈ m, c.2 ≠ d

end Sparse

/-- The record stored under key `k`, if any. -/
def look {α : Type} : List (Nat × α) → Nat → Option α
  | [], _ => none
  | (k, v) :: r, a => if a = k then some v else look r a

/-- The record under key `k` replaced or added. -/
def put {α : Type} (m : List (Nat × α)) (a : Nat) (v : α) : List (Nat × α) :=
  Sparse.insert (Sparse.erase m a) a v

/-- The record under key `k` removed. -/
def del {α : Type} (m : List (Nat × α)) (a : Nat) : List (Nat × α) := Sparse.erase m a

/-- The element of a list at an index, replaced. -/
def setAt {α : Type} : List α → Nat → α → List α
  | [], _, _ => []
  | _ :: r, 0, v => v :: r
  | x :: r, n + 1, v => x :: setAt r n v

/-- The element of a list at an index, updated by a function. -/
def updAt {α : Type} : List α → Nat → (α → α) → List α
  | [], _, _ => []
  | x :: r, 0, f => f x :: r
  | x :: r, n + 1, f => x :: updAt r n f

end Sys2Proof.Machine
end

