-- ==== Sys2Proof/Machine/State.lean ====
section
/-!
DEFINITION. The state of one SL-940 module (01_the_module.md) and what surrounds its step: the faults, the refusals, the
schedule and the messages that leave the module. Everything is plain data. Registers, memories and tables are held under
the spec's own names; where the spec gives no reset value the value named in the assumption log stands.
-/

namespace Sys2Proof.Machine

/-- Why the machine itself stops. No program, kernel or peer makes it stop: `step` never answers a fault. -/
inductive Fault where
  /-- Raised by the meaning of an instruction word when `exec` is called on a state in which no word is at issue
  (`State.issue = none`), which `step` never does. Safe: the hardware has no such situation. -/
  | noIssue
deriving DecidableEq, Repr

/-- Why an instruction has no meaning. -/
inductive Refusal where
  /-- Raised by the arm of an instruction that is not modelled yet. Safe: nothing is claimed of it. -/
  | notModelled (mnemonic : String)
deriving DecidableEq, Repr

/-! ### Registers, threads and groups (11_threads_groups_registers.md) -/

/-- A register file of one thread or one group: register number and value, 0 where nothing is listed (R206). -/
abbrev Regs := List (Nat × Word)

/-- What one lane's operands are read from: vector registers and predicates (R203). -/
structure LaneRegs where
  v : Regs := []
  p : BitVec 8 := 0
  /-- How often each vector register has been written, whatever the value (R98). -/
  writes : List (Nat × Nat) := []
deriving DecidableEq, Repr

/-- An entry of the return stack: return packet index and the caller's %meet (R203, R336). -/
structure RetEntry where
  packet : Word
  meet : Word
deriving DecidableEq, Repr

/-- One thread (R203). `pc` is the segment offset of a word (R40). -/
structure Thread where
  pc : BitVec 24 := 0
  regs : LaneRegs := {}
  meet : Word := 0xFFFFFFFF#32
  /-- The hardware return stack, newest entry first, at most 16 entries. -/
  stack : List RetEntry := []
  /-- Depth of the whole stack, spilled entries included (R204). -/
  depth : Nat := 0
  exited : Bool := false
  /-- The width code of the `regroup` the thread waits at (R339). -/
  waiting : Option (BitVec 2) := none
  /-- Held while its group is in its handler (R380, step 3). -/
  held : Bool := false
  /-- Restart point and %meet of the region-entry snapshot (R387). -/
  restart : BitVec 24 := 0
  restartMeet : Word := 0xFFFFFFFF#32
deriving DecidableEq, Repr

/-- The roles of R212. -/
inductive Role where
  | copy
  | matrix
  | vector
deriving DecidableEq, Repr

/-- A register that a late result is written to. -/
inductive RegRef where
  | v (lane n : Nat)
  | s (n : Nat)
  | p (lane n : Nat)
deriving DecidableEq, Repr

/-- A pending register: a long-class instruction that has issued since the group's last park ended writes it (R46). -/
structure PendReg where
  reg : RegRef
  /-- It holds a value written since: a further write leaves either value. -/
  touched : Bool := false
  /-- Results of the instructions numbered from the first to before the second do not reach it: a later slot of their chain
  determines its value (R43). -/
  cut : Nat × Nat := (0, 0)
deriving DecidableEq, Repr

/-- A long-class result in flight: its writes are made together (R46, R111). -/
structure Pending where
  /-- Number of its instruction. -/
  instr : Nat := 0
  writes : List (RegRef × Word)
  /-- Its instruction closes a region: a save keeps it (R390). -/
  closes : Bool := false
deriving DecidableEq, Repr

/-- The operands that the words of one chain read (R43): the lanes of the group and its scalar registers. -/
structure Snap where
  lanes : List LaneRegs := []
  s : Regs := []
deriving DecidableEq, Repr

/-- The trap frame of R379 without its INH bit, which reads the group's own. -/
structure Frame where
  info : DWord := 0
  addr : DWord := 0
  mask : DWord := 0
deriving DecidableEq, Repr

/-- What a running word knows of its issue (R43, R214). -/
structure Issue where
  team : Nat
  grp : Nat
  /-- Active set, bit l for lane l. -/
  mask : BitVec 64
  /-- Segment offset of the word at issue; under a `rep`, of the `rep` word (R379). -/
  pc : BitVec 24
  /-- Segment offset of the first word of the instruction itself (R231). -/
  wpc : BitVec 24
  /-- Bytes from `pc` to the word after the instruction. -/
  len : Nat
  /-- The three words of its packet, held from the fetch (R41). -/
  words : List Word := []
  c : Bool := false
  s : Bool := false
  snap : Snap := {}
  /-- A closing instruction of Table 20.3 has executed in this chain. -/
  closed : Bool := false
  /-- A word of the chain has executed before this one: its operands are those of `snap` (R43). -/
  mid : Bool := false
  /-- The last repeat index of an armed `rep`. -/
  rep : Option Nat := none
deriving DecidableEq, Repr
/-- What a held group waits for before its word is tried again (R214). -/
inductive Hold where
  /-- A free side-log entry for the context (R123). -/
  | sideFull
  /-- The side-log entries of the group (`false`) or of its team (`true`) are performed (R126, R345, R350). -/
  | sideEmpty (team : Bool)
  /-- The side log of the core holds no entry of the context for these 128-byte virtual lines (R124). -/
  | sideLines (lines : List Nat)
  /-- Room in the outstanding-load counter (R112). -/
  | loads
  /-- Every load of the group has its value (R357, core-scope release at issue). -/
  | loadsDone
  /-- The acquire of the group in flight is performed (R106, R357). -/
  | acquire
  /-- `fence` at the scope (R346). -/
  | fence (scope : Nat)
  /-- Every result of the group is written, and every store of it performed at the scope (R350, R357). -/
  | stores (scope : Nat)
  /-- Every long-class result of the group is written and its load counter is 0 (R291, R351). -/
  | results
  /-- No request for a region of a peer is in the module's buffers (R347). -/
  | region (mod region : Nat)
  /-- No register of the group is pending (R273). -/
  | noPending
  /-- The barrier slot at local byte `at` leaves the phase (R344). -/
  | barrier (second : Bool) (at_ : Nat) (phase : Bool)
  /-- The copy counter is at most `n` (R162), or has room for one more command (R152). -/
  | copyAtMost (n : Nat)
  /-- Free places of the queue of the matrix engine beside an array (R293). -/
  | matQueue (arr : Nat)
  /-- The matrix counter is at most `n` (R294, R295). -/
  | mmaAtMost (n : Nat)
  /-- The collective counter is at most `n` (R323). -/
  | collAtMost (n : Nat)
  /-- Flow end `f` has fewer than four transfers (R198). -/
  | flowFull (f : Nat)
  /-- A partly performed instruction is finished first (R391). -/
  | finish
  /-- Flow end `f` reaches the epoch, or leaves its state (R199). -/
  | flow (f : Nat) (epoch : Word)
  /-- The answer of a token home (R347). -/
  | token
  /-- The launch queue has room (R370). -/
  | queue (q : Nat)
  /-- A table of the translation is on its way home (R79); the word is tried again. -/
  | table
  /-- Free places of the copy engine's queue (R152). -/
  | copyQueue
  /-- The wait is over: the value that ends it (R344, R347, R199). -/
  | answered (v : Nat)
deriving DecidableEq, Repr

/-- One group slot (R201, R210, R379). -/
structure Group where
  s : Regs := []
  /-- Hardware slot on the core, 0 to 255 (R376). -/
  hw : Nat := 0
  /-- Wait count (R376). -/
  wait : Nat := 0
  parked : Bool := false
  /-- Outstanding-load counter (R112). -/
  loads : Nat := 0
  pend : List Pending := []
  /-- The pending registers (R46). -/
  pendRegs : List PendReg := []
  /-- Registers that words of the chain at issue have been given, and the number its instructions start from (R43). -/
  chain : List RegRef := []
  chainFrom : Nat := 0
  copyCnt : Nat := 0
  copyStatus : BitVec 8 := 0
  mmaCnt : Nat := 0
  /-- Matrix role: values that vector registers have had since the last `ofence`: lane, register, value (R291). -/
  olds : List (Nat × Nat × Word) := []
  collCnt : Nat := 0
  collStatus : BitVec 8 := 0
  lcount : Word := 0
  repidx : Nat := 0
  /-- Lanes of the issue that is between two repeats; empty outside a `rep` (R53). -/
  repMask : BitVec 64 := 0
  frame : Frame := {}
  inh : Bool := false
  /-- Bytes of the trapped instruction, which SKIP passes over (R381). -/
  skipLen : Nat := 4
  /-- Numeric traps that have fallen due, by class, oldest first (R383). -/
  numTraps : List Nat := []
  /-- The first discarded addresses of the deferred-store traps that have fallen due, oldest first (R383). -/
  storeTraps : List DWord := []
  /-- Lanes of the held instruction at the group's program counter that have been performed (R108, R391). -/
  lanesDone : BitVec 64 := 0
  /-- The class snapshots that lanes of the held decay instruction took when they translated (R131). -/
  laneSnaps : List (Nat × MemOp) := []
  /-- The issue whose word is held; the group's next issue is that word again (R214). -/
  held : Option Issue := none
  snapLcount : Word := 0
  snapRepidx : Nat := 0
  snapRepMask : BitVec 64 := 0
  snapW : Nat := 8
  issues : DWord := 0
  hold : Option Hold := none
  /-- Fault records that the module kernel has not answered (R384). -/
  faults : List Nat := []
  /-- Instruction number of a partly performed memory instruction (R108). -/
  partInstr : Option Nat := none
  /-- That instruction closes a region (R391). -/
  partCloses : Bool := false
  /-- It was saved with its remaining lanes: the group goes on once it is finished and its results are written (R391). -/
  partSaved : Bool := false
deriving DecidableEq, Repr

/-- Bytes of one core's share of a team's local memory, with the full/empty bits of its granules (R93). -/
structure LocalMem where
  bytes : List (Nat × Byte) := []
  /-- Granules whose bit is full. -/
  full : List (Nat × Bool) := []
deriving DecidableEq, Repr

/-- The accumulator rows of a team on one core: rows in grant order (R96). -/
structure AccMem where
  /-- The array of each granted 64-row block, in order. -/
  blocks : List Nat := []
  /-- FP32 codes by key 256·row + col. -/
  elems : List (Nat × Word) := []
deriving DecidableEq, Repr

/-- One team (R201, R202, R368). -/
structure Team where
  ctx : Nat
  grid : Nat
  index : Nat
  core : Nat
  tandem : Bool := false
  t : Nat
  w : Nat
  wLaunch : Nat
  wmin : Nat
  nv : Nat
  ns : Nat
  lmem : Nat
  d : Nat
  nCopy : Nat
  nMat : Nat
  threads : List Thread
  groups : List Group
  /-- Local memory on core `core` and, for a tandem, on its partner. -/
  lm0 : LocalMem := {}
  lm1 : LocalMem := {}
  acc0 : AccMem := {}
  acc1 : AccMem := {}
  /-- The team ended by the module kernel (R384). -/
  killed : Bool := false
  /-- Saved and not resident (R390). -/
  saved : Bool := false
  /-- Hardware slots reserved, one for each group slot at the narrowest width (R368, R376). -/
  slots : List Nat := []
  /-- Accumulator blocks reserved at placement on each core (R368). -/
  accb : Nat := 0
deriving DecidableEq, Repr


/-! ### Contexts (01_the_module.md, R17) -/

/-- A context's decode table (R55, R56): the map it was loaded from and the entries written since. -/
structure DecodeTable where
  /-- 0 none, 1 M3, 2 M2. -/
  base : Nat := 0
  /-- Entries written one by one, by opcode value: V and OP, 0 where OP names nothing. -/
  patches : List (Nat × (Bool × Nat)) := []
deriving DecidableEq, Repr

/-- An exception counter of one class (Tables 12.8 and 12.9). -/
structure ExcCounter where
  total : BitVec 32 := 0
  wcnt : BitVec 24 := 0
  fired : Bool := false
  thresh : BitVec 32 := 0
  window : BitVec 24 := 0
  act : BitVec 2 := 0
  en : Bool := false
deriving DecidableEq, Repr

/-- A delivered set of exception events of one class (R240). -/
structure ExcInc where
  ctx : Nat
  cls : Nat
  count : Nat
  /-- The team and group of an instruction; none for an engine, a sweep or a remote arrival. -/
  src : Option (Nat × Nat)
deriving DecidableEq, Repr

/-- The events of a memory instruction that has lanes still to be performed: it delivers them as one increment (R240).
`remote`: some came with the answer of a peer. -/
structure MemEvs where
  instr : Nat
  ctx : Nat
  team : Nat
  grp : Nat
  remote : Bool := false
  evs : List Ev := []
deriving DecidableEq, Repr

/-! ### Memory (04 to 07) -/

/-- The kinds of access of Table 4.4, with the KIND codes of Table 20.2. -/
inductive AKind where
  | load | store | atomic | reduction | decay | fetch | engRead | engWrite
deriving DecidableEq, Repr

/-- A translated target (R69, R113): aperture, address in it, and the effective attributes. -/
structure Target where
  ap : Nat
  pa : Nat
  nc : Bool := false
  /-- Effective C = 1 on a peer page (R78). -/
  c : Bool := false
  dcy : Nat := 0
  /-- Address of the block-map entry of a KV leaf (R80). -/
  kv : Option Nat := none
deriving DecidableEq, Repr

/-- A TLB entry: one page of one context with the result of both stages (R73). -/
structure TlbEntry where
  ctx : Nat
  /-- First virtual address and size in bits: 12, 21 or 30. -/
  va : Nat
  bits : Nat
  /-- The leaf entry and its guest-physical address. -/
  leaf : DWord
  leafG : Nat
  /-- The range-table entry that the target was derived from, its index and its value; none for context 0. -/
  range : Option (Nat × BitVec 128)
  /-- Target aperture and address of the page. -/
  ap : Nat
  pa : Nat
deriving DecidableEq, Repr

/-- A pointer entry in a core's walk cache (Table 4.7): the context, the level it was read at, the bits of the virtual address
that lead to it, the guest-physical address of the next table, and the range-table entry it was read through. -/
structure WalkPtr where
  ctx : Nat
  level : Nat
  pfx : Nat
  next : Nat
  range : Option Nat
deriving DecidableEq, Repr

/-- Where one lane of a load or atomic puts its bytes: the lane (none: the scalar register file), the byte offset within
the bytes read, the width, the register and how the value is extended. -/
structure LaneDst where
  lane : Option Nat
  off : Nat
  w : Nat
  reg : Nat
  signed : Bool := false
deriving DecidableEq, Repr

/-- How far a request has come. -/
inductive ReqState where
  /-- Not performed. -/
  | waiting
  /-- Sent to a peer, to the host, or forwarded by a migration; its answer is awaited. -/
  | sent
  /-- Performed: the bytes read, or for a store nothing; the result or acknowledgement is on its way. -/
  | done (value : Nat)
  /-- Refused or failed after it left the core: cause; a fault record holds the group, or the store waits for a side-log
  entry (R108, R114, R123). -/
  | refused (cause : Nat)
  /-- A waiting load of local memory (R107). -/
  | waitFull
deriving DecidableEq, Repr

/-- An access in flight. A load of global memory is one request for each 32-byte sector; every other access is one
request for each lane. -/
structure Req where
  /-- Number of the instruction: its requests share it, later instructions have larger ones. -/
  instr : Nat
  ctx : Nat
  core : Nat
  team : Nat
  grp : Nat
  /-- The lane of a one-lane request; the lowest lane of a sector. -/
  lane : Nat
  op : MemOp
  va : DWord
  tgt : Target
  w : Nat
  data : Nat := 0
  cmp : Nat := 0
  dsts : List LaneDst := []
  /-- Bytes already taken from the core's store buffer, by offset (R355). -/
  overlay : List (Nat × Byte) := []
  scope : Nat := 0
  acq : Bool := false
  rel : Bool := false
  /-- Counted in the outstanding-load counter (R112). -/
  counts : Bool := false
  /-- The fill is not kept in L1. -/
  noFill : Bool := false
  /-- Local memory: on the partner core; the load clears the granules (R107). -/
  partner : Bool := false
  clear : Bool := false
  epc : BitVec 24 := 0
  /-- The lanes in whose program order it stands (R354). -/
  lanes : BitVec 64 := 0
  /-- The guarded lanes of its issue and their repeat index, for the report of a late fault (R379). -/
  guard : BitVec 64 := 0
  repidx : Nat := 0
  /-- Replayed from the side log: the number of the next instruction when it first went there (R126). -/
  logged : Option Nat := none
  /-- The store's lanes write the whole of the 32-byte sector between them (R86). -/
  whole : Bool := false
  /-- Segment size of a bound group whose vector destinations are written a segment at a time; 0 otherwise (R280). -/
  seg : Nat := 0
  state : ReqState := .waiting
deriving DecidableEq, Repr

/-- One lane of a side-log entry (R122). -/
structure SideLane where
  lane : Nat
  va : DWord
  data : Nat
  op : MemOp
  /-- The instruction's lanes write the whole of the sector (R86). -/
  whole : Bool := false
deriving DecidableEq, Repr

/-- A side-log entry (R122). It stands at the place of its instruction in program order (R363). -/
structure SideEntry where
  seq : Nat
  instr : Nat := 0
  ctx : Nat
  team : Nat
  grp : Nat
  w : Nat
  lanes : List SideLane
  scope : Nat
  rel : Bool
  cause : Nat
  epc : BitVec 24
  guard : BitVec 64 := 0
  repidx : Nat := 0
  /-- The number of the next instruction when it first entered a side log (R126). -/
  logged : Nat := 0
  /-- The store was sent and is in doubt: destination and transaction id (R174). -/
  doubt : Option (Nat × Nat) := none
deriving DecidableEq, Repr

/-- The memory side of one core: L1 sectors by key (aperture, address) / 32 (R91), the translation path (Table 4.7), the
register overflow area (R97) and the side log. -/
structure Core where
  l1 : List (Nat × BitVec 256) := []
  /-- The core TLB, the micro-TLBs' entries by partition, and the walk cache. -/
  tlb : List TlbEntry := []
  utlb : List (Nat × TlbEntry) := []
  walks : List WalkPtr := []
  /-- The 32-byte register blocks in the overflow area: team, first thread divided by 8, register. -/
  spilled : List (Nat × Nat × Nat) := []
  slog : List SideEntry := []
  slogSeq : Nat := 0
  /-- Contexts whose replay waits (R125). -/
  replays : List Nat := []
  regSpill : DWord := 0
  sidelogHold : DWord := 0
  /-- GATE_CLK of the four partitions (R15). -/
  gateClk : List DWord := [0, 0, 0, 0]
deriving DecidableEq, Repr

/-- A promote tag (R357): the module and the core that made the core-scope release, and the number of the first instruction that was
issued after it here; of another module's core, whether it has made the promotion. -/
structure Promote where
  mod : Nat
  core : Nat
  before : Nat := 0
  made : Bool := false
deriving DecidableEq, Repr

/-- The KV block table unit of one die (R80). -/
structure KvUnit where
  base : Nat := 0
  blocks : Nat := 0
  /-- Address of the array of 16-bit reference counts in main memory. -/
  counts : Nat := 0
  free : List Nat := []
deriving DecidableEq, Repr

/-- A migration table entry (R82). -/
structure Migration where
  page : Nat
  size : Nat
  dstMod : Nat
  dstPa : Nat
  /-- Lines copied, by index within the page, and lines locked while their copy is on its way. -/
  copied : List Nat := []
  locked : List Nat := []
deriving DecidableEq, Repr

/-- An entry of the module kernel's error log. -/
inductive LogEntry where
  | nonexistent (ctx pa : Nat)
  | poisonWrite (ctx pa : Nat) (op : MemOp)
  | noRegister (n : Nat) (write : Bool)
  | note (code a b : Nat)
deriving DecidableEq, Repr

/-- What a fault record is about, and so what RESOLVE does (R384, R386). -/
inductive FaultFor where
  /-- The held word is tried again. -/
  | retry
  /-- The group resumes after the trapped word (USER, BREAK). -/
  | skip
  /-- Entries of the core's side log: the replay of R125. -/
  | sideLog
  /-- A request that failed after it left the core: it is sent again. -/
  | req (instr lane : Nat)
  /-- An engine command, by the engine's kind and the command's number. -/
  | engine (kind id : Nat)
deriving DecidableEq, Repr

/-- A fault record on the module kernel's queue (R384, R386). -/
structure FaultRec where
  ctx : Nat
  core : Nat
  team : Nat
  grp : Nat
  info : DWord
  addr : DWord
  mask : DWord
  what : FaultFor
  /-- Record or descriptor address of an engine command. -/
  record : DWord := 0
deriving DecidableEq, Repr

/-! ### Engines, queues and the hub -/

/-- A copy command from issue to its end (R146 to R161). -/
structure CopyCmd where
  core : Nat
  ctx : Nat
  team : Nat
  grp : Nat
  /-- 0 `cpy`, 1 `cpy.q`, 2 `cpy.mc`. -/
  kind : Nat
  /-- Number of the issuing instruction. -/
  instr : Nat
  recAddr : DWord
  src : Option DWord := none
  dst : Option DWord := none
  started : Bool := false
  /-- The shape record as read at the start, sixteen doublewords with the overrides in place. -/
  dws : List DWord := []
  /-- Ranges of units written: first unit and count. -/
  done : List (Nat × Nat) := []
  /-- Source elements of units of which some bytes have been written (R151), by first unit. -/
  torn : List (Nat × List Nat) := []
  /-- Ranges stopped by an engine fault, with the number of its record. -/
  stalled : List ((Nat × Nat) × Nat) := []
  /-- Bytes that may be written: the tile, or what a pannier reserved. -/
  limit : Nat := 0
  /-- Exception events so far, by the first unit of their piece: the command delivers them as one increment for each class (R240). -/
  evs : List (Nat × List Ev) := []
  /-- Receivers of `cpy.mc`, by team, and the mask of the excluded ones. -/
  recv : List Nat := []
  excluded : Nat := 0
  /-- Every byte is accounted for; the completion record is still to be written (R149). -/
  ending : Option Nat := none
  /-- The number of the next instruction when it came to its end: its completion is a release that is ordered there (R149). -/
  relAt : Nat := 0
  bytes : Nat := 0
  /-- The engine record that holds the whole command: the read of its record, or the write of its completion. -/
  fault : Option Nat := none
  /-- Stopped by a save (R390); in progress before one, and waiting for its turn to go on (R152). -/
  saved : Bool := false
  parked : Bool := false
deriving DecidableEq, Repr

/-- A record in a launch queue (R370, R371). -/
structure QRec where
  addr : DWord
  /-- Head: the record as read, sixteen doublewords. -/
  dws : List DWord := []
  /-- Where WAITADDR lies, translated once (R371), and whether the dependence is met, or there is none. -/
  target : Option Target := none
  met : Bool := false
  /-- The engine record that holds the head. -/
  fault : Option Nat := none
  /-- The grid once its first team is placed, and how many teams are placed. -/
  grid : Option Nat := none
  placed : Nat := 0
  /-- Submitted by a launch counter: the values of s0 and s1 (R320). -/
  counter : Option (Word × Word) := none
deriving DecidableEq, Repr

/-- An access of a host driver that waits (R395, R396): 0 a read of `n` bytes at address `a` of aperture `ap`, to which the window of `vf`
led, 1 a write of `bytes` there, 2 a doorbell of queue `a` with value `v`. -/
structure HostOp where
  vf : Nat
  kind : Nat
  ap : Nat := 0
  a : Nat
  n : Nat := 0
  bytes : List Byte := []
  v : DWord := 0
deriving DecidableEq, Repr

/-- A launch queue (Table 19.2). -/
structure Queue where
  en : Bool := false
  prio : BitVec 3 := 0
  err : BitVec 8 := 0
  recs : List QRec := []
deriving DecidableEq, Repr

/-- A DONE or collective record that is still to be written (R149, R372). -/
structure DoneJob where
  ctx : Nat
  /-- Address of the completion record, or of the launch record whose DONE field is still to be read. -/
  addr : DWord
  viaRecord : Bool := false
  /-- The scope at which its write is a release (R372). -/
  scope : Nat := 3
  status : Nat
  bytes : Nat := 0
  rmask : Nat := 0
  fault : Option Nat := none
deriving DecidableEq, Repr

/-- A token instruction that waits for the home's answer (R347). -/
structure TokenOp where
  team : Nat
  grp : Nat
  release : Bool
  mod : Nat
  region : Nat
  va : DWord
deriving DecidableEq, Repr

/-- A write to HOSTDB that has not reached the virtual function (R349). -/
structure HostDb where
  ctx : Nat
  core : Nat
  team : Nat
  grp : Nat
  instr : Nat
  value : Word
deriving DecidableEq, Repr

/-- A matrix command from issue to its counting off (R288 to R300). -/
structure MatCmd where
  core : Nat
  ctx : Nat
  team : Nat
  grp : Nat
  instr : Nat
  /-- The array of the tile. -/
  arr : Nat
  drain : Bool
  /-- The parameter block, eight doublewords. -/
  dws : List DWord
  /-- The vector registers that an `mma` reads, and those that a drain to registers writes (R286, R299). -/
  reads : List Nat := []
  dests : List Nat := []
  /-- The lanes' registers at issue; what they have had since the group's last `ofence`; and what instructions issued earlier have
  written into them since (R291). -/
  atIssue : List LaneRegs := []
  olds : List (Nat × Nat × Word) := []
  late : List (Nat × Nat × Word) := []
  /-- The group has written a register that the `mma` reads (R296). -/
  lost : Bool := false
  /-- First free value of the command. -/
  salt : Nat := 0
  /-- Tile elements that an immediate touched while the command was queued (R296), by key 256·row + col. -/
  smash : List Nat := []
  done : List (Nat × Nat) := []
  stalled : List ((Nat × Nat) × Nat) := []
  /-- The events of the pieces, by first element (R240). -/
  evs : List (Nat × List Ev) := []
  /-- Registers of a drain to registers that the group wrote meanwhile (R296). -/
  dirty : List Nat := []
  ending : Option Nat := none
  /-- The number of the next instruction when it came to its end (R149). -/
  relAt : Nat := 0
  bytes : Nat := 0
  fault : Option Nat := none
  /-- Complete, and counted off, which waits for every earlier command of its group (R294). The command stays until an `mma.wait` of
  its group has covered it (R296). -/
  ended : Bool := false
  off : Bool := false
  saved : Bool := false
deriving DecidableEq, Repr

/-! ### The fabric (09_bresodom_fabric.md) -/

/-- A grant of this module's memory (R75, R76): importer, first 2 MiB unit, units and permissions RD, WR, RAP, C. -/
structure GrantEntry where
  id : Nat
  mod : Nat
  base : Nat
  len : Nat
  perm : BitVec 4
deriving DecidableEq, Repr

/-- An access of a peer that a migration sends on (R82): 0 read, 1 write, 2 atomic. -/
structure Forwarded where
  kind : Nat
  src : Nat
  tid : Nat
  tag : Nat
  n : Nat := 0
  bytes : List (Nat × Byte) := []
  op : MemOp := .read
  data : Nat := 0
  cmp : Nat := 0
  how : PeerHow := {}
deriving DecidableEq, Repr

/-- The piece of work for which an engine makes an access: the engine (1 copy, 2 drain, 3 flow, 4 collective, 5 DONE, 6 queue
head, 7 trigger, 8 an instruction's own read at the hub), the command's number, and the piece. -/
structure Who where
  kind : Nat := 0
  id : Nat := 0
  part : Nat := 0
  /-- The virtual address of the access. -/
  va : DWord := 0
deriving DecidableEq, Repr

/-- A message that leaves the module (to a peer, the host or a kernel). -/
inductive Msg where
  /-- An access sent to aperture `ap`, address `pa` (R113, R170). -/
  | request (ap pa : Nat) (r : Req)
  /-- A line of a peer region fetched under token (R87). -/
  | fetchLine (ctx ap pa : Nat)
  /-- An engine's read and its write of `n` bytes of a peer or of the host (R148, R170). -/
  | engineRead (who : Who) (ctx ap pa n : Nat)
  | engineWrite (who : Who) (ctx ap pa n v : Nat)
  /-- A completion record updated at a peer or on the host (R149). -/
  | completion (who : Who) (ctx ap pa status bytes rmask : Nat)
  /-- A collective completion record updated there (R321). -/
  | collRecord (who : Who) (ctx ap pa : Nat) (dws : List DWord)
  /-- A line of a migrating page written at its destination (R82): migration entry, line and value. -/
  | lineCopy (mod pa entry line v : Nat)
  /-- Bytes of a cached line written back to its home (R78). -/
  | writeBack (ctx ap pa : Nat) (bytes : List (Nat × Byte))
  | tokenAcquire (ctx mod region : Nat)
  | tokenRelease (ctx mod region : Nat)
  /-- The home recalls the token of a 2 MiB region from its holder (R78, R79). -/
  | tokenRecall (mod region : Nat)
  /-- An access of a peer sent on to the page's new home (R82). -/
  | forward (mod pa : Nat) (f : Forwarded)
  /-- A flow message (Table 10.5) of a context, with its 8-byte header (R189). -/
  | flow (ctx mod : Nat) (hdr : DWord) (body : List Byte) (chunk : Option ChunkMeta)
  | collAbort (ctx mod pnum ord : Nat)
  | heartbeat (mod : Nat)
  | grant (mod id base len perm : Nat)
  | grantAck (mod id : Nat)
  | recall (mod id deadline : Nat)
  | recallAck (mod id : Nat)
  | deny (mod : Nat)
  /-- The link between two modules has left service (R174). -/
  | routeChange (mod a b : Nat)
  /-- A control flit: 0 resend from, 1 DOWN, 2 SHIFT, 3 SHIFT_ACK, 4 training begins (R166, R173, R176). -/
  | flit (port kind a b : Nat)
  /-- A PTP message, for the module at the far end of the port (R170, R324). -/
  | ptp (port : Nat) (m : PtpMsg)
  /-- A packet of another module for a third one, which turns here (R167). -/
  | transit (src dst : Nat) (response : Bool) (body : List Byte)
  /-- A migration command to another module's kernel (Table 9.1): the page, its size and the frame asked for. -/
  | migrate (mod page size pa : Nat)
  /-- The answer to a peer's request (R171). -/
  | response (mod tid status : Nat) (data : List Byte)
  /-- An interrupt vector of a virtual function (Table 21.1). -/
  | msix (vf vector : Nat)
  /-- The completion of a host read: false is Completer Abort (R395). -/
  | readReply (vf : Nat) (ok : Bool) (bytes : List Byte)
  /-- An attestation report (Table 21.4). -/
  | attestation (ctx : Nat) (bytes : List Byte)
  /-- The answer to an MCTP message, with what a sensor reads: false is an unsupported completion (R404). -/
  | mctp (kind pldm : Nat) (supported : Bool) (data : List Byte)
  /-- A PLDM event: a wear record below 90 days (R406). -/
  | pldmWear (i : Nat)
  /-- A read or a write of the host through a virtual function's window onto memory of a peer or of the host (R395). -/
  | hostRead (ctx ap pa n : Nat)
  | hostWrite (ctx ap pa : Nat) (bytes : List Byte)
deriving DecidableEq, Repr

/-- A message as it leaves: for a request, its transaction id and route (R167, R171). `via` is the turn module, `chan` the
channel of the first hop (R168): 0 minimal and 1 detour for requests, 2 and 3 for responses. -/
structure Packet where
  tid : Option Nat := none
  port : Option Nat := none
  via : Option Nat := none
  chan : Option Nat := none
  /-- The number of its first flit, and the cumulative acknowledgement of the other direction: the number of the next flit that is expected
  from there (R166). -/
  seq : Option Nat := none
  ack : Nat := 0
  tag : Nat := 0
  msg : Msg
deriving DecidableEq, Repr

/-- The swap of a weak lane (R176). -/
structure Shift where
  lane : Nat
  /-- The physical lane that takes its place; 7 where it is dropped. -/
  to_ : Nat
  /-- N and N'. -/
  n : Nat
  n' : Option Nat := none
  /-- How often this end has sent SHIFT, 0 at the end that answered, and the time of the last. -/
  tries : Nat
  at_ : DWord
  /-- The direction that leaves this port, and the one that arrives, travel on the new map. -/
  sent : Bool := false
  taken : Bool := false
deriving DecidableEq, Repr

/-- One of the 30 ports (R165, R166, R168, R173, R175, R176, Table 9.3). -/
structure Port where
  /-- STATE of Table 9.2. -/
  st : Nat := 0
  retry : Nat := 0
  /-- The lane maps of the direction that leaves this port and of the one that arrives. -/
  lmap : BitVec 12 := 0x688
  rmap : BitVec 12 := 0x688
  /-- Time at which the last valid flit arrived (R173). -/
  heard : DWord := 0
  /-- The last margin measured of each physical lane, in percent; none before the first sample. -/
  margins : List (Option Nat) := [none, none, none, none, none]
  /-- The last error ratio measured of each physical lane, in units of 10^−9, and consecutive 10 ms windows above 10^−5. -/
  ratio : List Nat := [0, 0, 0, 0, 0]
  win : List Nat := [0, 0, 0, 0, 0]
  /-- Physical lanes that training did not find good, or that were dropped since. -/
  bad : List Nat := []
  /-- The spare is in use. -/
  spareUsed : Bool := false
  /-- The swap in progress. -/
  shift : Option Shift := none
  /-- Sequence number of the next flit sent, of the oldest one that is not acknowledged, and of the next one expected. -/
  seq : Nat := 0
  acked : Nat := 0
  rseq : Nat := 0
  /-- The replay buffer: the packets sent and not acknowledged, each with the number of its first flit. -/
  buf : List (Nat × Packet) := []
  /-- The flit last asked for again and how often its replay has failed in a row. -/
  replay : Nat × Nat := (0, 0)
  /-- Credits of the four channels at the far end. -/
  credits : List Nat := List.replicate 4 Config.credits
  /-- Time at which the port entered its state. -/
  since : DWord := 0
deriving DecidableEq, Repr

/-- A request without a response (R171); without a port it has lost its route and is to be sent again, and `doubt` says that its
requester has been told so (R174). Destination 256 is the host. -/
structure Outst where
  dst : Nat
  tid : Nat
  port : Option Nat
  via : Option Nat
  msg : Msg
  doubt : Bool := false
  /-- The number of the next instruction when it was sent (R74). -/
  born : Nat := 0
deriving DecidableEq, Repr

/-- A message that waits at the source: beyond 512 requests, for a credit, or for a route (R169, R171, R174), with the number of
the next instruction when it came there. -/
structure Wait where
  dst : Nat
  msg : Msg
  born : Nat := 0
  /-- The route that it has to take: a heartbeat goes on every live one (R326). -/
  route : Option (Nat × Option Nat) := none
deriving DecidableEq, Repr

/-- The answer to an access of an engine to a peer or to the host, kept until the piece of work that made it is done: status 0,
or the cause that refused it. -/
structure EngAns where
  who : Who
  write : Bool
  ap : Nat
  pa : Nat
  n : Nat
  status : Nat
  data : List Byte := []
deriving DecidableEq, Repr

/-- The record of a performed request of a peer (R171), with the route its response was sent on. -/
structure Answered where
  src : Nat
  tid : Nat
  status : Nat
  data : List Byte
  port : Option Nat := none
  via : Option Nat := none
deriving DecidableEq, Repr

/-- What the hardware raises to the module kernel. -/
inductive KEvent where
  /-- A port changed state (R173). -/
  | port (p st : Nat)
  | memberFail (mod : Nat)
  | collRetry (coll : Nat)
  /-- A grant could not be held (R75). -/
  | grantRefused (id : Nat)
  /-- The frames of a grant are free (R76). -/
  | framesFree (id : Nat)
  /-- A grant message of Table 4.9 from a peer, with what it carries: 0 GRANT (base, length and permissions), 1 GRANT_ACK,
  2 RECALL (deadline), 3 RECALL_ACK, 4 DENY. -/
  | message (kind peer id base len perm deadline : Nat)
  /-- A migration command from another module's kernel (R82, R170). -/
  | migrate (peer page size pa : Nat)
  /-- A request of the module kernel for which no route is left (R174). -/
  | unreachable (m : Msg)
  /-- A flow that the hub refused to create, or another refused table write. -/
  | refused (table i : Nat)
deriving DecidableEq, Repr

/-! ### Residual flows (10_residual_flows.md) -/

/-- Where an instruction that starts a command stands: the command comes after every earlier access of its group (R362). -/
structure Issuer where
  core : Nat
  team : Nat
  grp : Nat
  instr : Nat
deriving DecidableEq, Repr

/-- Bytes of one 32-byte sector that an engine has still to write, as address, width and value, with the record that holds them
back. Until they are written the sector has its old bytes: several such writes have no atomicity together (R361). -/
structure SectorWrite where
  parts : List (Nat × Nat × Nat)
  fault : Option Nat := none
deriving DecidableEq, Repr

/-- One block of a BLOCKS message (Table 10.4): index, kind, GTAG, CRC, whether it is well formed, and its bytes after the header. -/
structure Block where
  idx : Nat
  kind : Nat
  gtag : Nat
  crc : Nat
  ok : Bool
  bytes : List Byte
deriving DecidableEq, Repr

/-- A transfer queued at a send end (R198), or a chunk of a collective (R307) with its collective, its bytes and metadata. -/
structure FlowXfer where
  src : DWord := 0
  len : Nat
  key : Bool := false
  by_ : Option Issuer := none
  chunk : Option (Nat × ChunkMeta × List Byte) := none
deriving DecidableEq, Repr

/-- A receiver of the transfer in progress (R190, R192, R194). -/
structure FlowRecv where
  /-- Group slot; 0 for the unicast peer. -/
  idx : Nat
  mod : Nat
  slot : Nat
  keys : Bool
  /-- A block of this transfer has been sent to it as KEY. -/
  gotKey : Bool := false
  acked : Bool := false
  /-- ERR code with which it was excluded; 0 while it is not. -/
  excl : Nat := 0
  /-- Blocks that wait for a full message: first index, count and bytes. -/
  base : Nat := 0
  cnt : Nat := 0
  buf : List Byte := []
deriving DecidableEq, Repr

/-- The transfer in progress at a send end (R190). -/
structure FlowRun where
  x : FlowXfer
  g : Word
  /-- Next block index. -/
  next : Nat := 0
  /-- CRC of the prediction of each block sent. -/
  crcs : List Nat := []
  recvs : List FlowRecv := []
  /-- Outstanding resync ranges: receiver, first block, count (R193). -/
  resync : List (Nat × Nat × Nat) := []
  /-- Time at which TAIL was sent. -/
  tailAt : Option DWord := none
  /-- The engine record that holds the source read. -/
  fault : Option Nat := none
deriving DecidableEq, Repr

/-- A message that overtook its header (R169, R195). -/
structure EarlyMsg where
  kind : Nat
  src : Nat
  base : Nat
  cnt : Nat
  body : List Byte
deriving DecidableEq, Repr

/-- The transfer in progress at a receive end (R191). -/
structure FlowRx where
  g : Word
  len : Nat
  src : Nat
  lag : Bool
  kboth : Bool
  /-- The transfer was refused: its blocks and TAIL are discarded. -/
  refused : Bool := false
  /-- Blocks that have arrived and are still to be checked, oldest first. -/
  todo : List Block := []
  /-- Blocks applied, with their data. -/
  applied : List (Nat × Nat) := []
  chunk : Option ChunkMeta := none
  /-- The engine record that holds the end. -/
  fault : Option Nat := none
deriving DecidableEq, Repr

/-- A flow end: the entry of Table 10.1, its module slot, its counters (R200) and its transfers. -/
structure FlowEnd where
  v : Bool := false
  slot : Nat := 0
  gen : Word := 0
  maxlen : Nat := 0
  hbase1 : Nat := 0
  hbase0 : Nat := 0
  peer : Nat := 0
  pflow : Nat := 0
  mgrp : Nat := 0
  err : Nat := 0
  ackgen : Word := 0
  ew : Nat := 0
  pred : Nat := 0
  mc : Bool := false
  dir : Bool := false
  busy : Bool := false
  /-- The histories are being zeroed (R180). -/
  zeroing : Bool := false
  queue : List FlowXfer := []
  run : Option FlowRun := none
  rx : Option FlowRx := none
  early : List EarlyMsg := []
  /-- Bytes on their way into its histories. -/
  wq : List SectorWrite := []
  /-- Counters of R200: sel 2 to 8. -/
  stats : List DWord := [0, 0, 0, 0, 0, 0, 0]
deriving DecidableEq, Repr

/-- A multicast receiver slot (Table 10.2), with the mark of R194. -/
structure McSlot where
  ackgen : Word := 0
  pflow : Nat := 0
  mod : Nat := 0
  lag : Bool := false
  v : Bool := false
  kmark : Bool := false
deriving DecidableEq, Repr

/-! ### Collectives and triggers (16_collectives_and_triggers.md) -/

/-- A peloton entry (Table 16.1), with its join log (R329), its wire bytes and the times of its members' heartbeats. -/
structure Peloton where
  members : BitVec 256 := 0
  epoch : Word := 0
  jlbase : Nat := 0
  jllen : Nat := 0
  ctx : Nat := 0
  pnum : Nat := 0
  topo : Bool := false
  v : Bool := false
  /-- Collectives started here since the last GROW, by their FLOW. -/
  started : List (Nat × Nat) := []
  bytes : DWord := 0
  /-- JLHEAD and JLOLD, the byte offset of the next record, and the sizes of the records kept, oldest first. -/
  jlhead : DWord := 0
  jlold : DWord := 0
  jlpos : Nat := 0
  jlsizes : List Nat := []
  beats : List (Nat × DWord) := []
deriving DecidableEq, Repr

/-- A chunk that has arrived and waits (R307, R318, R327). -/
structure Arrived where
  m : ChunkMeta
  bytes : List Byte
deriving DecidableEq, Repr

/-- The launch binding of a collective (R318): CTBASE, CFIRST, TPC, the teams of the grid that have ended, by index and
number, and whether the grid has ended. -/
structure CollBind where
  grid : Nat
  ctbase : DWord
  cfirst : Nat
  tpc : Nat
  teams : Nat
  ended : List (Nat × Nat) := []
  closed : Bool := false
deriving DecidableEq, Repr

/-- A collective in flight at this member (R310). -/
structure Coll where
  ctx : Nat
  /-- Team and group whose counter it counts in; none when a binding or a trigger started it. -/
  src : Option (Nat × Nat) := none
  by_ : Option Issuer := none
  desc : DWord
  /-- The peloton number that the descriptor names, as `coll.start` read it at issue. -/
  pnum : Option Nat := none
  bind : Option CollBind := none
  pel : Nat := 0
  ord : Nat := 0
  /-- The descriptor as read, sixteen doublewords; empty until the collective starts. -/
  dws : List DWord := []
  /-- Members and epoch at the start, and in force. -/
  members0 : BitVec 256 := 0
  members : BitVec 256 := 0
  epoch : Word := 0
  attempt : Nat := 0
  /-- Data that starts here and has not been entered. -/
  todo : List ChunkMeta := []
  /-- Arrivals that have not been processed. -/
  arr : List Arrived := []
  /-- Arrivals still expected. -/
  left : Nat := 0
  /-- Sums of the first ring that wait for the second, by chunk. -/
  sums : List (Nat × List Nat) := []
  /-- THIN: pair sets by chunk and rank, and the own ones of which a non-finite value was dropped. -/
  pairs : List (Nat × Nat × List Byte) := []
  thinNf : List Nat := []
  /-- RED: staged arrivals by sequence number of the launch counter. -/
  staged : List (Nat × ChunkMeta) := []
  /-- RED: staged arrivals whose reduce team has ended, with that team. -/
  ready : List (Nat × Nat) := []
  /-- Own flow transfers queued or in progress. -/
  sending : Nat := 0
  /-- Chunks to be sent: the flow they go to, their bytes and what they carry. -/
  outq : List (Nat × ChunkMeta × List Byte) := []
  /-- Results on their way to memory. -/
  wq : List SectorWrite := []
  /-- Pieces of work that engine records hold (R386): the piece and the record. -/
  stalled : List (Nat × Nat) := []
  /-- Exception events so far: the collective delivers them as one increment for each class (R240). -/
  evs : List Ev := []
  first : Option Nat := none
  nf : BitVec 256 := 0
  sent : Nat := 0
  /-- Time of the last progress (R307). -/
  since : DWord := 0
  /-- COLL_RETRY is pending (R316). -/
  retry : Bool := false
  status : Nat := 0
  fault : Option Nat := none
  /-- Writes that were refused are to be made again (R386). -/
  redo : Bool := false
  /-- Everything is done but the completion record. -/
  ending : Bool := false
  /-- Ended, and to be counted off in issue order (R323). -/
  ended : Option Nat := none
deriving DecidableEq, Repr

/-- An armed trigger (R325): what it starts, and when: a time, or a watched record and its target count. -/
structure Trigger where
  ctx : Nat
  collective : Bool
  addr : DWord
  by_ : Option Issuer := none
  at_ : Option DWord := none
  watch : Option (DWord × Word) := none
  /-- The engine record that holds it: its launch record could not be read. -/
  fault : Option Nat := none
deriving DecidableEq, Repr

/-! ### Pre-emption, host and firmware (20, 21) -/

/-- How far a context's save or resume has come (R390, R392). -/
inductive Resident where
  | running
  /-- Stopping: issue and engines stop. -/
  | stopping
  /-- STOPPED = 1: the image is being written. -/
  | writing
  | saved
  /-- RESUME: saved teams are being placed. -/
  | resuming
deriving DecidableEq, Repr

/-- A context's side-log entry or partly performed result in a save image. -/
structure Image where
  slog : List (Nat × SideEntry) := []
deriving DecidableEq, Repr

/-- Firmware state of the hub (21_host_firmware_and_health.md). -/
structure Firmware where
  /-- BOOTSTAT: STATE, ERR and SVN. -/
  st : Nat := 0
  err : Nat := 0
  svn : Nat := 0
  /-- Flash contents, and its erase count. -/
  flash : List Host.Cell := []
  erases : Nat := 0
  /-- Blown rollback fuses (R400). -/
  fuses : Nat := 0
  /-- SVN of the running image, all 32 bits. -/
  running : Nat := 0
  /-- M0 to M7 (R401). -/
  m : List (BitVec 512) := List.replicate 8 0
  serial : BitVec 128 := 0
  /-- Bytes of the image that is being programmed into flash (R402). -/
  prog : Option Nat := none
  /-- Power target in W (R15, R405). -/
  target : Nat := 1800
  capped : Bool := false
  /-- THERMTRIP_N and ALERT_N asserted. -/
  thermtrip : Bool := false
  alert : Bool := false
  /-- The rails are up. -/
  powered : Bool := true
  /-- Wear records of the 5 dies, 30 ports, 256 channels and the flash (R406). -/
  wear : List (Nat × BitVec 128) := []
  wearAt : DWord := 0
  /-- What the hub samples of ageing (R406): the ring-oscillator pairs by 64 · die + pair, the electromigration counters of the rails, and
  the corrected memory errors by channel. -/
  oscillators : List (Nat × Nat) := []
  electromigration : List (Nat × Nat) := []
  corrected : List (Nat × Nat) := []
  /-- The last attestation report (R403). -/
  report : List Byte := []
deriving DecidableEq, Repr

/-- What the time unit has of its exchange with the time source (R324): the port toward it, the times at which the sync left there and
arrived here, that at which the delay request left here, the offset that is still to be added, and the time that counts for the rate's
bound. -/
structure PtpClock where
  port : Option Nat := none
  t1 : Option DWord := none
  t2 : Option DWord := none
  t3 : Option DWord := none
  offset : Int := 0
  part : Nat := 0
deriving DecidableEq, Repr

/-- A context (R17). -/
structure Ctx where
  created : Bool := false
  decode : DecodeTable := {}
  exc : List ExcCounter := List.replicate 9 {}
  odometer : Word := 0
  root : Nat := 0
  /-- Range-table entries by index, zero where nothing is listed (R68). -/
  ranges : List (Nat × BitVec 128) := []
  /-- Decay class entries by index (R130). -/
  classes : List (Nat × BitVec 128) := []
  sideLimit : Nat := 0
  /-- The VF report registers of R384 and Table 21.1. -/
  frinfo : DWord := 0
  fraddr : DWord := 0
  frmask : DWord := 0
  intstat : Word := 0
  /-- MBOX0 to MBOX31 (R349). -/
  mbox : List (Nat × Word) := []
  hostdbVal : Word := 0
  dbstat : BitVec 16 := 0
  winbase : DWord := 0
  /-- Flow deadline in µs (R192, R349). -/
  flowDl : Word := 0x3E8
  fabTx : DWord := 0
  fabRx : DWord := 0
  /-- Number of the next grid (R207). -/
  nextGid : Word := 0
  queues : List (Nat × Queue) := []
  panniers : List (Nat × BitVec 256) := []
  dtag : Nat := 0
  /-- Admit bit and core mask (R374). -/
  admits : Bool := false
  cmask : BitVec 192 := 0
  /-- Queue last served, for each priority (R374). -/
  rrq : List Nat := List.replicate 8 15
  res : Resident := .running
  /-- SAVEAREA (Table 20.4). -/
  savearea : DWord := 0
  /-- Launch counters, in the layout of Table 16.4. -/
  lctrs : List (Nat × BitVec 192) := []
  /-- Side-log entries saved with the context, by core (R127). -/
  image : Image := {}
  /-- A tenant reset is in progress (R398). -/
  resetting : Bool := false
  /-- Cores whose share of the image is still to be written (R390). -/
  share : List Nat := []
  /-- When the save began. -/
  saveAt : DWord := 0
deriving DecidableEq, Repr

/-- What one running grid holds (R367, R371, R372). -/
structure Grid where
  ctx : Nat
  gid : Word
  odo : Word
  segbase : DWord
  lrec : DWord := 0
  entry : Nat
  rseed : DWord := 0
  rstep : Nat := 0
  thv : Bool := false
  thandler : Nat := 0
  /-- The launch record, sixteen doublewords. -/
  dws : List DWord := []
  /-- Teams placed, ended, and ended without a fault. -/
  placed : Nat := 0
  ended : Nat := 0
  clean : Nat := 0
  /-- s0 and s1 where a launch counter submitted the record (R320). -/
  counter : Option (Word × Word) := none
  /-- The queue it came through (R372). -/
  queue : Nat := 0
  /-- Its teams that have ended, whose accesses the DONE write covers (R372). -/
  gone : List Nat := []
deriving DecidableEq, Repr

/-- What a flit that arrives brings (R166). -/
inductive Carried where
  /-- No packet ends in it. -/
  | nothing
  /-- A packet for this module: an event row of the opcode table. -/
  | event (i : Instr)
  /-- A packet that turns at this module (R167). -/
  | transit (src dst : Nat) (response : Bool) (body : List Byte)
  /-- A migration command of another module's kernel (R82, R170, Table 4.10). -/
  | migrate (src tid page size pa : Nat)
deriving DecidableEq, Repr

/-- What happens next outside the programs' own order: the choices that the spec leaves to the hardware, and the steps of
the other agents. `step` consumes the list of them from its head. -/
inductive Action where
  /-- A step of another agent: an event row of the opcode table. -/
  | event (i : Instr)
  /-- A partition of a core issues; `subset` chooses among the diverged subsets of the group (R222, R376). -/
  | issue (core part subset : Nat)
  /-- The time counter advances (R324). -/
  | tick (ns : Nat)
  /-- Clocks of a partition gated by the limiter (R15). -/
  | gate (core part n : Nat)
  /-- An entry leaves a core's TLB, one of its micro-TLBs (`1`) or its walk cache (`2`) (R72, R73). -/
  | evictTlb (core unit i : Nat)
  /-- A sector leaves a core's L1 (R91). -/
  | evictL1 (core key : Nat)
  /-- A line of a peer region leaves its L2 slice; a dirty one is written back (R78, R87). -/
  | evictL2 (key : Nat)
  /-- A channel controller finds an error in the sector of an address that a context's access other than a core's, a sweep or a
  scrub (context 0) reads: one symbol, corrected, or more (R86). -/
  | memError (ctx pa : Nat) (lost : Bool)
  /-- The collective engine goes on with a collective. -/
  | collective (id : Nat)
  /-- Some bytes of a unit of a copy command, or of an element of a drain, are written ahead of the rest (R151). -/
  | tear (id unit mask : Nat)
  /-- A flow unit goes on with an end; some bytes that an end or a collective has still to write are written ahead of the rest (R361). -/
  | flow (key : Nat)
  | flowTear (key i mask : Nat)
  | collTear (id i mask : Nat)
  /-- A credit of a channel of a port comes back (R168). -/
  | credit (port chan : Nat)
  /-- Idle flits leave a port, and the far end acknowledges the flits before `ack` (R166). -/
  | flitsOut (port n ack : Nat)
  /-- A flit of the far end arrives, intact or failing its CRC, with the packet that it completes (R166). -/
  | flitIn (port seq : Nat) (good : Bool) (x : Carried)
  /-- The far end of a port begins training (R173). -/
  | training (port : Nat)
  /-- A sync message leaves on a port (R324). -/
  | ptpSync (port : Nat)
  /-- The core that the promote tag of a line names has performed what R357 and R359 wait for; it lies in another module. -/
  | promoted (key : Nat)
  /-- A tenant reset ends (R398). -/
  | resetDone (ctx : Nat)
  /-- The hub samples an ageing source: `kind` 0 a ring-oscillator pair, 1 an electromigration counter (R406). -/
  | ageing (kind i v : Nat)
  /-- A migration command leaves for another module's kernel (R82, R170, Table 4.10). -/
  | migrateAsk (mod page size pa : Nat)
  /-- The oldest accesses of the host drivers that wait are tried again (R395, R396). -/
  | hostGo
  /-- A request of a peer that waits at its home is tried again. -/
  | arrived (i : Nat)
  /-- A host driver reads 8 bytes at an offset of BAR0 of a function (R395). -/
  | barRead (vf off : Nat)
  /-- The ROM goes on with the flash that it programs (R402). -/
  | flashGo
deriving DecidableEq, Repr

/-- The whole state of the module. -/
structure State where
  /-- What happens next (the model's own field; log entry 2). -/
  sched : List Action := []
  /-- The word at issue (R214). -/
  issue : Option Issue := none
  /-- Number of the next free value (the model's own field; log entry 3). -/
  fresh : Nat := 0
  /-- The time counter in ns (R324). -/
  time : DWord := 0
  /-- This module's id (R5, R164). -/
  modId : BitVec 8 := 0
  ctxs : List (Nat × Ctx) := []
  grids : List (Nat × Grid) := []
  teams : List (Nat × Team) := []
  /-- Increments on their way to the counter unit (R240). -/
  excQ : List ExcInc := []
  memEvs : List MemEvs := []
  /-- The module kernel's fault queue, by record number (R384). -/
  faultQ : List (Nat × FaultRec) := []
  /-- Answers to records of contexts that are saved, which act at resume (R393): record, and 0 RESOLVE, 1 END, 2 REPORT, 3 ABANDON. -/
  answers : List (Nat × Nat) := []
  /-- Number of the next record, command, team or grid. -/
  nextId : Nat := 0
  /-- Main memory, aperture 0 (R84). -/
  mem : List Host.Cell := []
  /-- Poisoned 32-byte sectors, by address / 32 (R86). -/
  poison : List Nat := []
  cores : List (Nat × Core) := []
  /-- Accesses in flight, oldest first. -/
  reqs : List Req := []
  nextInstr : Nat := 0
  /-- What has left the module, oldest first. -/
  outbox : List Packet := []
  /-- What has been raised to the module kernel, oldest first. -/
  kevents : List KEvent := []
  /-- Holder of each region whose token is out (R78). -/
  tokenDir : List (Nat × Nat) := []
  /-- Acquires that wait for a recall: source, transaction id, region (R78). -/
  tokenWait : List (Nat × Nat × Nat) := []
  /-- Regions given up whose write-backs are still outstanding: context, module, region, and the recall to be answered (R78). -/
  relPend : List (Nat × Nat × Nat × Option Nat) := []
  /-- Bytes and lines of peer regions cached under token (R78, R87): key module · 2^51 + address; a line is dirty or clean. -/
  peerMem : List Host.Cell := []
  peerLines : List (Nat × Bool) := []
  promote : List (Nat × Promote) := []
  kv : List (Nat × KvUnit) := []
  /-- Held-token table: regions by key, each with the context that acquired it (R78). -/
  heldTokens : List (Nat × Nat) := []
  migrations : List (Nat × Migration) := []
  errLog : List LogEntry := []
  /-- Sweep range entries by index (R143). -/
  sweeps : List (Nat × BitVec 128) := []
  /-- Passes in progress, by entry: P and the elements visited (R144). -/
  passes : List (Nat × (Word × List Nat)) := []
  /-- Copy commands by number, oldest first. -/
  copies : List (Nat × CopyCmd) := []
  /-- Matrix commands by number, in arrival order. -/
  mats : List (Nat × MatCmd) := []
  doneJobs : List (Nat × DoneJob) := []
  tokenOps : List TokenOp := []
  hostdbs : List HostDb := []
  /-- Accesses of host drivers that wait, oldest first (R395, R396). -/
  hostQ : List HostOp := []
  /-- POD: rows and columns (R164). -/
  podRows : Nat := 0
  podCols : Nat := 0
  ports : List Port := List.replicate 30 {}
  /-- Links of the pod that are out of service, as this hub knows them (R174). -/
  badLinks : List (Nat × Nat) := []
  outst : List Outst := []
  /-- What waits at the source. -/
  waitQ : List Wait := []
  nextTid : Nat := 0
  answered : List Answered := []
  /-- Requests of peers that have arrived over a port and that their home keeps waiting (R79, R82, R359). -/
  inbox : List Instr := []
  /-- Answers to accesses of engines that their commands have still to take up. -/
  engAns : List EngAns := []
  /-- DOMAIN_DROP (R172). -/
  domainDrop : DWord := 0
  grants : List GrantEntry := []
  denies : List Nat := []
  /-- Recalls in progress: grant id, importer, time of the deadline (R76). -/
  recalls : List (Nat × Nat × Nat) := []
  /-- The invalidation in progress: instructions below this number translated before it; context, 64 for every one (R74). -/
  inv : Option (Nat × Nat) := none
  /-- INVLEN (Table 4.8). -/
  invlen : DWord := 0
  /-- Parts 1 to 7 of the value of a kernel register wider than 64 bits, and what the next write of one takes (the model's own field; log
  entry 20). -/
  kparts : List (Nat × DWord) := []
  /-- PREEMPT (Table 20.4): the command in progress (1 SAVE, 2 RESUME) with its context, and ERR. -/
  preempt : Option (Nat × Nat) := none
  preemptErr : Nat := 0
  /-- Flow ends by 1,024 · context + flow (R179). -/
  flows : List (Nat × FlowEnd) := []
  /-- Multicast receiver slots by 64 · group + slot (R182). -/
  mcast : List (Nat × McSlot) := []
  pelotons : List (Nat × Peloton) := []
  colls : List (Nat × Coll) := []
  /-- Chunks of collectives that have arrived and have not been taken up: receive flow end and chunk. -/
  early : List (Nat × Arrived) := []
  trigs : List (Nat × Trigger) := []
  /-- Context last served by placement (R374). -/
  rrCtx : Nat := 0
  ptp : PtpClock := {}
  fw : Firmware := {}
deriving DecidableEq, Repr

/-- The machine right after reset: context 0's decode table holds the M3 map before the boot ROM runs (R56), and context 0 is
admitted (log entry 4). -/
def State.reset : State := { ctxs := [(0, { created := true, decode := { base := 1 }, admits := true })] }

end Sys2Proof.Machine
end

