-- ==== Sys2Proof/Machine/Mem.lean ====
section
/-!
DEFINITION. Memory as bytes (R4, R84): little-endian reads and writes over the sparse store, and the poison marks of 32-byte
sectors (R86). A byte that nothing has written reads as 0: DESIGN CHOICE, log entry 1.
-/

namespace Sys2Proof.Machine

/-- The canonical form of a byte store. -/
abbrev Memory.wf (m : List Host.Cell) : Prop := Sparse.WF (0 : Byte) m

/-- The byte at an address. -/
def Memory.byte (m : List Host.Cell) (a : Nat) : Byte := Sparse.get 0 m a

/-- The byte at an address, written. -/
def Memory.setByte (m : List Host.Cell) (a : Nat) (b : Byte) : List Host.Cell := Sparse.set 0 m a b

/-- `n` bytes from an address, little-endian (R4). -/
def Memory.read (m : List Host.Cell) (a : Nat) : Nat → Nat
  | 0 => 0
  | n + 1 => (Memory.byte m a).toNat + 256 * Memory.read m (a + 1) n

/-- `n` bytes of a number stored at an address, little-endian (R4). -/
def Memory.write (m : List Host.Cell) (a : Nat) : Nat → Nat → List Host.Cell
  | 0, _ => m
  | n + 1, v => Memory.write (Memory.setByte m a (BitVec.ofNat 8 v)) (a + 1) n (v / 256)

/-- Byte `i` of a number. -/
def byteOf (v i : Nat) : Byte := BitVec.ofNat 8 (v / 256 ^ i)

/-- Bytes of a number replaced by offset. -/
def overlayBytes (v : Nat) (bs : List (Nat × Byte)) : Nat :=
  bs.foldl (fun v b => v - (byteOf v b.1).toNat * 256 ^ b.1 + b.2.toNat * 256 ^ b.1) v

/-- Main memory read in bytes. -/
def State.rd (s : State) (a n : Nat) : Nat := Memory.read s.mem a n

/-- Main memory written. -/
def State.wr (s : State) (a n v : Nat) : State := { s with mem := Memory.write s.mem a n v }

/-- Whether any sector of a range is poisoned (R86). -/
def State.poisoned (s : State) (a n : Nat) : Bool := s.poison.any (fun p => decide (a / 32 ≤ p) && decide (p ≤ (a + n - 1) / 32))

/-- The poison mark of the sector at an address cleared. -/
def State.unpoison (s : State) (a : Nat) : State := { s with poison := s.poison.filter (· != a / 32) }

/-- An entry appended to the module kernel's error log. -/
def State.log (s : State) (e : LogEntry) : State := { s with errLog := s.errLog ++ [e] }

/-- The memory side of a core. -/
def State.core (s : State) (c : Nat) : Core := (look s.cores c).getD {}

/-- The memory side of a core, updated. -/
def State.updCore (s : State) (c : Nat) (f : Core → Core) : State := { s with cores := put s.cores c (f (s.core c)) }

/-- The bits [hi:lo] of a word, as a number. -/
def bits {n : Nat} (x : BitVec n) (hi lo : Nat) : Nat := x.toNat / 2 ^ lo % 2 ^ (hi + 1 - lo)

/-- The bits [hi:lo] of a doubleword of a record. -/
def dwBits (dws : List DWord) (i hi lo : Nat) : Nat := bits (dws.getD i 0) hi lo

/-- Bit `i` of a word. -/
def bit {n : Nat} (x : BitVec n) (i : Nat) : Bool := x.getLsbD i

end Sys2Proof.Machine
end

