-- ==== Sys2Proof/Machine/Ops.lean ====
section
/-!
DEFINITION. The named operations over teams, groups, registers and predicates; taking a trap and ending a handler; how an
issue retires.
-/

namespace Sys2Proof.Machine

open Host (Outcome)

/-- What a step answers. -/
abbrev Out := Outcome State Fault Refusal

/-! ### Bit sets of lanes -/

/-- The lanes of a set, in increasing order. -/
def lanesOf (m : BitVec 64) : List Nat := (List.range 64).filter (fun l => m.getLsbD l)

/-- The set of the lanes below 64 that satisfy a test. -/
def maskOf (f : Nat → Bool) : BitVec 64 :=
  BitVec.ofNat 64 ((List.range 64).foldl (fun a l => if f l then a + 2 ^ l else a) 0)

/-- The lowest lane of a set (0 for the empty set). -/
def lowLane (m : BitVec 64) : Nat := (lanesOf m).headD 0

/-! ### Registers -/

/-- Predicate `n` of a lane: p0 reads true (R50). -/
def LaneRegs.pred (r : LaneRegs) (n : Nat) : Bool := n == 0 || r.p.getLsbD n

/-- A predicate written: p0 discards writes (R50). -/
def LaneRegs.setPred (r : LaneRegs) (n : Nat) (b : Bool) : LaneRegs :=
  if n = 0 then r
  else
    let bit : BitVec 8 := BitVec.ofNat 8 (2 ^ n)
    { r with p := if b then r.p ||| bit else r.p &&& ~~~bit }

/-- Vector register `n` of a lane. -/
def LaneRegs.vec (r : LaneRegs) (n : Nat) : Word := Sparse.get 0 r.v n

/-- Vector register `n` of a lane, written. -/
def LaneRegs.setVec (r : LaneRegs) (n : Nat) (x : Word) : LaneRegs :=
  { r with v := Sparse.set 0 r.v n x, writes := Sparse.set 0 r.writes n (Sparse.get 0 r.writes n + 1) }

/-- How often vector register `n` of a lane has been written. -/
def LaneRegs.written (r : LaneRegs) (n : Nat) : Nat := Sparse.get 0 r.writes n

/-- The lane `l` of a chain's operands. -/
def Snap.lane (k : Snap) (l : Nat) : LaneRegs := k.lanes.getD l {}

/-- Scalar register `n` of a chain's operands. -/
def Snap.sca (k : Snap) (n : Nat) : Word := Sparse.get 0 k.s n

/-- Vector register `n` of lane `l` of a chain's operands. -/
def Snap.vec (k : Snap) (l n : Nat) : Word := (k.lane l).vec n

/-- Predicate `n` of lane `l` of a chain's operands. -/
def Snap.pred (k : Snap) (l n : Nat) : Bool := (k.lane l).pred n

/-! ### Teams and groups -/

/-- The thread that is lane `l` of group `g` (R201). -/
def Team.tid (tm : Team) (g l : Nat) : Nat := g * tm.w + l

/-- The thread at an index; an exited thread where there is none. -/
def Team.thread (tm : Team) (t : Nat) : Thread := tm.threads.getD t { exited := true }

/-- The group at a slot. -/
def Team.group (tm : Team) (g : Nat) : Group := tm.groups.getD g {}

/-- A group replaced. -/
def Team.setGroup (tm : Team) (g : Nat) (x : Group) : Team := { tm with groups := setAt tm.groups g x }

/-- A group updated. -/
def Team.updGroup (tm : Team) (g : Nat) (f : Group → Group) : Team := tm.setGroup g (f (tm.group g))

/-- A thread updated. -/
def Team.updThread (tm : Team) (t : Nat) (f : Thread → Thread) : Team :=
  { tm with threads := updAt tm.threads t f }

/-- The threads of group `g` updated, lane by lane. -/
def Team.updLanes (tm : Team) (g : Nat) (f : Nat → Thread → Thread) : Team :=
  { tm with threads := tm.threads.mapIdx (fun t x => if t / tm.w = g then f (t % tm.w) x else x) }

/-- The lanes of a group that a test of the lane and its thread selects. -/
def Team.lanesWhere (tm : Team) (g : Nat) (f : Nat → Thread → Bool) : BitVec 64 :=
  maskOf (fun l => decide (l < tm.w) && f l (tm.thread (tm.tid g l)))

/-- The lanes of a group that have not exited (R218). -/
def Team.live (tm : Team) (g : Nat) : BitVec 64 := tm.lanesWhere g (fun _ x => !x.exited)

/-- The operands of a chain that issues now (R43). -/
def Team.snap (tm : Team) (g : Nat) : Snap :=
  { lanes := (List.range tm.w).map (fun l => (tm.thread (tm.tid g l)).regs), s := (tm.group g).s }

/-- A register read (a predicate as 0 or 1). -/
def Team.readReg (tm : Team) (g : Nat) : RegRef → Word
  | .v l n => (tm.thread (tm.tid g l)).regs.vec n
  | .s n => Sparse.get 0 (tm.group g).s n
  | .p l n => if (tm.thread (tm.tid g l)).regs.pred n then 1 else 0

/-- A register write. -/
def Team.writeReg (tm : Team) (g : Nat) (r : RegRef) (x : Word) : Team :=
  match r with
  | .v l n => tm.updThread (tm.tid g l) (fun t => { t with regs := t.regs.setVec n x })
  | .s n => tm.updGroup g (fun gr => { gr with s := Sparse.set 0 gr.s n x })
  | .p l n => tm.updThread (tm.tid g l) (fun t => { t with regs := t.regs.setPred n (x != 0) })

/-- Register writes made in order: the last write of a register stands (R43). -/
def Team.writeRegs (tm : Team) (g : Nat) (ws : List (RegRef × Word)) : Team :=
  ws.foldl (fun tm w => tm.writeReg g w.1 w.2) tm

/-! ### Pending registers (R43, R46) -/

/-- The pending entry of a register. -/
def Group.pendReg (gr : Group) (r : RegRef) : Option PendReg := gr.pendRegs.find? (fun e => e.reg == r)

/-- The pending entries of a register changed. -/
def Group.setPendReg (gr : Group) (r : RegRef) (f : PendReg → PendReg) : Group :=
  { gr with pendRegs := gr.pendRegs.map (fun e => if e.reg == r then f e else e) }

/-- A word of the chain at issue is given a destination register: a long-class one (instruction `next`) makes it pending
(R46); where an earlier word of the chain has the register too, that word's value does not reach it (R43). -/
def Group.destine (gr : Group) (long : Bool) (next : Nat) (r : RegRef) : Group :=
  let gr :=
    if gr.chain.contains r then gr.setPendReg r (fun e => { e with touched := false, cut := (gr.chainFrom, next) }) else gr
  let gr := if long && (gr.pendReg r).isNone then { gr with pendRegs := gr.pendRegs ++ [{ reg := r }] } else gr
  { gr with chain := gr.chain ++ [r] }

/-- One write of a result, of instruction `instr` where it is late. A pending register that another value has reached meanwhile
ends up with either value, as `free` says (R46). -/
def Team.putReg (tm : Team) (g : Nat) (instr : Option Nat) (free : Bool) (r : RegRef) (x : Word) : Team :=
  match (tm.group g).pendReg r with
  | none => tm.writeReg g r x
  | some e =>
    if (match instr with | some n => decide (e.cut.1 ≤ n) && decide (n < e.cut.2) | none => false) then tm
    else if e.touched && free then tm
    else (tm.writeReg g r x).updGroup g (fun gr => gr.setPendReg r (fun e => { e with touched := true }))

/-- The number of the free choice of a register among those of one result: the lanes of a segment share one (R46, R280). -/
def RegRef.choice (seg : Nat) : RegRef → Nat
  | .v l n => 64 * n + l / max 1 seg
  | .s n => 2 ^ 14 + n
  | .p l n => 2 ^ 14 + 2 ^ 8 + 8 * l + n

/-- Writes of a result in order, with the free choices `free`. -/
def Team.putRegs (tm : Team) (g : Nat) (instr : Option Nat) (free : RegRef → Bool) : List (RegRef × Word) → Team
  | [] => tm
  | w :: ws => (tm.putReg g instr (free w.1) w.1 w.2).putRegs g instr free ws

/-- The free choices of one result of a group, numbered from `fresh`. -/
def Team.choices (tm : Team) (g fresh : Nat) (r : RegRef) : Bool :=
  Config.freeNat (fresh + r.choice (tm.group g).lcount.toNat) % 2 == 1

/-- A park ends, so no register of the group is pending any longer (R46). -/
def Group.unpark (gr : Group) : Group := if gr.parked then { gr with parked := false, pendRegs := [] } else gr

/-- Whether a parked group's park is over: its long-class results are written and its load counter is zero (R46). -/
def Group.parkOver (gr : Group) : Bool := gr.pend.isEmpty && gr.loads == 0

/-- Whether some register of the group is pending (R46). -/
def Group.hasPending (gr : Group) : Bool := !gr.parkOver || (!gr.parked && !gr.pendRegs.isEmpty)

/-- The record of a team, stored back. -/
def State.setTeam (s : State) (id : Nat) (tm : Team) : State := { s with teams := put s.teams id tm }

/-- The context record; an absent context reads as never created. -/
def State.ctx (s : State) (c : Nat) : Ctx := (look s.ctxs c).getD {}

/-- The context record, stored back. -/
def State.setCtx (s : State) (c : Nat) (x : Ctx) : State := { s with ctxs := put s.ctxs c x }

/-- The context record, updated. -/
def State.updCtx (s : State) (c : Nat) (f : Ctx → Ctx) : State := s.setCtx c (f (s.ctx c))

/-- The team record, if the team is resident. -/
def State.team? (s : State) (id : Nat) : Option Team := look s.teams id

/-- A team updated, if present. -/
def State.updTeam (s : State) (id : Nat) (f : Team → Team) : State :=
  match s.team? id with
  | some tm => s.setTeam id (f tm)
  | none => s

/-- A group of a team updated. -/
def State.updGroup (s : State) (id g : Nat) (f : Group → Group) : State :=
  s.updTeam id (fun tm => tm.updGroup g f)

/-- The role of a group (R212): that of its threads' launch slot. -/
def Team.role (tm : Team) (g : Nat) : Role :=
  let slot := g * tm.w / tm.wLaunch
  if slot < tm.nCopy then .copy else if slot < tm.nCopy + tm.nMat then .matrix else .vector

/-! ### Registers that matrix commands have in use (R291, R296) -/

/-- A vector register of a lane of a group is written, by an instruction numbered `instr` where it is late, while a command of the group
is not covered by an `mma.wait` (R296): an operand of an `mma`, where the instruction was issued first, may be read with the value from
before or from after the write (R291). -/
def MatCmd.note (c : MatCmd) (instr : Option Nat) (w : RegRef × Word) : MatCmd :=
  match w.1 with
  | .v l r =>
    if c.reads.contains r then
      if (match instr with | some n => decide (n < c.instr) | none => false) then { c with late := c.late ++ [(l, r, w.2)] }
      else { c with lost := true }
    else if c.dests.contains r then { c with dirty := r :: c.dirty }
    else c
  | _ => c

/-- The values that a group's vector registers had before some writes, kept until the next `ofence` (R291). -/
def Team.keepOld (tm : Team) (g : Nat) (ws : List (RegRef × Word)) : Team :=
  tm.updGroup g (fun gr =>
    { gr with
      olds := ws.foldl (fun o w =>
        match w.1 with
        | .v l r => let x := (l, r, (tm.thread (tm.tid g l)).regs.vec r); if o.contains x then o else o ++ [x]
        | _ => o) gr.olds })

/-- What writes of a matrix group's registers do beside the registers (R291, R296). A destination register of a drain that no `mma.wait` has
covered becomes free in every lane. `but`: the command that writes, where one does. -/
def State.noteRegs (s : State) (id g : Nat) (but : Option Nat) (instr : Option Nat) (ws : List (RegRef × Word)) : State :=
  let mine (c : Nat × MatCmd) : Bool := c.2.team == id && c.2.grp == g && some c.1 != but
  let gone : List Nat := (s.mats.filter mine).flatMap (fun c => c.2.dests.filter (fun r =>
    ws.any (fun w => match w.1 with | .v _ n => n == r | _ => false)))
  let free := gone.flatMap (fun r => (List.range 64).map (fun l => ((RegRef.v l r, Config.freeWord (s.fresh + 64 * r + l)) : RegRef × Word)))
  let s : State := { s with
    mats := s.mats.map (fun c => if mine c then (c.1, ws.foldl (fun c w => c.note instr w) c.2) else c) }
  if free.isEmpty then s
  else { (s.updTeam id (fun tm => tm.writeRegs g (free.filter (fun w => match w.1 with | .v l _ => decide (l < tm.w) | _ => false)))) with
         fresh := s.fresh + 64 * 256 }

/-- Results written into a group's registers; `instr`: the number of a late result's instruction (R43, R46). -/
def State.putRegs (s : State) (id g : Nat) (instr : Option Nat) (ws : List (RegRef × Word)) : State :=
  match s.team? id with
  | none => s
  | some tm =>
    let write (s : State) (tm : Team) : State :=
      if (tm.group g).pendRegs.isEmpty then s.setTeam id (tm.writeRegs g ws)
      else { (s.setTeam id (tm.putRegs g instr (tm.choices g s.fresh) ws)) with fresh := s.fresh + 2 ^ 15 }
    if tm.role g = .matrix then (write s (tm.keepOld g ws)).noteRegs id g none instr ws else write s tm

/-- The destination registers of the word at issue (R43, R46). -/
def State.destine (s : State) (is : Issue) (long : Bool) (rs : List RegRef) : State :=
  if long || is.c || is.mid then
    s.updGroup is.team is.grp (fun gr => rs.foldl (fun gr r => gr.destine long s.nextInstr r) gr)
  else s

/-- The grid record of a team. -/
def State.gridOf (s : State) (tm : Team) : Option Grid := look s.grids tm.grid

/-! ### Free values -/

/-- The next free word, and the counter advanced. -/
def State.draw (s : State) : Word × State := (Config.freeWord s.fresh, { s with fresh := s.fresh + 1 })

/-! ### Exception events (R238, R240) -/

/-- One increment for each class that occurred among the events of one instruction or command. -/
def incsOf (ctx : Nat) (src : Option (Nat × Nat)) (evs : List Ev) : List ExcInc :=
  (List.range 9).flatMap fun c =>
    let n := (evs.filter (fun e => e.num == c)).length
    if n = 0 then [] else [{ ctx := ctx, cls := c, count := n, src := src }]

/-- The events of one instruction or command on their way to the counter unit. -/
def State.countEvents (s : State) (ctx : Nat) (src : Option (Nat × Nat)) (evs : List Ev) : State :=
  { s with excQ := s.excQ ++ incsOf ctx src evs }

/-! ### Meeting addresses (R217) -/

/-- Whether a thread stands at the packet its %meet names. -/
def Thread.atMeet (t : Thread) : Bool :=
  t.meet != 0xFFFFFFFF#32 && decide (t.pc.toNat = 12 * t.meet.toNat)

/-- Release of R217: the threads standing at a meeting packet are released when every other live thread of the group
with the same %meet stands there too. -/
def Team.settle (tm : Team) (g : Nat) : Team :=
  tm.updLanes g (fun _ x =>
    if x.atMeet && !x.exited &&
        (List.range tm.w).all (fun l =>
          let y := tm.thread (tm.tid g l)
          y.exited || y.meet != x.meet || y.atMeet)
    then { x with meet := 0xFFFFFFFF#32 } else x)

/-- The active set at a word offset (R214). -/
def Team.activeAt (tm : Team) (g : Nat) (pc : BitVec 24) : BitVec 64 :=
  tm.lanesWhere g (fun _ x => !x.exited && !x.held && x.waiting.isNone && !x.atMeet && x.pc == pc)

/-! ### Region-entry snapshots (R387) -/

/-- The snapshot of the lanes of a set, at their program counters. -/
def Team.snapshot (tm : Team) (g : Nat) (m : BitVec 64) : Team :=
  (tm.updLanes g (fun l x =>
    if m.getLsbD l && !x.exited then { x with restart := x.pc, restartMeet := x.meet } else x)).updGroup g
    (fun gr => { gr with snapLcount := gr.lcount, snapRepidx := gr.repidx, snapRepMask := gr.repMask, snapW := tm.w })

/-! ### Traps (R377 to R384) -/

/-- What a trap or a memory fault reports (Table 20.2). -/
structure TrapInfo where
  cls : Nat
  detail : Nat := 0
  stage : Nat := 0
  kind : Nat := 0
  lane : Nat := 0
  addr : DWord := 0
  lmask : BitVec 64 := 0
deriving DecidableEq, Repr

/-- TFINFO of a trap, its INH bit as given (Table 20.2). -/
def TrapInfo.word (k : TrapInfo) (repidx : Nat) (inh : Bool) (epc : BitVec 24) : DWord :=
  BitVec.ofNat 64
    (k.cls * 2 ^ 56 + (k.detail % 256) * 2 ^ 48 + k.stage * 2 ^ 46 + k.kind * 2 ^ 42 + (k.lane % 64) * 2 ^ 36
      + (repidx % 64) * 2 ^ 30 + (if inh then 2 ^ 29 else 0) + epc.toNat)

/-- The frame written at a trap. -/
def TrapInfo.frame (k : TrapInfo) (repidx : Nat) (epc : BitVec 24) : Frame :=
  { info := k.word repidx false epc, addr := k.addr, mask := k.lmask }

/-- Whether a class is program level (Table 20.1). -/
def programLevel (cls : Nat) : Bool := decide (1 ≤ cls) && decide (cls ≤ 0x10)

/-- A fault record put on the module kernel's queue, with its number. -/
def State.report (s : State) (r : FaultRec) : State × Nat :=
  ({ s with faultQ := s.faultQ ++ [(s.nextId, r)], nextId := s.nextId + 1 }, s.nextId)

/-- The core that holds a group (R202). -/
def Team.coreOf (tm : Team) (g : Nat) : Nat :=
  let h := 64 * ((tm.t + 127) / 128)
  if tm.tandem && decide (h ≤ g * tm.w) then tm.core + 1 else tm.core

/-- A group diverted to its grid's handler (R380): frame, INH, the trapping threads at the handler, the others held, and
the region closed. -/
def Team.enterHandler (tm : Team) (g : Nat) (m : BitVec 64) (k : TrapInfo) (epc : BitVec 24) (len handler : Nat) :
    Team :=
  let tm := tm.updGroup g (fun gr =>
    { gr with
      frame := k.frame gr.repidx epc, skipLen := len, inh := true, repidx := 0, repMask := 0, held := none,
      hold := none, lanesDone := 0, laneSnaps := [] })
  let tm := tm.updLanes g (fun l x =>
    if m.getLsbD l then { x with pc := BitVec.ofNat 24 (12 * handler) } else { x with held := true })
  let tm := tm.settle g
  tm.snapshot g (tm.live g)

/-- Taking a trap (R377, R380, R382, R384): to the handler when the class is program level, the grid names one and the
group is not in it already; otherwise the frame goes to the module kernel and the group is held. -/
def State.trapAt (s : State) (id g : Nat) (m : BitVec 64) (epc : BitVec 24) (len : Nat) (k : TrapInfo) :
    State :=
  match s.team? id with
  | none => s
  | some tm =>
    let gr := tm.group g
    let toHandler : Option Nat :=
      match s.gridOf tm with
      | some gd => if programLevel k.cls && gd.thv && !gr.inh then some gd.thandler else none
      | none => none
    match toHandler with
    | some h => s.setTeam id (tm.enterHandler g m k epc len h)
    | none =>
      let (s1, rid) := s.report
        { ctx := tm.ctx, core := tm.coreOf g, team := id, grp := g, info := k.word gr.repidx gr.inh epc,
          addr := k.addr, mask := k.lmask,
          what := if k.cls = 0x0E || k.cls = 0x11 then .skip else .retry }
      s1.setTeam id (tm.updGroup g (fun gr =>
        { gr with frame := k.frame gr.repidx epc, skipLen := len, hold := none, held := none, faults := gr.faults ++ [rid], wait := 0 }))

/-! ### Ending an issue -/

/-- The issue closed: the chain's region snapshot where a closing instruction has executed. -/
def State.closeIssue (s : State) (is : Issue) : State :=
  let s := if is.closed then s.updTeam is.team (fun tm => tm.snapshot is.grp is.mask) else s
  { s with issue := none }

/-- The word at issue traps: no lane is performed and the rest of its chain is not issued (R57, R378). -/
def State.trap (s : State) (is : Issue) (k : TrapInfo) : State :=
  (s.closeIssue is).trapAt is.team is.grp is.mask is.pc is.len k

/-- The word at issue is held and will be issued again (R214); its chain's operands are kept (R43). -/
def State.holdIssue (s : State) (is : Issue) (h : Hold) : State :=
  (s.updGroup is.team is.grp (fun gr => { gr with hold := some h, held := some { is with closed := false } })).closeIssue is

/-- What a group waits for after a word: after a partly performed instruction that was saved, its results (R391). -/
def Group.afterPart (gr : Group) : Option Hold := if gr.partSaved then some .finish else none

/-- The word at issue has executed. `next l` is where an active lane goes when it does not go on to the next word.
Between two repeats the lanes stay at the `rep` word (R53); after the last word the S bit parks the group (R46), and the
C bit keeps the issue open for the next word of the chain (R43). A program counter that advances past packet 2^20 − 1 keeps
counting in its 24 bits, and what lies there is fetched: the spec does not say what follows the largest segment's last packet
(R39; DESIGN CHOICE, log entry 10). -/
def State.retireTo (s : State) (is : Issue) (closes : Bool) (next : Nat → Option (BitVec 24)) : State :=
  let gr := ((s.team? is.team).map (fun tm => tm.group is.grp)).getD {}
  let is := { is with closed := is.closed || closes }
  match is.rep with
  | some last =>
    if gr.repidx < last then
      (s.updGroup is.team is.grp (fun gr =>
        { gr with
          repidx := gr.repidx + 1, repMask := is.mask, hold := gr.afterPart, partSaved := false, held := none, lanesDone := 0
          laneSnaps := [] })).closeIssue is
    else finish is
  | none => finish is
where
  finish (is : Issue) : State :=
    let after := is.pc + BitVec.ofNat 24 is.len
    let s := s.updTeam is.team (fun tm =>
      let tm := tm.updLanes is.grp (fun l x =>
        if is.mask.getLsbD l then { x with pc := (next l).getD after } else x)
      let tm := tm.updGroup is.grp (fun gr =>
        { gr with
          repidx := 0, repMask := 0, hold := if is.c && !is.s then none else gr.afterPart
          partSaved := gr.partSaved && is.c && !is.s, held := none, lanesDone := 0, laneSnaps := [], parked := is.s })
      tm.settle is.grp)
    if is.c && !is.s then { s with issue := some { is with pc := after, wpc := after, mid := true, rep := none } }
    else s.closeIssue is

/-- The word at issue has executed and every active lane goes on to the next word. -/
def State.retire (s : State) (is : Issue) (closes : Bool := false) : State := s.retireTo is closes (fun _ => none)

/-- What a meaning runs on: the issue, its team and its group. Outside an issue there is nothing to run. -/
def withIssue (s : State) (k : Issue → Team → Group → Out) : Out :=
  match s.issue with
  | none => .fault .noIssue
  | some is =>
    match s.team? is.team with
    | none => .fault .noIssue
    | some tm => k is tm (tm.group is.grp)

/-- The lanes of the active set whose guard reads 1 (R50). -/
def Issue.guarded (is : Issue) (g : Nat) : BitVec 64 :=
  maskOf (fun l => is.mask.getLsbD l && is.snap.pred l g)

end Sys2Proof.Machine
end

