-- ==== Sys2Proof/Machine/JoinLog.lean ====
section
/-!
DEFINITION. The join log of a peloton entry (R329): a ring in aperture 0 of records with a 32-byte header, oldest overwritten
first.
-/

namespace Sys2Proof.Machine

/-- Bytes written into a ring of `len` bytes at `base`, from offset `pos`. -/
def State.ringWrite (s : State) (base len pos : Nat) (bytes : List Byte) : State :=
  { s with mem := bytes.zipIdx.foldl (fun m b => Memory.setByte m (base + (pos + b.2) % len) b.1) s.mem }

/-- How many of the oldest records give way to one of `n` bytes: sizes, oldest first, and bytes free. -/
def jlDrop : List Nat → Nat → Nat → Nat
  | [], _, _ => 0
  | z :: zs, free, n => if n ≤ free then 0 else 1 + jlDrop zs (free + z) n

/-- A record appended to the join log of peloton entry `i` (R329); nothing where logging is off. A record longer than the
ring is not kept. -/
def State.jlAppend (s : State) (i kind : Nat) (payload : List Byte) (addr : DWord) : State :=
  match look s.pelotons i with
  | none => s
  | some p =>
    let len := p.jllen * 2 ^ 21
    let n := 32 + (payload.length + 31) / 32 * 32
    if !p.v || len < n then s
    else
      let used := p.jlsizes.foldl (· + ·) 0
      let k := jlDrop p.jlsizes (len - used) n
      let hdr := kind * 2 ^ 56 + (s.ctx p.ctx).odometer.toNat + p.epoch.toNat * 2 ^ 96 + payload.length * 2 ^ 64
        + addr.toNat * 2 ^ 128 + p.jlhead.toNat * 2 ^ 192
      let hb := (List.range 32).map (byteOf hdr)
      let pad := List.replicate (n - 32 - payload.length) (0 : Byte)
      let s := s.ringWrite p.jlbase len p.jlpos (hb ++ payload ++ pad)
      let p' : Peloton := { p with
        jlhead := p.jlhead + 1, jlold := p.jlold + BitVec.ofNat 64 k, jlpos := (p.jlpos + n) % len
        jlsizes := p.jlsizes.drop k ++ [n] }
      { s with pelotons := put s.pelotons i p' }

/-- The STEP records of an `odo.adv` that is done (R329): one in the log of each peloton of the context. -/
def State.jlStep (s : State) (ctx : Nat) : State :=
  s.pelotons.foldl (fun (s : State) p => if p.2.v && p.2.ctx == ctx then s.jlAppend p.1 2 [] 0 else s) s

end Sys2Proof.Machine
end

