-- ==== Sys2Proof/Machine/Operands.lean ====
section
/-!
DEFINITION. The operand forms of register instructions (R47, R205, R241): where a source is read, where a result goes, the
register-range check, and the common course of a register instruction, vector or uniform (R216).
-/

namespace Sys2Proof.Machine

/-- A source operand: one register, an even pair, or an immediate (R205, R241). -/
inductive Src where
  | v (n : Nat)
  | s (n : Nat)
  | vp (n : Nat)
  | sp (n : Nat)
  | imm (x : DWord)
deriving DecidableEq, Repr

/-- A destination operand. -/
inductive Dst where
  | v (n : Nat)
  | s (n : Nat)
  | vp (n : Nat)
  | sp (n : Nat)
deriving DecidableEq, Repr

/-- The value of a source in lane `l`, zero-extended to 64 bits. -/
def Src.read (k : Snap) (l : Nat) : Src → DWord
  | .v n => (k.vec l n).setWidth 64
  | .s n => (k.sca n).setWidth 64
  | .vp n => DWord.ofPair (k.vec l n) (k.vec l (n + 1))
  | .sp n => DWord.ofPair (k.sca n) (k.sca (n + 1))
  | .imm x => x

/-- Whether a source lies in the reservation (R205). -/
def Src.inRange (nv ns : Nat) : Src → Bool
  | .v n => decide (n < nv)
  | .s n => decide (n < ns)
  | .vp n => decide (n + 1 < nv)
  | .sp n => decide (n + 1 < ns)
  | .imm _ => true

/-- Whether a destination lies in the reservation (R205). -/
def Dst.inRange (nv ns : Nat) : Dst → Bool
  | .v n => decide (n < nv)
  | .s n => decide (n < ns)
  | .vp n => decide (n + 1 < nv)
  | .sp n => decide (n + 1 < ns)

/-- Whether a destination is scalar, which makes the instruction uniform (R216). -/
def Dst.isScalar : Dst → Bool
  | .s _ | .sp _ => true
  | _ => false

/-- The register writes that put `x` into a destination, in lane `l` for a vector one. -/
def Dst.writes (l : Nat) (x : DWord) : Dst → List (RegRef × Word)
  | .v n => [(.v l n, x.lo)]
  | .s n => [(.s n, x.lo)]
  | .vp n => [(.v l n, x.lo), (.v l (n + 1), x.hi)]
  | .sp n => [(.s n, x.lo), (.s (n + 1), x.hi)]

/-- A lane's result of one element: the value and the exception events it meets (R238). -/
structure Res where
  val : DWord
  ev : List Ev := []
deriving DecidableEq, Repr

/-- The classes that an element's events fall in: one event a class for each element (R238). -/
def evClasses (evs : List Ev) : List Ev :=
  [Ev.invalid, .divzero, .overflow, .underflow, .nan, .saturation, .scale, .flush, .memcorr].filter
    (fun e => evs.any (· == e))

/-- One register, or an even pair for a 64-bit type. -/
def srcOf (scalar wide : Bool) (n : Nat) : Src :=
  match scalar, wide with
  | false, false => .v n
  | true, false => .s n
  | false, true => .vp n
  | true, true => .sp n

/-- One register, or an even pair for a 64-bit type. -/
def dstOf (scalar wide : Bool) (n : Nat) : Dst :=
  match scalar, wide with
  | false, false => .v n
  | true, false => .s n
  | false, true => .vp n
  | true, true => .sp n

/-- The register-range trap of R205. -/
def regRange : TrapInfo := { cls := 0x04 }

/-- The lanes that a register instruction computes for: the guarded lanes, or for a scalar destination the lowest
guarded lane alone, standing for the one execution of R216. -/
def execLanes (d : Dst) (m : BitVec 64) : List Nat :=
  if d.isScalar then (lanesOf m).take 1 else lanesOf m

/-- Results written at once (short class, R45) or put in flight (long class, R46): each list of writes is one result. -/
def State.giveResults (s : State) (is : Issue) (long : Bool) (ws : List (List (RegRef × Word)))
    (closes : Bool := false) : State :=
  let s := s.destine is long (ws.flatten.map (·.1))
  if long then
    { (s.updGroup is.team is.grp (fun gr =>
        { gr with pend := gr.pend ++ ws.map (fun l => { instr := s.nextInstr, writes := l, closes := closes }) })) with
      nextInstr := s.nextInstr + 1 }
  else s.putRegs is.team is.grp none ws.flatten

/-- The common course of a register instruction: the range check (R205), one result for each executing lane, the events
(R238), the write and the next word. `m` is the set of executing lanes; `f` gives lane `l`'s result from its sources, with the events
of each element that the result holds. -/
def execPacked (m : Issue → BitVec 64) (long : Bool) (d : Dst) (srcs : List Src)
    (f : State → Issue → Team → Nat → List DWord → DWord × List (List Ev)) (s : State) : Out :=
  withIssue s fun is tm _ =>
    if !(d.inRange tm.nv tm.ns && srcs.all (Src.inRange tm.nv tm.ns)) then
      .next (s.trap is { regRange with lmask := m is })
    else
      let ls := execLanes d (m is)
      let rs := ls.map (fun l => (l, f s is tm l (srcs.map (Src.read is.snap l))))
      let s1 := s.countEvents tm.ctx (some (is.team, is.grp)) (rs.flatMap (fun r => r.2.2.flatMap evClasses))
      let s2 := s1.giveResults is long (rs.map (fun r => d.writes r.1 r.2.1))
      .next (s2.retire is)

/-- The common course where a lane's result is one element. -/
def execLanesOp (m : Issue → BitVec 64) (long : Bool) (d : Dst) (srcs : List Src)
    (f : State → Issue → Team → Nat → List DWord → Res) (s : State) : Out :=
  execPacked m long d srcs (fun s is tm l xs => ((f s is tm l xs).val, [(f s is tm l xs).ev])) s

/-- A guarded register instruction (R50). -/
def execReg (g : Nat) (long : Bool) (d : Dst) (srcs : List Src) (f : List DWord → Res) (s : State) : Out :=
  execLanesOp (fun is => is.guarded g) long d srcs (fun _ _ _ _ xs => f xs) s

/-- A register instruction of the SU form: no guard, once per issue (R216). -/
def execSU (long : Bool) (d : Dst) (srcs : List Src) (f : List DWord → Res) (s : State) : Out :=
  execLanesOp (fun is => is.mask) long d srcs (fun _ _ _ _ xs => f xs) s

/-- The operand `n` of a list of source values. -/
def opnd (xs : List DWord) (n : Nat) : DWord := xs.getD n 0

/-- A six-bit signed immediate, sign-extended (R243). -/
def imm6 (i : BitVec 6) : DWord := (i.signExtend 32).setWidth 64

/-- The third operand of an SU word: a scalar register, or a signed immediate where bit 19 is set (Table 3.2). -/
def suSrc (k : BitVec 1) (b : BitVec 6) : Src := if k = 1 then .imm (imm6 b) else .s b.toNat

end Sys2Proof.Machine
end

