-- ==== Sys2Proof/Machine/Flags.lean ====
section
/-!
DEFINITION. Predicates written by compares: the conditions of Table 3.4, the combining types of Table 3.5 (R51), and the
common course of a compare (R252).
-/

namespace Sys2Proof.Machine

/-- A condition of Table 3.4 on two integers. -/
def intCond (code : Nat) (x y : Int) : Bool :=
  match code with
  | 0 => decide (x = y)
  | 1 => decide (x ≠ y)
  | 2 => decide (x < y)
  | 3 => decide (x ≤ y)
  | 4 => decide (y < x)
  | 5 => decide (y ≤ x)
  | _ => false

/-- A condition of Table 3.4 on two floating values: with a NaN, only ne and uo hold (R49). -/
def fltCond (code : Nat) (x y : FV) : Bool :=
  if x.isNaN || y.isNaN then code == 1 || code == 6
  else if code = 7 then true
  else if code = 6 then false
  else intCond code (x.cmp y) 0

/-- Table 3.5: what the combining type writes to the pair from the guard, the condition and the old values; none leaves
a predicate unchanged. -/
def combine (code : Nat) (g c old1 old2 : Bool) : Option Bool × Option Bool :=
  if g then
    match code % 4, c with
    | 0, true => (some true, some false)
    | 0, false => (some false, some true)
    | 1, true => (none, none)
    | 1, false => (some false, some true)
    | 2, true => (some true, some false)
    | 2, false => (none, none)
    | _, true => (some (!old1), some (!old2))
    | _, false => (none, none)
  else if 4 ≤ code then (some false, some false)
  else (none, none)

/-- The predicate writes of one lane. -/
def predWrites (l p1 p2 : Nat) (r : Option Bool × Option Bool) : List (RegRef × Word) :=
  (match r.1 with | some b => [(.p l p1, if b then 1 else 0)] | none => []) ++
  (match r.2 with | some b => [(.p l p2, if b then 1 else 0)] | none => [])

/-- The common course of a compare: every lane of the active set, guarded or not, combines the old pair with its
condition (R51, R252). -/
def execCompare (g code p1 p2 : Nat) (srcs : List Src) (cond : List DWord → Bool) (s : State) : Out :=
  withIssue s fun is tm _ =>
    if !(srcs.all (Src.inRange tm.nv tm.ns)) then
      .next (s.trap is { regRange with lmask := is.guarded g })
    else
      let lane (l : Nat) : List (RegRef × Word) :=
        predWrites l p1 p2
          (combine code (is.snap.pred l g) (cond (srcs.map (Src.read is.snap l))) (is.snap.pred l p1)
            (is.snap.pred l p2))
      let s1 := s.giveResults is false ((lanesOf is.mask).map lane)
      .next (s1.retire is)

/-- The predicates of an SC or SCI word: p(2Q + SW) and p(2Q + 1 − SW) (R51). -/
def scPair (q : BitVec 2) (w : BitVec 1) : Nat × Nat :=
  (2 * q.toNat + w.toNat, 2 * q.toNat + 1 - w.toNat)

/-- The predicates of an LR compare: pd1 in d[6:4], pd2 in d[2:0] (R51). -/
def lrPair (d : BitVec 8) : Nat × Nat := (d.toNat / 16 % 8, d.toNat % 8)

end Sys2Proof.Machine
end

