-- ==== Sys2Proof/Machine/IntArith.lean ====
section
/-!
DEFINITION. Integer, logic, shift, bit-field, move, select and address instructions and integer compares: class 0 of the
opcode map (R243 to R252).
-/

namespace Sys2Proof.Machine

/-- An integer type of class 0: signedness and width (Table 3.4). -/
structure ITy where
  signed : Bool
  wide : Bool
deriving DecidableEq, Repr

/-- Codes 2, 3, 6 and 7 of T1: `.i32`, `.i64`, `.z32`, `.z64`. -/
def ITy.of (t1 : BitVec 4) : ITy := { signed := t1.toNat < 4, wide := t1.toNat % 4 == 3 }

def tI32 : ITy := ⟨true, false⟩
def tI64 : ITy := ⟨true, true⟩

/-- Width in bits. -/
def ITy.bits (t : ITy) : Nat := if t.wide then 64 else 32

/-- An operand read in the type. -/
def ITy.val (t : ITy) (x : DWord) : Int := intVal t.signed t.bits x.toNat

/-- An operand's bits in the type's width, unsigned. -/
def ITy.raw (t : ITy) (x : DWord) : Nat := x.toNat % 2 ^ t.bits

/-- The end of R243: an exact result saturated where asked, with its event, then taken modulo 2^n. -/
def ITy.fit (t : ITy) (sat : Bool) (r : Int) : Res :=
  if sat && !inRange t.signed t.bits r then
    ⟨BitVec.ofNat 64 (wrapNat t.bits (iclamp t.signed t.bits r)), [.saturation]⟩
  else ⟨BitVec.ofNat 64 (wrapNat t.bits r), []⟩

/-- An integer operation: type, SAT and source values to a result. -/
abbrev IOp := ITy → Bool → List DWord → Res

def opIadd : IOp := fun t sat xs => t.fit sat (t.val (opnd xs 0) + t.val (opnd xs 1))
def opIsub : IOp := fun t sat xs => t.fit sat (t.val (opnd xs 0) - t.val (opnd xs 1))
def opImul : IOp := fun t sat xs => t.fit sat (t.val (opnd xs 0) * t.val (opnd xs 1))
def opImad : IOp := fun t sat xs => t.fit sat (t.val (opnd xs 0) * t.val (opnd xs 1) + t.val (opnd xs 2))
/-- ⌊x · y / 2^32⌋, signed by the type. -/
def opImulhi : IOp := fun t _ xs => t.fit false ((t.val (opnd xs 0) * t.val (opnd xs 1)) / (2 ^ 32 : Int))
def opIneg : IOp := fun t sat xs => t.fit sat (0 - t.val (opnd xs 0))
def opIabs : IOp := fun t sat xs => t.fit sat ((t.val (opnd xs 0)).natAbs : Int)
def opImin : IOp := fun t _ xs => t.fit false (min (t.val (opnd xs 0)) (t.val (opnd xs 1)))
def opImax : IOp := fun t _ xs => t.fit false (max (t.val (opnd xs 0)) (t.val (opnd xs 1)))
def opAnd : IOp := fun _ _ xs => ⟨opnd xs 0 &&& opnd xs 1, []⟩
def opOr : IOp := fun _ _ xs => ⟨opnd xs 0 ||| opnd xs 1, []⟩
def opXor : IOp := fun _ _ xs => ⟨opnd xs 0 ^^^ opnd xs 1, []⟩
def opNot : IOp := fun _ _ xs => ⟨~~~(opnd xs 0), []⟩

/-- The shift count: one 32-bit value read unsigned (R245). -/
def shCount (xs : List DWord) : Nat := (opnd xs 1).toNat % 2 ^ 32

def opShl : IOp := fun t _ xs =>
  let k := shCount xs
  ⟨BitVec.ofNat 64 (if k < t.bits then (t.raw (opnd xs 0) * 2 ^ k) % 2 ^ t.bits else 0), []⟩
def opShr : IOp := fun t _ xs =>
  let k := shCount xs
  ⟨BitVec.ofNat 64 (if k < t.bits then t.raw (opnd xs 0) / 2 ^ k else 0), []⟩
def opSar : IOp := fun t _ xs =>
  let k := min (shCount xs) (t.bits - 1)
  ⟨BitVec.ofNat 64 (wrapNat t.bits (intVal true t.bits (opnd xs 0).toNat / ((2 ^ k : Nat) : Int))), []⟩
def opRotl : IOp := fun t _ xs =>
  let k := shCount xs % t.bits
  let x := t.raw (opnd xs 0)
  ⟨BitVec.ofNat 64 ((x * 2 ^ k) % 2 ^ t.bits + x / 2 ^ (t.bits - k)), []⟩

/-- The number of 1 bits among the low `n`. -/
def popCount : Nat → Nat → Nat
  | 0, _ => 0
  | n + 1, x => x % 2 + popCount n (x / 2)

/-- Bit i of the low `n` becomes bit n − 1 − i. -/
def bitReverse : Nat → Nat → Nat
  | 0, _ => 0
  | n + 1, x => (x % 2) * 2 ^ n + bitReverse n (x / 2)

def opPopc : IOp := fun t _ xs => ⟨BitVec.ofNat 64 (popCount t.bits (t.raw (opnd xs 0))), []⟩
def opClz : IOp := fun t _ xs =>
  let x := t.raw (opnd xs 0)
  ⟨BitVec.ofNat 64 (if x = 0 then t.bits else t.bits - 1 - Nat.log2 x), []⟩
def opBrev : IOp := fun t _ xs => ⟨BitVec.ofNat 64 (bitReverse t.bits (t.raw (opnd xs 0))), []⟩
def opMov : IOp := fun _ _ xs => ⟨opnd xs 0, []⟩

/-- `bfx` of R246: the field at `pos` of length `len`, cut at bit 31, extended by the type. -/
def opBfx (t : ITy) (x pos len : Nat) : Res :=
  if 32 ≤ pos || len == 0 then ⟨0, []⟩
  else
    let m := min len (32 - pos)
    ⟨BitVec.ofNat 64 (wrapNat 32 (intVal t.signed m ((x % 2 ^ 32) / 2 ^ pos))), []⟩

/-- `bfi` of R246: the low `len` bits of x placed at `pos` of y, cut at bit 31. -/
def opBfi (x y pos len : Nat) : Res :=
  if 32 ≤ pos || len == 0 then ⟨BitVec.ofNat 64 (y % 2 ^ 32), []⟩
  else
    let m := min len (32 - pos)
    let y := y % 2 ^ 32
    let low := y % 2 ^ pos
    let high := y / 2 ^ (pos + m)
    ⟨BitVec.ofNat 64 (low + (x % 2 ^ m) * 2 ^ pos + high * 2 ^ (pos + m)), []⟩

/-! ### Operand forms of class 0 -/

/-- SR: three vector registers, of width `wide`. -/
def intSR (op : IOp) (t : ITy) (g : BitVec 2) (d a b : BitVec 6) (s : State) : Out :=
  execReg g.toNat false (dstOf false t.wide d.toNat) [srcOf false t.wide a.toNat, srcOf false t.wide b.toNat]
    (op t false) s

/-- SI: vector registers and a signed six-bit immediate. -/
def intSI (op : IOp) (t : ITy) (g : BitVec 2) (d a i : BitVec 6) (s : State) : Out :=
  execReg g.toNat false (dstOf false t.wide d.toNat) [srcOf false t.wide a.toNat, .imm (i.signExtend 64)]
    (op t false) s

/-- SU: scalar registers, or a signed six-bit immediate in place of b. -/
def intSU (op : IOp) (t : ITy) (k : BitVec 1) (d a b : BitVec 6) (s : State) : Out :=
  execSU false (dstOf true t.wide d.toNat)
    [srcOf true t.wide a.toNat, if k = 1 then .imm (b.signExtend 64) else srcOf true t.wide b.toNat] (op t false) s

/-- LR with two sources of the type. -/
def intLR (op : IOp) (o : LR) (s : State) : Out :=
  let t := ITy.of o.t1
  execReg o.g.toNat false (dstOf o.kd t.wide o.d.toNat)
    [srcOf o.ka t.wide o.a.toNat, srcOf o.kb t.wide o.b.toNat] (op t o.sat) s

/-- LR or LI: an LI form has a 32-bit immediate as its second source (R241). -/
def intLong (op : IOp) (tLI : ITy) (o : Long) (s : State) : Out :=
  match o with
  | .lr o => intLR op o s
  | .li o =>
    execReg o.g.toNat false (dstOf o.k tLI.wide o.d.toNat)
      [srcOf o.k tLI.wide o.a.toNat, .imm (o.imm.signExtend 64)] (op tLI false) s

/-- Shifts: the count is always one 32-bit register (R245). -/
def shiftLR (op : IOp) (o : LR) (s : State) : Out :=
  let t := ITy.of o.t1
  execReg o.g.toNat false (dstOf o.kd t.wide o.d.toNat)
    [srcOf o.ka t.wide o.a.toNat, srcOf o.kb false o.b.toNat] (op t false) s

/-- Unary operations; `narrow` writes one 32-bit register whatever the type (R247). -/
def unSR (op : IOp) (g : BitVec 2) (d a : BitVec 6) (s : State) : Out :=
  execReg g.toNat false (.v d.toNat) [.v a.toNat] (op tI32 false) s

def unSU (op : IOp) (d a : BitVec 6) (s : State) : Out :=
  execSU false (.s d.toNat) [.s a.toNat] (op tI32 false) s

def unLR (op : IOp) (narrow : Bool) (o : LR) (s : State) : Out :=
  let t := ITy.of o.t1
  execReg o.g.toNat false (dstOf o.kd (t.wide && !narrow) o.d.toNat) [srcOf o.ka t.wide o.a.toNat] (op t o.sat) s

/-- Short compares of class 0 on `.i32` (R252). -/
def icmpSC (code : Nat) (g : BitVec 2) (t : BitVec 3) (q : BitVec 2) (w : BitVec 1) (a : BitVec 6) (b : Src)
    (s : State) : Out :=
  let p := scPair q w
  execCompare g.toNat t.toNat p.1 p.2 [.v a.toNat, b]
    (fun xs => intCond code (tI32.val (opnd xs 0)) (tI32.val (opnd xs 1))) s

/-! ### The meanings -/


/-- `iadd` SR (R243). -/
def execIaddSr (g : BitVec 2) (d a b : BitVec 6) (s : State) : Out :=
  intSR opIadd tI32 g d a b s

/-- `iadd` SI (R243). -/
def execIaddSi (g : BitVec 2) (d a i : BitVec 6) (s : State) : Out :=
  intSI opIadd tI32 g d a i s

/-- `iadd` SU (R243). -/
def execIaddSu (k : BitVec 1) (d a b : BitVec 6) (s : State) : Out :=
  intSU opIadd tI32 k d a b s

/-- `iadd` LR and LI (R243). -/
def execIaddL (o : Long) (s : State) : Out :=
  intLong opIadd tI32 o s

/-- `isub` SR (R243). -/
def execIsubSr (g : BitVec 2) (d a b : BitVec 6) (s : State) : Out :=
  intSR opIsub tI32 g d a b s

/-- `isub` SI (R243). -/
def execIsubSi (g : BitVec 2) (d a i : BitVec 6) (s : State) : Out :=
  intSI opIsub tI32 g d a i s

/-- `isub` SU (R243). -/
def execIsubSu (k : BitVec 1) (d a b : BitVec 6) (s : State) : Out :=
  intSU opIsub tI32 k d a b s

/-- `isub` LR and LI (R243). -/
def execIsubL (o : Long) (s : State) : Out :=
  intLong opIsub tI32 o s

/-- `imul` SR (R243). -/
def execImulSr (g : BitVec 2) (d a b : BitVec 6) (s : State) : Out :=
  intSR opImul tI32 g d a b s

/-- `imul` SI (R243). -/
def execImulSi (g : BitVec 2) (d a i : BitVec 6) (s : State) : Out :=
  intSI opImul tI32 g d a i s

/-- `imul` SU (R243). -/
def execImulSu (k : BitVec 1) (d a b : BitVec 6) (s : State) : Out :=
  intSU opImul tI32 k d a b s

/-- `imul` LR and LI (R243). -/
def execImulL (o : Long) (s : State) : Out :=
  intLong opImul tI32 o s

/-- `imin` SR (R243). -/
def execIminSr (g : BitVec 2) (d a b : BitVec 6) (s : State) : Out :=
  intSR opImin tI32 g d a b s

/-- `imin` SI (R243). -/
def execIminSi (g : BitVec 2) (d a i : BitVec 6) (s : State) : Out :=
  intSI opImin tI32 g d a i s

/-- `imin` SU (R243). -/
def execIminSu (k : BitVec 1) (d a b : BitVec 6) (s : State) : Out :=
  intSU opImin tI32 k d a b s

/-- `imin` LR and LI (R243). -/
def execIminL (o : Long) (s : State) : Out :=
  intLong opImin tI32 o s

/-- `imax` SR (R243). -/
def execImaxSr (g : BitVec 2) (d a b : BitVec 6) (s : State) : Out :=
  intSR opImax tI32 g d a b s

/-- `imax` SI (R243). -/
def execImaxSi (g : BitVec 2) (d a i : BitVec 6) (s : State) : Out :=
  intSI opImax tI32 g d a i s

/-- `imax` SU (R243). -/
def execImaxSu (k : BitVec 1) (d a b : BitVec 6) (s : State) : Out :=
  intSU opImax tI32 k d a b s

/-- `imax` LR and LI (R243). -/
def execImaxL (o : Long) (s : State) : Out :=
  intLong opImax tI32 o s

/-- `and` SR (R244). -/
def execAndSr (g : BitVec 2) (d a b : BitVec 6) (s : State) : Out :=
  intSR opAnd tI32 g d a b s

/-- `and` SI (R244). -/
def execAndSi (g : BitVec 2) (d a i : BitVec 6) (s : State) : Out :=
  intSI opAnd tI32 g d a i s

/-- `and` SU (R244). -/
def execAndSu (k : BitVec 1) (d a b : BitVec 6) (s : State) : Out :=
  intSU opAnd tI32 k d a b s

/-- `and` LR and LI (R244). -/
def execAndL (o : Long) (s : State) : Out :=
  intLong opAnd tI32 o s

/-- `or` SR (R244). -/
def execOrSr (g : BitVec 2) (d a b : BitVec 6) (s : State) : Out :=
  intSR opOr tI32 g d a b s

/-- `or` SI (R244). -/
def execOrSi (g : BitVec 2) (d a i : BitVec 6) (s : State) : Out :=
  intSI opOr tI32 g d a i s

/-- `or` SU (R244). -/
def execOrSu (k : BitVec 1) (d a b : BitVec 6) (s : State) : Out :=
  intSU opOr tI32 k d a b s

/-- `or` LR and LI (R244). -/
def execOrL (o : Long) (s : State) : Out :=
  intLong opOr tI32 o s

/-- `xor` SR (R244). -/
def execXorSr (g : BitVec 2) (d a b : BitVec 6) (s : State) : Out :=
  intSR opXor tI32 g d a b s

/-- `xor` SI (R244). -/
def execXorSi (g : BitVec 2) (d a i : BitVec 6) (s : State) : Out :=
  intSI opXor tI32 g d a i s

/-- `xor` SU (R244). -/
def execXorSu (k : BitVec 1) (d a b : BitVec 6) (s : State) : Out :=
  intSU opXor tI32 k d a b s

/-- `xor` LR and LI (R244). -/
def execXorL (o : Long) (s : State) : Out :=
  intLong opXor tI32 o s

/-- `imad`: the addend is vector c (R243). -/
def execImadL (o : LR) (s : State) : Out :=
  let t := ITy.of o.t1
  execReg o.g.toNat false (dstOf o.kd t.wide o.d.toNat)
    [srcOf o.ka t.wide o.a.toNat, srcOf o.kb t.wide o.b.toNat, srcOf false t.wide o.c.toNat] (opImad t o.sat) s

/-- `imulhi` SR, signed (R243). -/
def execImulhiSr (g : BitVec 2) (d a b : BitVec 6) (s : State) : Out :=
  intSR opImulhi tI32 g d a b s

/-- `imulhi` SU, signed (R243). -/
def execImulhiSu (k : BitVec 1) (d a b : BitVec 6) (s : State) : Out :=
  intSU opImulhi tI32 k d a b s

/-- `imulhi` LR, signed by T1 (R243). -/
def execImulhiL (o : LR) (s : State) : Out :=
  intLR opImulhi o s

/-- `iadd64` SR on pairs (R243). -/
def execIadd64Sr (g : BitVec 2) (d a b : BitVec 6) (s : State) : Out :=
  intSR opIadd tI64 g d a b s

/-- `iadd64` SI on pairs (R243). -/
def execIadd64Si (g : BitVec 2) (d a i : BitVec 6) (s : State) : Out :=
  intSI opIadd tI64 g d a i s

/-- `iadd64` SU on pairs (R243). -/
def execIadd64Su (k : BitVec 1) (d a b : BitVec 6) (s : State) : Out :=
  intSU opIadd tI64 k d a b s

/-- `iadd64` LR and LI; with X = 1, y is the single register b extended by the type (R243). -/
def execIadd64L (o : Long) (s : State) : Out :=
  match o with
  | .li _ => intLong opIadd tI64 o s
  | .lr o =>
    let t := ITy.of o.t1
    if o.x then
      execReg o.g.toNat false (dstOf o.kd true o.d.toNat) [srcOf o.ka true o.a.toNat, srcOf o.kb false o.b.toNat]
        (fun xs =>
          let y := (opnd xs 1).setWidth 32
          opIadd t o.sat [opnd xs 0, if t.signed then y.signExtend 64 else y.setWidth 64]) s
    else intLR opIadd o s

/-- `ineg` SR (R243). -/
def execInegSr (g : BitVec 2) (d a : BitVec 6) (s : State) : Out :=
  unSR opIneg g d a s

/-- `ineg` SU (R243). -/
def execInegSu (d a : BitVec 6) (s : State) : Out :=
  unSU opIneg d a s

/-- `ineg` LR (R243). -/
def execInegL (o : LR) (s : State) : Out :=
  unLR opIneg false o s

/-- `iabs` SR (R243). -/
def execIabsSr (g : BitVec 2) (d a : BitVec 6) (s : State) : Out :=
  unSR opIabs g d a s

/-- `iabs` SU (R243). -/
def execIabsSu (d a : BitVec 6) (s : State) : Out :=
  unSU opIabs d a s

/-- `iabs` LR (R243). -/
def execIabsL (o : LR) (s : State) : Out :=
  unLR opIabs false o s

/-- `not` SR (R244). -/
def execNotSr (g : BitVec 2) (d a : BitVec 6) (s : State) : Out :=
  unSR opNot g d a s

/-- `not` SU (R244). -/
def execNotSu (d a : BitVec 6) (s : State) : Out :=
  unSU opNot d a s

/-- `not` LR (R244). -/
def execNotL (o : LR) (s : State) : Out :=
  unLR opNot false o s

/-- `popc` SR (R247). -/
def execPopcSr (g : BitVec 2) (d a : BitVec 6) (s : State) : Out :=
  unSR opPopc g d a s

/-- `popc` SU (R247). -/
def execPopcSu (d a : BitVec 6) (s : State) : Out :=
  unSU opPopc d a s

/-- `popc` LR (R247). -/
def execPopcL (o : LR) (s : State) : Out :=
  unLR opPopc true o s

/-- `clz` SR (R247). -/
def execClzSr (g : BitVec 2) (d a : BitVec 6) (s : State) : Out :=
  unSR opClz g d a s

/-- `clz` SU (R247). -/
def execClzSu (d a : BitVec 6) (s : State) : Out :=
  unSU opClz d a s

/-- `clz` LR (R247). -/
def execClzL (o : LR) (s : State) : Out :=
  unLR opClz true o s

/-- `brev` SR (R247). -/
def execBrevSr (g : BitVec 2) (d a : BitVec 6) (s : State) : Out :=
  unSR opBrev g d a s

/-- `brev` SU (R247). -/
def execBrevSu (d a : BitVec 6) (s : State) : Out :=
  unSU opBrev d a s

/-- `brev` LR (R247). -/
def execBrevL (o : LR) (s : State) : Out :=
  unLR opBrev false o s

/-- `shl` SR (R245). -/
def execShlSr (g : BitVec 2) (d a b : BitVec 6) (s : State) : Out :=
  intSR opShl tI32 g d a b s

/-- `shl` SI: a negative immediate is a count of 2^32 − 32 or more (R245). -/
def execShlSi (g : BitVec 2) (d a i : BitVec 6) (s : State) : Out :=
  intSI opShl tI32 g d a i s

/-- `shl` SU (R245). -/
def execShlSu (k : BitVec 1) (d a b : BitVec 6) (s : State) : Out :=
  intSU opShl tI32 k d a b s

/-- `shl` LR (R245). -/
def execShlL (o : LR) (s : State) : Out :=
  shiftLR opShl o s

/-- `shr` SR (R245). -/
def execShrSr (g : BitVec 2) (d a b : BitVec 6) (s : State) : Out :=
  intSR opShr tI32 g d a b s

/-- `shr` SI: a negative immediate is a count of 2^32 − 32 or more (R245). -/
def execShrSi (g : BitVec 2) (d a i : BitVec 6) (s : State) : Out :=
  intSI opShr tI32 g d a i s

/-- `shr` SU (R245). -/
def execShrSu (k : BitVec 1) (d a b : BitVec 6) (s : State) : Out :=
  intSU opShr tI32 k d a b s

/-- `shr` LR (R245). -/
def execShrL (o : LR) (s : State) : Out :=
  shiftLR opShr o s

/-- `sar` SR (R245). -/
def execSarSr (g : BitVec 2) (d a b : BitVec 6) (s : State) : Out :=
  intSR opSar tI32 g d a b s

/-- `sar` SI: a negative immediate is a count of 2^32 − 32 or more (R245). -/
def execSarSi (g : BitVec 2) (d a i : BitVec 6) (s : State) : Out :=
  intSI opSar tI32 g d a i s

/-- `sar` SU (R245). -/
def execSarSu (k : BitVec 1) (d a b : BitVec 6) (s : State) : Out :=
  intSU opSar tI32 k d a b s

/-- `sar` LR (R245). -/
def execSarL (o : LR) (s : State) : Out :=
  shiftLR opSar o s

/-- `rotl` SR (R245). -/
def execRotlSr (g : BitVec 2) (d a b : BitVec 6) (s : State) : Out :=
  intSR opRotl tI32 g d a b s

/-- `rotl` SI: a negative immediate is a count of 2^32 − 32 or more (R245). -/
def execRotlSi (g : BitVec 2) (d a i : BitVec 6) (s : State) : Out :=
  intSI opRotl tI32 g d a i s

/-- `rotl` SU (R245). -/
def execRotlSu (k : BitVec 1) (d a b : BitVec 6) (s : State) : Out :=
  intSU opRotl tI32 k d a b s

/-- `rotl` LR (R245). -/
def execRotlL (o : LR) (s : State) : Out :=
  shiftLR opRotl o s

/-- `bfx`: position and length from b, or from the b and c fields with X = 1 (R246). -/
def execBfxL (o : LR) (s : State) : Out :=
  let t := ITy.of o.t1
  if o.x then
    execReg o.g.toNat false (dstOf o.kd false o.d.toNat) [srcOf o.ka false o.a.toNat]
      (fun xs => opBfx t (opnd xs 0).toNat o.b.toNat o.c.toNat) s
  else
    execReg o.g.toNat false (dstOf o.kd false o.d.toNat) [srcOf o.ka false o.a.toNat, srcOf o.kb false o.b.toNat]
      (fun xs =>
        let y := (opnd xs 1).toNat
        opBfx t (opnd xs 0).toNat (y % 256) (y / 256 % 256)) s

/-- `bfi`: position and length from vector c (R246). -/
def execBfiL (o : LR) (s : State) : Out :=
  execReg o.g.toNat false (dstOf o.kd false o.d.toNat)
    [srcOf o.ka false o.a.toNat, srcOf o.kb false o.b.toNat, .v o.c.toNat]
    (fun xs =>
      let z := (opnd xs 2).toNat
      opBfi (opnd xs 0).toNat (opnd xs 1).toNat (z % 256) (z / 256 % 256)) s

/-- `sel` SR: the guard field is the selector and filters no lane (R249). -/
def execSelSr (p : BitVec 2) (d a b : BitVec 6) (s : State) : Out :=
  execLanesOp (fun is => is.mask) false (.v d.toNat) [.v a.toNat, .v b.toNat]
    (fun _ is _ l xs => ⟨if is.snap.pred l p.toNat then opnd xs 0 else opnd xs 1, []⟩) s

/-- `sel` LR (R249). -/
def execSelL (o : LR) (s : State) : Out :=
  let t := ITy.of o.t1
  execLanesOp (fun is => is.mask) false (dstOf o.kd t.wide o.d.toNat)
    [srcOf o.ka t.wide o.a.toNat, srcOf o.kb t.wide o.b.toNat]
    (fun _ is _ l xs => ⟨if is.snap.pred l o.g.toNat then opnd xs 0 else opnd xs 1, []⟩) s

/-- `mov` SR (R248). -/
def execMovSr (g : BitVec 2) (d a : BitVec 6) (s : State) : Out :=
  unSR opMov g d a s

/-- `mov` SU (R248). -/
def execMovSu (d a : BitVec 6) (s : State) : Out :=
  unSU opMov d a s

/-- `mov` LR: a scalar destination takes a vector source from the lowest executing lane (R248). -/
def execMovL (o : LR) (s : State) : Out :=
  unLR opMov false o s

/-- The value of special register `n` in lane `l` (Table 11.3). A chained `mov` reads it as it stands: R43 gives the words of a chain the
registers of its beginning and names no special register among them, so that %meet and %lcount are those that an earlier word of the
chain has left (DESIGN CHOICE, log entry 105). -/
def special (s : State) (is : Issue) (tm : Team) (n l : Nat) : DWord :=
  let gr := tm.group is.grp
  match n with
  | 0 => BitVec.ofNat 64 l
  | 1 => ((s.gridOf tm).map (fun g => g.gid.setWidth 64)).getD 0
  | 2 => BitVec.ofNat 64 tm.index
  | 3 => BitVec.ofNat 64 (tm.coreOf is.grp)
  | 4 => s.modId.setWidth 64
  | 5 => ((s.gridOf tm).map (fun g => g.odo.setWidth 64)).getD 0
  | 6 => s.time
  | 7 => (tm.thread (tm.tid is.grp l)).meet.setWidth 64
  | 8 => gr.lcount.setWidth 64
  | 9 => BitVec.ofNat 64 gr.repidx
  | _ => BitVec.ofNat 64 is.grp

/-- `mov` of a special register, short class (R208). -/
def execMovSpecial (o : LR) (s : State) : Out :=
  execLanesOp (fun is => is.guarded o.g.toNat) false (dstOf o.kd (o.t1 == 7) o.d.toNat) []
    (fun s is tm l _ => ⟨special s is tm o.c.toNat l, []⟩) s

/-- `movi` SI (R248). -/
def execMoviSi (g : BitVec 2) (d i : BitVec 6) (s : State) : Out :=
  execReg g.toNat false (.v d.toNat) [.imm (imm6 i)] (opMov tI32 false) s

/-- `movi` SU (R248). -/
def execMoviSu (d i : BitVec 6) (s : State) : Out :=
  execSU false (.s d.toNat) [.imm (imm6 i)] (opMov tI32 false) s

/-- `movi` LI (R248). -/
def execMoviLi (o : LI) (s : State) : Out :=
  execReg o.g.toNat false (dstOf o.k false o.d.toNat) [.imm (o.imm.setWidth 64)] (opMov tI32 false) s

/-- `lea`: a + ext(b)·2^sh, or a + sext(imm32), modulo 2^64 (R250). -/
def execLeaL (o : Long) (s : State) : Out :=
  match o with
  | .lr o =>
    let t := ITy.of o.t1
    execReg o.g.toNat false (dstOf o.kd true o.d.toNat) [srcOf o.ka true o.a.toNat, srcOf o.kb t.wide o.b.toNat]
      (fun xs =>
        let y := opnd xs 1
        let e : DWord := if t.wide then y else if t.signed then (y.setWidth 32).signExtend 64 else y
        ⟨opnd xs 0 + e <<< (o.c.toNat % 8), []⟩) s
  | .li o =>
    execReg o.g.toNat false (dstOf o.k true o.d.toNat) [srcOf o.k true o.a.toNat, .imm (o.imm.signExtend 64)]
      (fun xs => ⟨opnd xs 0 + opnd xs 1, []⟩) s

/-- `icmp.eq` SC (R252). -/
def execIcmpEqSc (g : BitVec 2) (t : BitVec 3) (q : BitVec 2) (w : BitVec 1) (a b : BitVec 6) (s : State) : Out :=
  icmpSC 0 g t q w a (.v b.toNat) s

/-- `icmp.eq` SCI (R252). -/
def execIcmpEqSci (g : BitVec 2) (t : BitVec 3) (q : BitVec 2) (w : BitVec 1) (a i : BitVec 6) (s : State) : Out :=
  icmpSC 0 g t q w a (.imm (imm6 i)) s

/-- `icmp.ne` SC (R252). -/
def execIcmpNeSc (g : BitVec 2) (t : BitVec 3) (q : BitVec 2) (w : BitVec 1) (a b : BitVec 6) (s : State) : Out :=
  icmpSC 1 g t q w a (.v b.toNat) s

/-- `icmp.ne` SCI (R252). -/
def execIcmpNeSci (g : BitVec 2) (t : BitVec 3) (q : BitVec 2) (w : BitVec 1) (a i : BitVec 6) (s : State) : Out :=
  icmpSC 1 g t q w a (.imm (imm6 i)) s

/-- `icmp.lt` SC (R252). -/
def execIcmpLtSc (g : BitVec 2) (t : BitVec 3) (q : BitVec 2) (w : BitVec 1) (a b : BitVec 6) (s : State) : Out :=
  icmpSC 2 g t q w a (.v b.toNat) s

/-- `icmp.lt` SCI (R252). -/
def execIcmpLtSci (g : BitVec 2) (t : BitVec 3) (q : BitVec 2) (w : BitVec 1) (a i : BitVec 6) (s : State) : Out :=
  icmpSC 2 g t q w a (.imm (imm6 i)) s

/-- `icmp.le` SC (R252). -/
def execIcmpLeSc (g : BitVec 2) (t : BitVec 3) (q : BitVec 2) (w : BitVec 1) (a b : BitVec 6) (s : State) : Out :=
  icmpSC 3 g t q w a (.v b.toNat) s

/-- `icmp.le` SCI (R252). -/
def execIcmpLeSci (g : BitVec 2) (t : BitVec 3) (q : BitVec 2) (w : BitVec 1) (a i : BitVec 6) (s : State) : Out :=
  icmpSC 3 g t q w a (.imm (imm6 i)) s

/-- `icmp` LR: the condition in T2, the combining type in RM (R252). -/
def execIcmpL (o : LR) (s : State) : Out :=
  let t := ITy.of o.t1
  let p := lrPair o.d
  execCompare o.g.toNat o.rm.toNat p.1 p.2 [srcOf o.ka t.wide o.a.toNat, srcOf o.kb t.wide o.b.toNat]
    (fun xs => intCond o.t2.toNat (t.val (opnd xs 0)) (t.val (opnd xs 1))) s

end Sys2Proof.Machine
end

