-- ==== Sys2Proof/Machine/Special.lean ====
section
/-!
DEFINITION. The special functions of R254: exact special inputs, exact results, and for every other input a free FP32 value
within the error bound of Table 13.5. The bound is tested against a fixed-point approximation of the function whose own
error is below 2^-90 of the bound's unit.
-/

namespace Sys2Proof.Machine

/-- The functions of Table 13.5. -/
inductive SFun where
  | rcp | rsq | sqrt | exp2 | log2 | sin | cos | tanh
deriving DecidableEq, Repr

def SFun.num : SFun → Nat
  | .rcp => 0 | .rsq => 1 | .sqrt => 2 | .exp2 => 3 | .log2 => 4 | .sin => 5 | .cos => 6 | .tanh => 7

/-- Fraction bits of the fixed-point approximations. -/
def fxBits : Nat := 128

/-- ⌊ln 2 · 2^128⌋. -/
def ln2Fx : Nat := 235865763225513294137944142764154484399

/-- ⌊π · 2^160⌋. -/
def piFx160 : Nat := 4591442807048218921384805199743311128454155024418

/-- Integer square root by bisection on bits: the greatest r below 2^n with r² ≤ x. -/
def sqrtBits : Nat → Nat → Nat → Nat
  | 0, r, _ => r
  | n + 1, r, x =>
    let r' := r + 2 ^ n
    sqrtBits n (if r' * r' ≤ x then r' else r) x

/-- ⌊√x⌋. -/
def isqrt (x : Nat) : Nat := sqrtBits (Nat.log2 x / 2 + 1) 0 x

/-- Σ t_k with t_0 = 2^128 and t_k = t_(k−1)·x / (2^128·k): the exponential series in fixed point. -/
def expSeries : Nat → Nat → Nat → Nat → Nat → Nat
  | 0, _, _, _, acc => acc
  | n + 1, k, t, x, acc => expSeries n (k + 1) (t * x / (2 ^ fxBits * k)) x (acc + t)

/-- e^x for fixed-point x in [0, 1). -/
def expFx (x : Nat) : Nat := expSeries 40 1 (2 ^ fxBits) x 0

/-- 2^f for fixed-point f in [0, 1): a fixed-point number in [1, 2). -/
def exp2Fx (f : Nat) : Nat := expFx (f * ln2Fx / 2 ^ fxBits)

/-- The fraction bits of log2 of fixed-point m in [1, 2), by repeated squaring. -/
def log2Bits : Nat → Nat → Nat → Nat
  | 0, _, acc => acc
  | n + 1, m, acc =>
    let q := m * m / 2 ^ fxBits
    if 2 ^ (fxBits + 1) ≤ q then log2Bits n (q / 2) (2 * acc + 1) else log2Bits n q (2 * acc)

/-- Alternating series for sine (k starting at 1) and cosine (k starting at 0), fixed point with sign. -/
def trigSeries : Nat → Nat → Int → Int → Int → Int
  | 0, _, _, _, acc => acc
  | n + 1, k, t, x2, acc =>
    trigSeries n (k + 2) (-(t * x2) / ((2 ^ fxBits * ((k + 1) * (k + 2)) : Nat) : Int)) x2 (acc + t)

def sinFx (x : Int) : Int := trigSeries 40 1 x (x * x / ((2 ^ fxBits : Nat) : Int)) 0
def cosFx (x : Int) : Int := trigSeries 40 0 ((2 ^ fxBits : Nat) : Int) (x * x / ((2 ^ fxBits : Nat) : Int)) 0

/-- `m · 2^e` in fixed point with `b` fraction bits, truncated. -/
def toFx (b : Nat) (m : Nat) (e : Int) : Nat :=
  let k : Int := e + b
  if 0 ≤ k then m * 2 ^ k.toNat else m / 2 ^ (-k).toNat

/-- A fixed-point number as a value. -/
def ofFx (b : Nat) (x : Int) : FV := .fin (decide (x < 0)) x.natAbs (-(b : Int))

/-- An approximation of the function at a finite non-special input `±m · 2^e`, m ≠ 0; just below the power of two that 2^x of a negative
x comes closest to, as the exact result is. -/
def SFun.approx (f : SFun) (neg : Bool) (m : Nat) (e : Int) : FV :=
  match f with
  | .rcp =>
    let k := Nat.log2 m + 200
    .fin neg (2 ^ k / m) (-e - k)
  | .sqrt =>
    let (m, e) : Nat × Int := if e % 2 = 0 then (m, e) else (2 * m, e - 1)
    .fin false (isqrt (m * 2 ^ 200)) (e / 2 - 100)
  | .rsq =>
    let (m, e) : Nat × Int := if e % 2 = 0 then (m, e) else (2 * m, e - 1)
    let k := 2 * (Nat.log2 m / 2 + 100)
    .fin false (isqrt (2 ^ (2 * k) / m)) (-(e / 2) - k)
  | .exp2 =>
    let top : Int := (Nat.log2 m : Int) + e
    if 9 ≤ top then (if neg then .fin false 1 (-400) else .fin false 1 400)
    else
      let x := toFx fxBits m e
      let n := x / 2 ^ fxBits
      let r := x % 2 ^ fxBits
      if neg then
        if r = 0 && (decide (0 ≤ e) || decide (m % 2 ^ (-e).toNat = 0)) then .fin false 1 (-(n : Int))
        else if r = 0 then .fin false (2 ^ (fxBits + 1) - 1) (-(n : Int) - 1 - fxBits)
        else .fin false (exp2Fx (2 ^ fxBits - r)) (-(n : Int) - 1 - fxBits)
      else .fin false (exp2Fx r) ((n : Int) - fxBits)
  | .log2 =>
    let top := Nat.log2 m
    let mm := m * 2 ^ fxBits / 2 ^ top
    let fr := log2Bits 110 mm 0
    ofFx 110 (((top : Int) + e) * ((2 ^ 110 : Nat) : Int) + fr)
  | .sin | .cos =>
    let x := toFx 160 m e
    let r := x % (2 * piFx160)
    let q := r / (piFx160 / 2)
    let y : Int := (((r - q * (piFx160 / 2)) / 2 ^ 32 : Nat) : Int)
    let sn : Int :=
      match q with
      | 0 => sinFx y | 1 => cosFx y | 2 => -(sinFx y) | 3 => -(cosFx y) | _ => sinFx y
    let cs : Int :=
      match q with
      | 0 => cosFx y | 1 => -(sinFx y) | 2 => -(cosFx y) | 3 => sinFx y | _ => cosFx y
    match f with
    | .sin => ofFx fxBits (if neg then -sn else sn)
    | _ => ofFx fxBits cs
  | .tanh =>
    let top : Int := (Nat.log2 m : Int) + e
    if 6 ≤ top then .fin neg (2 ^ 60 - 1) (-60)
    else if top < -30 then .fin neg m e
    else
      -- e^(2x) = 2^(2x / ln 2)
      let z := toFx fxBits m e * 2 * 2 ^ fxBits / ln2Fx
      let w := exp2Fx (z % 2 ^ fxBits) * 2 ^ (z / 2 ^ fxBits)
      .fin neg ((w - 2 ^ fxBits) * 2 ^ fxBits / (w + 2 ^ fxBits)) (-(fxBits : Int))

/-- Whether the exact result is a dyadic number that the approximation gives exactly (R254: exact square roots, integer
powers of two, logarithms of powers of two). -/
def SFun.exactAt (f : SFun) (neg : Bool) (m : Nat) (e : Int) : Bool :=
  match f with
  | .sqrt =>
    let (m, e) : Nat × Int := if e % 2 = 0 then (m, e) else (2 * m, e - 1)
    let r := isqrt (m * 2 ^ 200)
    let v : FV := .fin false r (e / 2 - 100)
    !neg && decide (r * r = m * 2 ^ 200) && decide ((fp32.decode (fp32.round .rn false v).code).cmp v = 0)
  | .exp2 => decide (0 ≤ e) || decide (m % 2 ^ (-e).toNat = 0)
  | .log2 => !neg && decide (m = 2 ^ Nat.log2 m)
  | _ => false

/-- Whether an FP32 value is the exact result, where that is a rational number that FP32 may hold: 1/x. -/
def SFun.hits (f : SFun) (neg : Bool) (m : Nat) (e : Int) (v : FV) : Bool :=
  match f, v with
  | .rcp, .fin s m' e' => s == neg && decide (m * m' = 2 ^ (-(e + e')).toNat) && decide (e + e' ≤ 0)
  | _, _ => false

/-- The FP32 ulp exponent at a value (spacing 2^k, R254). -/
def ulpExp (v : FV) : Int :=
  match v with
  | .fin _ m e =>
    if m = 0 then -149
    else
      let top : Int := (Nat.log2 m : Int) + e
      (if top < -126 then -126 else top) - 23
  | _ => -149

/-- |v − a| ≤ n · 2^k. -/
def within (v a : FV) (n : Nat) (k : Int) : Bool :=
  let q := minExp [v, a] k
  let d := (v.units q - a.units q).natAbs
  decide (d ≤ n * 2 ^ (k - q).toNat)

/-- Whether FP32 value `v` meets the error bound of Table 13.5 at the input. -/
def SFun.bound (f : SFun) (neg : Bool) (m : Nat) (e : Int) (v : FV) : Bool :=
  match v with
  | .fin _ _ _ =>
    let a := f.approx neg m e
    match f with
    | .rcp | .rsq | .sqrt => within v a 1 (ulpExp a)
    | .exp2 => within v a 2 (ulpExp a)
    | .log2 =>
      let x : FV := .fin neg m e
      within v a 2 (ulpExp a) ||
        (decide (0 ≤ x.cmp (.fin false 1 (-1))) && decide (x.cmp (.fin false 2 0) ≤ 0) && within v a 1 (-22))
    | .sin | .cos =>
      if (FV.fin false m e).cmp (.fin false 1 16) ≤ 0 then within v a 1 (-21) && within v (.fin false 0 0) 1 0
      else within v (.fin false 0 0) 1 0
    | .tanh => within v a 2 (ulpExp a) || within v a 1 (-22)
  | _ => false

/-- A special-function result as FP32 before narrowing: its value, the events of Table 13.5, whether it differs from the exact
result, and whether its input lies outside the accurate range, where it counts no event (Table 13.6). -/
structure SfuVal where
  val : FV
  ev : List Ev := []
  inexact : Bool := false
  quiet : Bool := false
deriving DecidableEq, Repr

/-- The function at input value `x` with source code `c` of type code `ty` (R254, Table 13.5). -/
def SFun.eval (f : SFun) (ty c : Nat) (x : FV) : SfuVal :=
  let inv : SfuVal := ⟨.nan, [.invalid], false, false⟩
  match x with
  | .nan => ⟨.nan, [], false, false⟩
  | .inf neg =>
    match f with
    | .rcp => ⟨.fin neg 0 0, [], false, false⟩
    | .rsq => if neg then inv else ⟨.fin false 0 0, [], false, false⟩
    | .sqrt | .log2 => if neg then inv else ⟨.inf false, [], false, false⟩
    | .exp2 => if neg then ⟨.fin false 0 0, [], false, false⟩ else ⟨.inf false, [], false, false⟩
    | .sin | .cos => inv
    | .tanh => ⟨.fin neg 1 0, [], false, false⟩
  | .fin neg m e =>
    if m = 0 then
      match f with
      | .rcp | .rsq => ⟨.inf neg, [.divzero], false, false⟩
      | .sqrt | .sin | .tanh => ⟨.fin neg 0 0, [], false, false⟩
      | .exp2 | .cos => ⟨.fin false 1 0, [], false, false⟩
      | .log2 => ⟨.inf true, [.divzero], false, false⟩
    else if neg && (f == .rsq || f == .sqrt || f == .log2) then inv
    else
      let a := f.approx neg m e
      let quiet := (f == .sin || f == .cos) && decide (0 < (FV.fin false m e).cmp (.fin false 1 16))
      if f.exactAt neg m e then
        let r := fp32.round .rn false a
        ⟨fp32.decode r.code, r.ev, false, false⟩
      else
        let c' := Config.sfu f.num ty c % 2 ^ 32
        let v := fp32.decode c'
        if f.bound neg m e v then ⟨v, [], !f.hits neg m e v, quiet⟩
        else
          let r := fp32.round .rn false a
          ⟨fp32.decode r.code, r.ev.filter (· != .underflow), !f.hits neg m e (fp32.decode r.code), quiet⟩

end Sys2Proof.Machine
end

