-- ==== Sys2Proof/Machine/FloatArith.lean ====
section
/-!
DEFINITION. Floating arithmetic, special functions, classification, conversions and floating compares (class 1 of the opcode
map, R252 to R257) and the factored second moment (R268).
-/

namespace Sys2Proof.Machine

/-- The floating format of a type code (Table 3.4, codes 8 to 13). -/
def fmtOf (t : Nat) : FFmt :=
  match t with
  | 9 => fp16
  | 10 => bf16
  | 11 => e4m3
  | 12 => e5m2
  | 13 => e2m1
  | _ => fp32

/-- The value of a lane register read in a floating format: the low bits, the others ignored (R241, R257). -/
def FFmt.val (f : FFmt) (x : DWord) : FV := f.decode (x.toNat % 2 ^ f.bits)

/-- The random word of a stochastic rounding in a vector instruction, for element `e` of lane `l` (R231, Table 12.5). -/
def randWord (s : State) (is : Issue) (tm : Team) (l e : Nat) : Word :=
  let gd := s.gridOf tm
  let seed := (gd.map (·.rseed)).getD 0
  let step := is.snap.sca ((gd.map (·.rstep)).getD 0)
  let w := is.wpc.toNat
  gen seed (BitVec.ofNat 32 (4096 * tm.index + tm.tid is.grp l))
    (BitVec.ofNat 32 (512 * (w / 4) + 8 * (tm.group is.grp).repidx + e)) step

/-- The rounding mode of an RM code (Table 3.4, Table 12.3). -/
def rmode (s : State) (is : Issue) (tm : Team) (l e code : Nat) : RMode :=
  match code with
  | 0 => .rn
  | 1 => .rz
  | 2 => .ru
  | 3 => .rd
  | _ => .rs (randWord s is tm l e)

/-- An exact value with its events, rounded into the format (R227, R228). -/
def FFmt.give (f : FFmt) (mode : RMode) (sat : Bool) (v : FV) (ev : List Ev) : Res :=
  let r := f.round mode sat v
  ⟨BitVec.ofNat 64 r.code, ev ++ r.ev⟩

/-- A floating operation: format, mode, SAT and source values to a result. -/
abbrev FOp := FFmt → RMode → Bool → List FV → Res

def fv (xs : List FV) (n : Nat) : FV := xs.getD n .nan

/-- The exact sum of two terms, rounded. -/
def opFadd : FOp := fun f m sat xs =>
  let r := sumFV m false [fv xs 0, fv xs 1]
  f.give m sat r.1 r.2
def opFsub : FOp := fun f m sat xs =>
  let r := sumFV m false [fv xs 0, (fv xs 1).neg]
  f.give m sat r.1 r.2
def opFmul : FOp := fun f m sat xs =>
  let p := (fv xs 0).mul (fv xs 1)
  f.give m sat p.1 (if p.2 then [.invalid] else [])
/-- x · y + z rounded once; 0 · ∞ counts INVALID and NAN even when z is NaN (R253). -/
def opFfma : FOp := fun f m sat xs =>
  let p := (fv xs 0).mul (fv xs 1)
  let r := sumFV m p.2 [p.1, fv xs 2]
  f.give m sat r.1 r.2
def opFmin : FOp := fun f _ _ xs => f.give .rn false (FV.minmax false (fv xs 0) (fv xs 1)) []
def opFmax : FOp := fun f _ _ xs => f.give .rn false (FV.minmax true (fv xs 0) (fv xs 1)) []
def opFneg : FOp := fun f _ _ xs => f.give .rn false (fv xs 0).neg []
def opFabs : FOp := fun f _ _ xs => f.give .rn false (fv xs 0).abs []

/-- SR: vector registers, `.f32`, nearest even (R49). -/
def fltSR (op : FOp) (g : BitVec 2) (d : BitVec 6) (srcs : List (BitVec 6)) (s : State) : Out :=
  execReg g.toNat false (.v d.toNat) (srcs.map (fun r => .v r.toNat)) (fun xs => op fp32 .rn false (xs.map fp32.val)) s

/-- SU: scalar registers. -/
def fltSU (op : FOp) (d : BitVec 6) (srcs : List (BitVec 6)) (s : State) : Out :=
  execSU false (.s d.toNat) (srcs.map (fun r => .s r.toNat)) (fun xs => op fp32 .rn false (xs.map fp32.val)) s

/-- LR: type, rounding and saturation as the fields say. -/
def fltLR (op : FOp) (srcs : List Src) (o : LR) (s : State) : Out :=
  let f := fmtOf o.t1.toNat
  execLanesOp (fun is => is.guarded o.g.toNat) false (dstOf o.kd false o.d.toNat) srcs
    (fun s is tm l xs => op f (rmode s is tm l 0 o.rm.toNat) o.sat (xs.map f.val)) s

/-- The sources a and b of an LR form. -/
def lrAB (o : LR) : List Src := [srcOf o.ka false o.a.toNat, srcOf o.kb false o.b.toNat]

/-- LR or LI; an LI form is `.f32`, nearest even, its immediate an FP32 pattern (R241). -/
def fltLong (op : FOp) (o : Long) (s : State) : Out :=
  match o with
  | .lr o => fltLR op (lrAB o) o s
  | .li o =>
    execReg o.g.toNat false (dstOf o.k false o.d.toNat) [srcOf o.k false o.a.toNat, .imm (o.imm.setWidth 64)]
      (fun xs => op fp32 .rn false (xs.map fp32.val)) s

/-- A special function: computed in FP32, then rounded to nearest even into the type (R254). A tiny result counts UNDERFLOW where it
is not the exact result, even if the FP32 value that stands for it narrows exactly (R229). -/
def opSfu (f : SFun) (ty : Nat) (x : DWord) : Res :=
  let fmt := fmtOf ty
  let r := f.eval ty (x.toNat % 2 ^ fmt.bits) (fmt.val x)
  let o := fmt.round .rn false r.val
  let mag := o.code % 2 ^ (fmt.bits - 1)
  let tiny : List Ev := if r.inexact && decide (0 < mag) && decide (mag < 2 ^ fmt.fbits) then [.underflow] else []
  ⟨BitVec.ofNat 64 o.code, if r.quiet then [] else r.ev ++ o.ev ++ tiny⟩

def sfuSR (f : SFun) (g : BitVec 2) (d a : BitVec 6) (s : State) : Out :=
  execReg g.toNat true (.v d.toNat) [.v a.toNat] (fun xs => opSfu f 8 (opnd xs 0)) s

def sfuSU (f : SFun) (d a : BitVec 6) (s : State) : Out :=
  execSU true (.s d.toNat) [.s a.toNat] (fun xs => opSfu f 8 (opnd xs 0)) s

def sfuLR (f : SFun) (o : LR) (s : State) : Out :=
  execReg o.g.toNat true (dstOf o.kd false o.d.toNat) [srcOf o.ka false o.a.toNat]
    (fun xs => opSfu f o.t1.toNat (opnd xs 0)) s

/-- The class mask of R255: exactly one bit. -/
def classMask (f : FFmt) (v : FV) : Nat :=
  match v with
  | .nan => 2 ^ 8
  | .inf n => if n then 2 ^ 0 else 2 ^ 7
  | .fin n m _ =>
    if m = 0 then (if n then 2 ^ 3 else 2 ^ 4)
    else if m < 2 ^ f.fbits then (if n then 2 ^ 2 else 2 ^ 5)
    else (if n then 2 ^ 1 else 2 ^ 6)

def opFclass (ty : Nat) (x : DWord) : Res :=
  let f := fmtOf ty
  ⟨BitVec.ofNat 64 (classMask f (f.val x)), []⟩

/-! ### Conversions (R257, Table 13.7) -/

/-- Signedness and width of an integer type code 0 to 7 (Table 3.4). -/
def intTy (t : Nat) : Bool × Nat := (decide (t < 4), 8 * 2 ^ (t % 4))

/-- An integer result of type `t`, extended by its type to 32 bits, or 64 bits for a pair. -/
def extInt (t : Nat) (x : Int) : DWord :=
  let (sg, n) := intTy t
  let v := intVal sg n (wrapNat n x)
  BitVec.ofNat 64 (wrapNat (if n = 64 then 64 else 32) v)

/-- `cvt` of one value from source type `src` to destination type `dst`. -/
def opCvt (dst src : Nat) (mode : RMode) (sat : Bool) (x : DWord) : Res :=
  if src < 8 then
    let (sg, n) := intTy src
    let v := intVal sg n x.toNat
    if dst < 8 then
      let (dg, dn) := intTy dst
      if inRange dg dn v then ⟨extInt dst v, []⟩
      else if sat then ⟨extInt dst (iclamp dg dn v), [.saturation]⟩
      else ⟨extInt dst v, []⟩
    else (fmtOf dst).give mode sat (FV.ofInt v) []
  else
    let v := (fmtOf src).val x
    if dst < 8 then
      let (dg, dn) := intTy dst
      let r := toIntClamp mode sat dg dn v
      ⟨extInt dst r.1, r.2⟩
    else (fmtOf dst).give mode sat v []

/-- Floating compares on registers (R252). -/
def fcmpSC (code : Nat) (g : BitVec 2) (t : BitVec 3) (q : BitVec 2) (w : BitVec 1) (a b : BitVec 6) (s : State) : Out :=
  let p := scPair q w
  execCompare g.toNat t.toNat p.1 p.2 [.v a.toNat, .v b.toNat]
    (fun xs => fltCond code (fp32.val (opnd xs 0)) (fp32.val (opnd xs 1))) s

/-! ### The meanings -/


/-- `fadd` SR (R253). -/
def execFaddSr (g : BitVec 2) (d a b : BitVec 6) (s : State) : Out :=
  fltSR opFadd g d [a, b] s

/-- `fadd` SU (R253). -/
def execFaddSu (d a b : BitVec 6) (s : State) : Out :=
  fltSU opFadd d [a, b] s

/-- `fadd` LR and LI (R253). -/
def execFaddL (o : Long) (s : State) : Out :=
  fltLong opFadd o s

/-- `fsub` SR (R253). -/
def execFsubSr (g : BitVec 2) (d a b : BitVec 6) (s : State) : Out :=
  fltSR opFsub g d [a, b] s

/-- `fsub` SU (R253). -/
def execFsubSu (d a b : BitVec 6) (s : State) : Out :=
  fltSU opFsub d [a, b] s

/-- `fsub` LR and LI (R253). -/
def execFsubL (o : Long) (s : State) : Out :=
  fltLong opFsub o s

/-- `fmul` SR (R253). -/
def execFmulSr (g : BitVec 2) (d a b : BitVec 6) (s : State) : Out :=
  fltSR opFmul g d [a, b] s

/-- `fmul` SU (R253). -/
def execFmulSu (d a b : BitVec 6) (s : State) : Out :=
  fltSU opFmul d [a, b] s

/-- `fmul` LR and LI (R253). -/
def execFmulL (o : Long) (s : State) : Out :=
  fltLong opFmul o s

/-- `fmin` SR (R253). -/
def execFminSr (g : BitVec 2) (d a b : BitVec 6) (s : State) : Out :=
  fltSR opFmin g d [a, b] s

/-- `fmin` SU (R253). -/
def execFminSu (d a b : BitVec 6) (s : State) : Out :=
  fltSU opFmin d [a, b] s

/-- `fmin` LR and LI (R253). -/
def execFminL (o : Long) (s : State) : Out :=
  fltLong opFmin o s

/-- `fmax` SR (R253). -/
def execFmaxSr (g : BitVec 2) (d a b : BitVec 6) (s : State) : Out :=
  fltSR opFmax g d [a, b] s

/-- `fmax` SU (R253). -/
def execFmaxSu (d a b : BitVec 6) (s : State) : Out :=
  fltSU opFmax d [a, b] s

/-- `fmax` LR and LI (R253). -/
def execFmaxL (o : Long) (s : State) : Out :=
  fltLong opFmax o s

/-- `ffma`: one rounding of x · y + z, z from vector c (R253). -/
def execFfmaL (o : LR) (s : State) : Out :=
  fltLR opFfma (lrAB o ++ [.v o.c.toNat]) o s

/-- `fneg` SR (R253). -/
def execFnegSr (g : BitVec 2) (d a : BitVec 6) (s : State) : Out :=
  fltSR opFneg g d [a] s

/-- `fneg` SU (R253). -/
def execFnegSu (d a : BitVec 6) (s : State) : Out :=
  fltSU opFneg d [a] s

/-- `fneg` LR (R253). -/
def execFnegL (o : LR) (s : State) : Out :=
  fltLR opFneg [srcOf o.ka false o.a.toNat] o s

/-- `fabs` SR (R253). -/
def execFabsSr (g : BitVec 2) (d a : BitVec 6) (s : State) : Out :=
  fltSR opFabs g d [a] s

/-- `fabs` SU (R253). -/
def execFabsSu (d a : BitVec 6) (s : State) : Out :=
  fltSU opFabs d [a] s

/-- `fabs` LR (R253). -/
def execFabsL (o : LR) (s : State) : Out :=
  fltLR opFabs [srcOf o.ka false o.a.toNat] o s

/-- `frcp` SR, long class (R254). -/
def execFrcpSr (g : BitVec 2) (d a : BitVec 6) (s : State) : Out :=
  sfuSR .rcp g d a s

/-- `frcp` SU, long class (R254). -/
def execFrcpSu (d a : BitVec 6) (s : State) : Out :=
  sfuSU .rcp d a s

/-- `frcp` LR, long class (R254). -/
def execFrcpL (o : LR) (s : State) : Out :=
  sfuLR .rcp o s

/-- `frsq` SR, long class (R254). -/
def execFrsqSr (g : BitVec 2) (d a : BitVec 6) (s : State) : Out :=
  sfuSR .rsq g d a s

/-- `frsq` SU, long class (R254). -/
def execFrsqSu (d a : BitVec 6) (s : State) : Out :=
  sfuSU .rsq d a s

/-- `frsq` LR, long class (R254). -/
def execFrsqL (o : LR) (s : State) : Out :=
  sfuLR .rsq o s

/-- `fsqrt` SR, long class (R254). -/
def execFsqrtSr (g : BitVec 2) (d a : BitVec 6) (s : State) : Out :=
  sfuSR .sqrt g d a s

/-- `fsqrt` SU, long class (R254). -/
def execFsqrtSu (d a : BitVec 6) (s : State) : Out :=
  sfuSU .sqrt d a s

/-- `fsqrt` LR, long class (R254). -/
def execFsqrtL (o : LR) (s : State) : Out :=
  sfuLR .sqrt o s

/-- `fexp2` SR, long class (R254). -/
def execFexp2Sr (g : BitVec 2) (d a : BitVec 6) (s : State) : Out :=
  sfuSR .exp2 g d a s

/-- `fexp2` SU, long class (R254). -/
def execFexp2Su (d a : BitVec 6) (s : State) : Out :=
  sfuSU .exp2 d a s

/-- `fexp2` LR, long class (R254). -/
def execFexp2L (o : LR) (s : State) : Out :=
  sfuLR .exp2 o s

/-- `flog2` SR, long class (R254). -/
def execFlog2Sr (g : BitVec 2) (d a : BitVec 6) (s : State) : Out :=
  sfuSR .log2 g d a s

/-- `flog2` SU, long class (R254). -/
def execFlog2Su (d a : BitVec 6) (s : State) : Out :=
  sfuSU .log2 d a s

/-- `flog2` LR, long class (R254). -/
def execFlog2L (o : LR) (s : State) : Out :=
  sfuLR .log2 o s

/-- `fsin` SR, long class (R254). -/
def execFsinSr (g : BitVec 2) (d a : BitVec 6) (s : State) : Out :=
  sfuSR .sin g d a s

/-- `fsin` SU, long class (R254). -/
def execFsinSu (d a : BitVec 6) (s : State) : Out :=
  sfuSU .sin d a s

/-- `fsin` LR, long class (R254). -/
def execFsinL (o : LR) (s : State) : Out :=
  sfuLR .sin o s

/-- `fcos` SR, long class (R254). -/
def execFcosSr (g : BitVec 2) (d a : BitVec 6) (s : State) : Out :=
  sfuSR .cos g d a s

/-- `fcos` SU, long class (R254). -/
def execFcosSu (d a : BitVec 6) (s : State) : Out :=
  sfuSU .cos d a s

/-- `fcos` LR, long class (R254). -/
def execFcosL (o : LR) (s : State) : Out :=
  sfuLR .cos o s

/-- `ftanh` SR, long class (R254). -/
def execFtanhSr (g : BitVec 2) (d a : BitVec 6) (s : State) : Out :=
  sfuSR .tanh g d a s

/-- `ftanh` SU, long class (R254). -/
def execFtanhSu (d a : BitVec 6) (s : State) : Out :=
  sfuSU .tanh d a s

/-- `ftanh` LR, long class (R254). -/
def execFtanhL (o : LR) (s : State) : Out :=
  sfuLR .tanh o s

/-- `fclass` SR (R255). -/
def execFclassSr (g : BitVec 2) (d a : BitVec 6) (s : State) : Out :=
  execReg g.toNat false (.v d.toNat) [.v a.toNat] (fun xs => opFclass 8 (opnd xs 0)) s

/-- `fclass` LR (R255). -/
def execFclassL (o : LR) (s : State) : Out :=
  execReg o.g.toNat false (dstOf o.kd false o.d.toNat) [srcOf o.ka false o.a.toNat]
    (fun xs => opFclass o.t1.toNat (opnd xs 0)) s

/-- `cvt` SR: `.f32` to `.i32`, nearest even (R257). -/
def execCvtSr (g : BitVec 2) (d a : BitVec 6) (s : State) : Out :=
  execReg g.toNat false (.v d.toNat) [.v a.toNat] (fun xs => opCvt 2 8 .rn false (opnd xs 0)) s

/-- `cvt` SU: `.f32` to `.i32`, nearest even (R257). -/
def execCvtSu (d a : BitVec 6) (s : State) : Out :=
  execSU false (.s d.toNat) [.s a.toNat] (fun xs => opCvt 2 8 .rn false (opnd xs 0)) s

/-- `cvt` LR: T1 the destination type, T2 the source type (R257). -/
def execCvtL (o : LR) (s : State) : Out :=
  let wide (t : BitVec 4) : Bool := t.toNat == 3 || t.toNat == 7
  execLanesOp (fun is => is.guarded o.g.toNat) false (dstOf o.kd (wide o.t1) o.d.toNat)
    [srcOf o.ka (wide o.t2) o.a.toNat]
    (fun s is tm l xs => opCvt o.t1.toNat o.t2.toNat (rmode s is tm l 0 o.rm.toNat) o.sat (opnd xs 0)) s

/-- `fcmp.eq` SC (R252). -/
def execFcmpEqSc (g : BitVec 2) (t : BitVec 3) (q : BitVec 2) (w : BitVec 1) (a b : BitVec 6) (s : State) : Out :=
  fcmpSC 0 g t q w a b s

/-- `fcmp.ne` SC (R252). -/
def execFcmpNeSc (g : BitVec 2) (t : BitVec 3) (q : BitVec 2) (w : BitVec 1) (a b : BitVec 6) (s : State) : Out :=
  fcmpSC 1 g t q w a b s

/-- `fcmp.lt` SC (R252). -/
def execFcmpLtSc (g : BitVec 2) (t : BitVec 3) (q : BitVec 2) (w : BitVec 1) (a b : BitVec 6) (s : State) : Out :=
  fcmpSC 2 g t q w a b s

/-- `fcmp.le` SC (R252). -/
def execFcmpLeSc (g : BitVec 2) (t : BitVec 3) (q : BitVec 2) (w : BitVec 1) (a b : BitVec 6) (s : State) : Out :=
  fcmpSC 3 g t q w a b s

/-- `fcmp` LR: the condition in T2 (R252). -/
def execFcmpL (o : LR) (s : State) : Out :=
  let f := fmtOf o.t1.toNat
  let p := lrPair o.d
  execCompare o.g.toNat o.rm.toNat p.1 p.2 (lrAB o)
    (fun xs => fltCond o.t2.toNat (f.val (opnd xs 0)) (f.val (opnd xs 1))) s

/-- The first step of `vfac`: x · y · (1/S) + ε, exact and rounded once; 0 · ∞ among the three factors is invalid, whatever the third is
(R268). -/
def opVfac (mode : RMode) (sat : Bool) (xs : List FV) : Res :=
  let fs := xs.take 3
  let p := ((fv xs 0).mul (fv xs 1)).1.mul (fv xs 2)
  let r := sumFV mode (fs.any FV.isZero && fs.any FV.isInf) [p.1, fv xs 3]
  fp32.give mode sat r.1 r.2

/-- `vfac` and, with X = 1, `vfac.rsq`: v(c) is 1/S and v(c + 1) is ε (R268). -/
def execVfacL (o : LR) (s : State) : Out :=
  execLanesOp (fun is => is.guarded o.g.toNat) true (.v o.d.toNat) (lrAB o ++ [.v o.c.toNat, .v (o.c.toNat + 1)])
    (fun s is tm l xs =>
      let m := opVfac (rmode s is tm l 0 o.rm.toNat) o.sat (xs.map fp32.val)
      if o.x then
        let r := opSfu .rsq 8 m.val
        ⟨r.val, m.ev ++ r.ev⟩
      else m) s

end Sys2Proof.Machine
end

