-- ==== Sys2Proof/Machine/Decay.lean ====
section
/-!
DEFINITION. Decay arithmetic (R128 to R136): elapsed steps, the decay factor, ageing, flushing, merging and the element
formats. Values are FP32 codes; every product and sum is rounded to nearest even.
-/

namespace Sys2Proof.Machine

/-- An FP32 code with the events met on the way to it. -/
structure DVal where
  code : Nat
  ev : List Ev := []
deriving DecidableEq, Repr

/-- rn(x · y) in FP32. -/
def f32mul (x y : Nat) : DVal :=
  let p := (fp32.decode x).mul (fp32.decode y)
  let r := fp32.round .rn false p.1
  ⟨r.code, (if p.2 then [.invalid] else []) ++ r.ev⟩

/-- rn(x + y) in FP32. -/
def f32add (x y : Nat) : DVal :=
  let p := sumFV .rn false [fp32.decode x, fp32.decode y]
  let r := fp32.round .rn false p.1
  ⟨r.code, p.2 ++ r.ev⟩

/-- The canonical NaN (R224). -/
def f32nan : Nat := 0x7FC00000

/-- The code of 1.0. -/
def f32one : Nat := 0x3F800000

/-- `beta_pow` of R135: square and multiply, every product rounded. The fuel is the width of `n`. -/
def betaPow : Nat → Nat → Nat → Nat → List Ev → DVal
  | 0, _, p, _, ev => ⟨p, ev⟩
  | k + 1, n, p, b, ev =>
    if n = 0 then ⟨p, ev⟩
    else
      let p' := if n % 2 = 1 then f32mul p b else ⟨p, []⟩
      let b' := f32mul b b
      betaPow k (n / 2) p'.code b'.code (ev ++ p'.ev ++ b'.ev)

/-- Elapsed steps of R134: (t − s) mod 2^w as a signed number. -/
def sdelta (w t s : Nat) : Int := intVal true w ((t + (2 ^ w - s % 2 ^ w)) % 2 ^ w)

/-- `age` of R135; a NaN that is not aged is delivered as the canonical one, and counted (R224, R238). -/
def age (p : DecaySnap) (v s t : Nat) : DVal :=
  let k := sdelta p.w t s
  if k ≤ 0 then (if fp32.decode v = .nan then ⟨f32nan, [.nan]⟩ else ⟨v, []⟩)
  else
    let f := betaPow 17 k.toNat f32one p.beta.toNat []
    let r := f32mul v f.code
    ⟨r.code, f.ev ++ r.ev⟩

/-- `flush` of R135: a finite non-zero value below THR becomes +0 and counts a decay flush. -/
def flush (p : DecaySnap) (x : DVal) : DVal :=
  match fp32.decode x.code with
  | .fin _ m e =>
    if m != 0 && decide ((FV.fin false m e).cmp (fp32.decode p.thr.toNat) < 0) then ⟨0, x.ev ++ [.flush]⟩ else x
  | _ => x

/-- `merge` of R136: the sum at the later stamp, and that stamp. -/
def merge (p : DecaySnap) (v1 s1 v2 s2 : Nat) : DVal × Nat :=
  if 0 ≤ sdelta p.w s1 s2 then
    let a := age p v2 s2 s1
    let r := f32add v1 a.code
    (flush p ⟨r.code, a.ev ++ r.ev⟩, s1)
  else
    let a := age p v1 s1 s2
    let r := f32add a.code v2
    (flush p ⟨r.code, a.ev ++ r.ev⟩, s2)

/-- The value and stamp of an element's raw bits (R128, R129). -/
def readElem (p : DecaySnap) (raw : Nat) : Nat × Nat :=
  if p.de64 then (raw % 2 ^ 32, raw / 2 ^ 32 % 2 ^ p.w)
  else (raw / 2 ^ 8 % 2 ^ 24 * 2 ^ 8, raw % 2 ^ 8)

/-- `write_elem` of R138: the raw bits, with the events of a DE32 narrowing. -/
def writeElem (p : DecaySnap) (v : DVal) (s : Nat) : DVal :=
  if p.de64 then ⟨v.code + (s % 2 ^ p.w) * 2 ^ 32, v.ev⟩
  else
    let r := fp24.round .rn false (fp32.decode v.code)
    ⟨r.code * 2 ^ 8 + s % 2 ^ 8, v.ev ++ r.ev⟩

/-- What a decay operation does to an element: the new raw bits (none when it writes nothing), the value returned, and
the events. `x` is the operand: FP32 data, or a raw element for `dmrg` (R138). -/
def decayOp (op : DecayOp) (p : DecaySnap) (raw x : Nat) : Option Nat × Nat × List Ev :=
  let (v, s) := readElem p raw
  let t := p.step.toNat % 2 ^ p.w
  match op with
  | .dld =>
    let r := flush p (age p v s t)
    let st := if 0 ≤ sdelta p.w t s then t else s
    (none, r.code + st * 2 ^ 32, r.ev)
  | .dst =>
    let e := writeElem p ⟨x % 2 ^ 32, []⟩ t
    (some e.code, 0, e.ev)
  | .dadd =>
    let r := merge p v s (x % 2 ^ 32) t
    let e := writeElem p r.1 r.2
    (some e.code, 0, e.ev)
  | .dema =>
    let y := f32mul p.alpha.toNat (x % 2 ^ 32)
    let r := merge p v s y.code t
    let e := writeElem p ⟨r.1.code, y.ev ++ r.1.ev⟩ r.2
    (some e.code, 0, e.ev)
  | .dmrg =>
    let (xv, xs) := readElem p x
    let r := merge p v s xv xs
    let e := writeElem p r.1 r.2
    (some e.code, 0, e.ev)

/-- The class snapshot of a decay class entry (Table 7.3, R131). A DE32 element's stamp is always 8 bits wide. -/
def DecaySnap.take (p : DecaySnap) (e : BitVec 128) : DecaySnap :=
  { p with
    beta := BitVec.ofNat 32 (bits e 63 32)
    alpha := BitVec.ofNat 32 (bits e 95 64)
    thr := BitVec.ofNat 32 (bits e 127 96)
    w := if p.de64 && bit e 1 then 16 else 8
    taken := true }

end Sys2Proof.Machine
end

