-- ==== Sys2Proof/Machine/Routes.lean ====
section
/-!
DEFINITION. Where a message goes and how it leaves the module (R164 to R172, R174, R178): the links of a module, the routes of
at most two hops, transaction ids, the limit on outstanding requests, and what is refused before it is sent.
-/

namespace Sys2Proof.Machine

/-- Row and column of a module id (R164). -/
def rowOf (m : Nat) : Nat := m / 16
def colOf (m : Nat) : Nat := m % 16

/-- Whether a module exists in the pod (R164). -/
def State.inPod (s : State) (m : Nat) : Bool := decide (rowOf m < s.podRows) && decide (colOf m < s.podCols)

/-- The module that a port links to (R165). -/
def portPeer (self p : Nat) : Nat :=
  let r := rowOf self
  let c := colOf self
  if p < 15 then 16 * r + (if p < c then p else p + 1)
  else 16 * (if p - 15 < r then p - 15 else p - 14) + c

/-- The port that links to a module of the same row or column, if it is one (R165). -/
def portTo (self m : Nat) : Option Nat :=
  if rowOf self = rowOf m && colOf self != colOf m then
    some (if colOf m < colOf self then colOf m else colOf m - 1)
  else if colOf self = colOf m && rowOf self != rowOf m then
    some (15 + if rowOf m < rowOf self then rowOf m else rowOf m - 1)
  else none

/-- A port of the module. -/
def State.port (s : State) (p : Nat) : Port := s.ports.getD p {}

/-- Whether a port carries traffic (Table 9.2). -/
def Port.up (p : Port) : Bool := p.st == 2 || p.st == 3

/-- Whether a link between two modules is in service, as this hub knows it (R174). -/
def State.linkOk (s : State) (a b : Nat) : Bool :=
  s.inPod a && s.inPod b && !s.badLinks.contains (a, b) && !s.badLinks.contains (b, a)

/-- Whether the first hop to a module can be taken. -/
def State.hopOk (s : State) (m : Nat) : Bool :=
  match portTo s.modId.toNat m with
  | some p => s.inPod m && (s.port p).up && s.linkOk s.modId.toNat m
  | none => false

/-- The turn modules that a route to `d` may take (R167): none for the direct hop. -/
def State.vias (s : State) (d : Nat) : List (Option Nat) :=
  let self := s.modId.toNat
  let (rs, cs, rd, cd) := (rowOf self, colOf self, rowOf d, colOf d)
  if rs = rd then none :: ((List.range 16).filter (fun k => k != cs && k != cd)).map (fun k => some (16 * rs + k))
  else if cs = cd then none :: ((List.range 16).filter (fun k => k != rs && k != rd)).map (fun k => some (16 * k + cs))
  else [some (16 * rs + cd), some (16 * rd + cs)]

/-- The live routes to a module (R167, R169): the first port and the turn module. -/
def State.routes (s : State) (d : Nat) : List (Nat × Option Nat) :=
  if d = s.modId.toNat then []
  else
    (s.vias d).filterMap (fun v =>
      let first := v.getD d
      let second := match v with | some m => s.linkOk m d | none => true
      if s.hopOk first && second then (portTo s.modId.toNat first).map (fun p => (p, v)) else none)

/-- Where the access of an aperture goes: a module, or 256 for the host. -/
def apDest (ap : Nat) : Nat := if ap = 0xFF then 256 else ap - 0x100

/-- The module that a packet goes to, 256 for the host; none for what takes no route. -/
def Msg.dest : Msg → Option Nat
  | .request ap _ _ | .completion _ _ ap .. | .collRecord _ _ ap .. | .engineRead _ _ ap .. | .engineWrite _ _ ap ..
  | .fetchLine _ ap _ | .writeBack _ ap .. | .hostRead _ ap .. | .hostWrite _ ap .. => some (apDest ap)
  | .tokenAcquire _ m _ | .tokenRelease _ m _ | .tokenRecall m _ => some m
  | .forward m _ _ | .lineCopy m .. | .migrate m .. => some m
  | .flow _ m .. => some m
  | .collAbort _ m _ _ => some m
  | .heartbeat m => some m
  | .grant m .. | .grantAck m _ | .recall m _ _ | .recallAck m _ | .deny m => some m
  | .routeChange m _ _ => some m
  | .response m .. => some m
  | .transit _ m .. => some m
  | .flit .. | .ptp .. | .msix .. | .readReply .. | .attestation .. | .mctp .. | .pldmWear .. => none

/-- Whether a packet is of the response class (R168). -/
def Msg.isResponse : Msg → Bool
  | .response .. => true
  | .transit _ _ r _ => r
  | _ => false

/-- Whether a packet is a request of this module, which awaits a response (R171). -/
def Msg.isRequest : Msg → Bool
  | .response .. | .transit .. => false
  | m => m.dest.isSome

/-- The port of a message that crosses one link (R166, R170). -/
def Msg.link : Msg → Option Nat
  | .flit p .. | .ptp p _ => some p
  | _ => none

/-- The context whose tag a request carries (R172); 0 is the module kernel. -/
def Msg.ctx : Msg → Nat
  | .request _ _ r => r.ctx
  | .fetchLine c .. | .engineRead _ c .. | .engineWrite _ c .. | .completion _ c .. | .collRecord _ c .. | .tokenAcquire c ..
  | .tokenRelease c .. | .writeBack c .. | .flow c .. | .collAbort c .. | .hostRead c .. | .hostWrite c .. => c
  | _ => 0

/-- The tag of a request (R172). -/
def State.tag (s : State) (m : Msg) : Nat :=
  match m with
  | .forward _ _ f => f.tag
  | m => (s.ctx m.ctx).dtag

/-- Payload bytes of a packet (R178, R420). -/
def Msg.payload : Msg → Nat
  | .request _ _ r => match r.op with | .read => 0 | .cas => 2 * r.w | .decay .dld _ => 0 | _ => r.w
  | .engineWrite _ _ _ _ n _ => n
  | .hostWrite _ _ _ bs | .writeBack _ _ _ bs => bs.length
  | .completion .. => 16
  | .collRecord .. | .lineCopy .. => 128
  | .flow _ _ _ body _ => 8 + body.length
  | .forward _ _ f => f.bytes.length
  | .response _ _ _ data => data.length
  | .transit _ _ _ body => body.length
  | _ => 0

/-- Flits that a packet takes, 200 bytes of payload each (R166). -/
def Msg.flits (m : Msg) : Nat := m.payload / 200 + 1

/-- The channel of a packet's first hop (R168): the detour channel for the first hop of a column-first route and of a detour. -/
def firstChan (self d : Nat) (via : Option Nat) (response : Bool) : Nat :=
  let detour : Bool :=
    match via with
    | none => false
    | some m => !(rowOf self != rowOf d && colOf self != colOf d && rowOf m == rowOf self)
  (if detour then 1 else 0) + (if response then 2 else 0)

/-- A port updated. -/
def State.updPort (s : State) (p : Nat) (f : Port → Port) : State := { s with ports := updAt s.ports p f }

/-- Whether a port has a credit of a channel, and room in its replay buffer for the flits of a packet (R166, R168). -/
def Port.room (p : Port) (chan flits : Nat) : Bool :=
  decide (0 < p.credits.getD chan 0) && decide ((p.seq + 2 ^ 32 - p.acked) % 2 ^ 32 + flits ≤ 4096)

/-- Whether sequence number `x` has come to `n` (R166): numbers are modulo 2^32. -/
def reached (x n : Nat) : Bool := decide ((x + 2 ^ 32 - n) % 2 ^ 32 < 2 ^ 31)

/-- A lane map (Table 9.3): the physical lanes of logical lanes 0 to 3, 7 for a dropped one. -/
def laneMap (ls : List Nat) : BitVec 12 :=
  BitVec.ofNat 12 ((List.range 4).foldl (fun v i => v + ls.getD i 7 * 8 ^ i) 0)

/-- The physical lanes of a lane map. -/
def mapLanes (m : BitVec 12) : List Nat := (List.range 4).map (fun i => m.toNat / 8 ^ i % 8)

/-- A lane map with another lane in the place of one. -/
def Shift.map (x : Shift) (m : BitVec 12) : BitVec 12 := laneMap ((mapLanes m).map (fun y => if y = x.lane then x.to_ else y))

/-- The directions of a port that have come to their flit of an agreed swap, N or N', travel on the new lane map from there on (R176). -/
def Port.turn (q : Port) : Port :=
  match q.shift with
  | some x =>
    match x.n' with
    | some m =>
      let (mine, theirs) := if x.tries = 0 then (m, x.n) else (x.n, m)
      let out := !x.sent && reached q.seq mine
      let inn := !x.taken && reached q.rseq theirs
      { q with
        lmap := if out then x.map q.lmap else q.lmap, rmap := if inn then x.map q.rmap else q.rmap
        shift := some { x with sent := x.sent || out, taken := x.taken || inn } }
    | none => q
  | none => q

/-- A port of which `n` flits more have left (R166). -/
def Port.sends (q : Port) (n : Nat) : Port := ({ q with seq := (q.seq + n) % 2 ^ 32 } : Port).turn

/-- A packet leaves: on a port it takes flit numbers, a place in the replay buffer and, of a channel, a credit, and it carries the
acknowledgement of the other direction (R166, R168). -/
def State.emit (s : State) (p : Packet) : State :=
  match p.port with
  | none => { s with outbox := s.outbox ++ [p] }
  | some i =>
    let q := s.port i
    let p := { p with seq := some q.seq, ack := q.rseq }
    let s := s.updPort i (fun q =>
      { q.sends p.msg.flits with
        buf := q.buf ++ [(q.seq, p)]
        credits := match p.chan with | some c => setAt q.credits c (q.credits.getD c 0 - 1) | none => q.credits })
    { s with outbox := s.outbox ++ [p] }

/-- Bytes counted in FAB_BYTES_TX of a context (R178). -/
def State.countTx (s : State) (ctx n : Nat) : State :=
  if ctx = 0 || n = 0 then s else s.updCtx ctx (fun c => { c with fabTx := c.fabTx + BitVec.ofNat 64 n })

/-- Bytes counted in FAB_BYTES_RX of a context (R178). -/
def State.countRx (s : State) (ctx n : Nat) : State :=
  if ctx = 0 || n = 0 then s else s.updCtx ctx (fun c => { c with fabRx := c.fabRx + BitVec.ofNat 64 n })

/-- The live routes of a packet whose first hop has room (R168, R169): the one given, where it has to take that one. A packet that turns
here takes its second hop. -/
def State.openRoutes (s : State) (d : Nat) (m : Msg) (only : Option (Nat × Option Nat) := none) : List (Nat × Option Nat) :=
  let self := s.modId.toNat
  (s.routes d).filter (fun r =>
    (match m with | .transit .. => r.2.isNone | _ => true) && (only.isNone || only == some r) &&
      (s.port r.1).room (firstChan self d r.2 m.isResponse) m.flits)

/-- One of the open routes, by a choice that the spec leaves open (R169). -/
def State.pickRoute (s : State) (d : Nat) (m : Msg) (only : Option (Nat × Option Nat) := none) : Option (Nat × Option Nat) × State :=
  match s.openRoutes d m only with
  | [] => (none, s)
  | r :: rs => (some ((r :: rs).getD (Config.freeNat s.fresh % (rs.length + 1)) r), { s with fresh := s.fresh + 1 })

/-- The packet of a message on a route (R167, R168, R172). -/
def State.packet (s : State) (d : Nat) (tid : Option Nat) (r : Option (Nat × Option Nat)) (m : Msg) : Packet :=
  { tid := tid, port := r.map (·.1), via := r.bind (·.2)
    chan := r.map (fun r => firstChan s.modId.toNat d r.2 m.isResponse), tag := s.tag m, msg := m }

/-- A request sent with a transaction id on a route (R169, R171). -/
def State.transmit (s : State) (d tid born : Nat) (m : Msg) (only : Option (Nat × Option Nat) := none) : State :=
  let (r, s) := if d = 256 then (none, s) else s.pickRoute d m only
  let s : State :=
    { s with outst := s.outst ++ [{ dst := d, tid := tid, port := r.map (·.1), via := r.bind (·.2), msg := m, born := born }] }
  s.emit (s.packet d (some tid) r m)

/-- Requests outstanding toward a destination (R171). -/
def State.outstanding (s : State) (d : Nat) : Nat := (s.outst.filter (fun o => o.dst == d && !o.doubt)).length

/-- A new transaction id (R171): 20 bits. -/
def State.newTid (s : State) : Nat × State := (s.nextTid % 2 ^ 20, { s with nextTid := s.nextTid + 1 })

/-- A request of a tenant's context without a domain tag, which is not sent (R172). -/
def State.untagged (s : State) (m : Msg) : Bool := m.ctx != 0 && (s.ctx m.ctx).dtag == 0

/-- Whether a request may leave now: a tag, a route with room, fewer than 512 outstanding, and none that is to be sent again before
it (R169, R171, R172, R174). -/
def State.mayLeave (s : State) (d : Nat) (m : Msg) (only : Option (Nat × Option Nat) := none) : Bool :=
  d == 256 ||
    (!s.untagged m && !(s.openRoutes d m only).isEmpty && decide (s.outstanding d < 512)
      && !s.outst.any (fun o => o.dst == d && o.port.isNone && !s.untagged o.msg))

/-- The record of an answer gets the route that it is sent on (R174). -/
def State.routed (s : State) (m : Msg) (r : Nat × Option Nat) : State :=
  match m with
  | .response src tid .. =>
    { s with answered := s.answered.map (fun a => if a.src == src && a.tid == tid then { a with port := some r.1, via := r.2 } else a) }
  | _ => s

/-- A message that waits at the source is sent where it may leave; what is left waits on. A response to a module without a
route stays in the record (R174). A flit of one link waits for room in the replay buffer alone; with its port it is gone. -/
def State.sendWait (s : State) (w : Wait) : State :=
  match w.msg.link with
  | some i =>
    let q := s.port i
    if !q.up then s
    else if decide ((q.seq + 2 ^ 32 - q.acked) % 2 ^ 32 < 4096) then s.emit { port := some i, msg := w.msg }
    else { s with waitQ := s.waitQ ++ [w] }
  | none =>
  if w.msg.isRequest then
    if s.mayLeave w.dst w.msg w.route then
      let s := if w.dst = 256 then s else s.countTx w.msg.ctx w.msg.payload
      let (t, s) := s.newTid
      s.transmit w.dst t w.born w.msg w.route
    else if w.route.any (fun r => !(s.routes w.dst).contains r) then s
    else { s with waitQ := s.waitQ ++ [w] }
  else
    match s.pickRoute w.dst w.msg with
    | (some r, s) => (s.routed w.msg r).emit (s.packet w.dst none (some r) w.msg)
    | (none, s) => if (s.routes w.dst).isEmpty && w.msg.isResponse then s else { s with waitQ := s.waitQ ++ [w] }

/-- A message that leaves the module. What may not leave yet waits at the source. -/
def State.send (s : State) (m : Msg) : State :=
  match m.dest with
  | none =>
    if m.link.isSome then s.sendWait { dst := s.modId.toNat, msg := m, born := s.nextInstr }
    else (s.countTx m.ctx m.payload).emit { tag := s.tag m, msg := m }
  | some d => s.sendWait { dst := d, msg := m, born := s.nextInstr }

/-- A request sent on every live route to a module, once on each. -/
def State.sendAll (s : State) (d : Nat) (m : Msg) : State :=
  (s.routes d).foldl (fun (s : State) r => s.sendWait { dst := d, msg := m, born := s.nextInstr, route := some r }) s

/-- Whether a request that satisfies a test has been sent and not answered, or waits at the source. -/
def State.awaits (s : State) (f : Msg → Bool) : Bool := s.outst.any (fun o => f o.msg) || s.waitQ.any (fun w => f w.msg)

/-- The record of a performed request of a peer (R171). -/
def State.answeredTo (s : State) (src tid : Nat) : Option Answered := s.answered.find? (fun a => a.src == src && a.tid == tid)

/-- Source and id of a request of a peer that its home may keep waiting: for a token, a lock, a promotion or a line on its way. -/
def homeAsk : Instr → Option (Nat × Nat)
  | .fabricRead src tid .. | .fabricWrite src tid .. | .fabricAtomic src tid .. | .tokenAcquire src tid .. | .tokenRelease src tid ..
  | .tokenRecall src tid .. => some (src, tid)
  | _ => none

/-- A request of a peer that has arrived is at its home until it is answered. -/
def State.keep (s : State) (i : Instr) : State :=
  if (homeAsk i).isSome && !s.inbox.any (fun j => homeAsk j == homeAsk i) then { s with inbox := s.inbox ++ [i] } else s

/-- A request of a peer answered, and the answer kept: the last 512 of a source (R171). -/
def State.answer (s : State) (src tid status : Nat) (data : List Byte) : State :=
  let mine := s.answered.filter (fun a => a.src == src)
  let old := if mine.length < 512 then s.answered
    else match mine with
      | m :: _ => s.answered.erase m
      | [] => s.answered
  let s : State := { s with
    answered := old ++ [{ src := src, tid := tid, status := status, data := data }]
    inbox := s.inbox.filter (fun i => homeAsk i != some (src, tid)) }
  s.send (.response src tid status data)

/-- Whether a request of a list of outstanding ones is that of an access. -/
def Outst.isFor (o : Outst) (r : Req) : Bool :=
  match o.msg with
  | .request _ _ a => a.instr == r.instr && a.lane == r.lane && a.core == r.core && a.tgt.pa == r.tgt.pa
  | _ => false

/-- The requests that have lost their route are sent again on a live one, with their ids (R174). A load or an atomic of the
program is then awaited again. -/
def State.resend (s : State) : State :=
  s.outst.foldl (fun (s : State) o =>
    if o.dst = 256 || o.port.isSome || s.untagged o.msg then { s with outst := s.outst ++ [o] }
    else
      match s.pickRoute o.dst o.msg with
      | (none, s) => { s with outst := s.outst ++ [o] }
      | (some r, s) =>
        let s : State := { s with outst := s.outst ++ [{ o with port := some r.1, via := r.2, doubt := false }] }
        let s := s.emit (s.packet o.dst (some o.tid) (some r) o.msg)
        { s with reqs := s.reqs.map (fun a => if o.doubt && o.isFor a then { a with state := .sent } else a) })
    { s with outst := [] }

/-- The waiting messages that may leave now, oldest first. One that may not holds up none behind it: the fabric keeps no order, and a full
channel blocks no other (R168, R169). -/
def State.drainWait (s : State) : State :=
  let s := s.resend
  s.waitQ.foldl (fun (s : State) w => s.sendWait w) { s with waitQ := [] }

/-- Why an access of a context to an aperture is refused before it is sent (R172, R174): GRANT_DENIED for a context without
a tag, PEER_UNREACHABLE where no route is left. -/
def State.peerCause (s : State) (ctx ap : Nat) : Option Nat :=
  if ap < 0x100 then none
  else if ctx != 0 && (s.ctx ctx).dtag == 0 then some 0x0B
  else if (s.routes (ap - 0x100)).isEmpty then some 0x0C
  else none

/-- A bit of INTSTAT set in a virtual function; its vector is sent when the bit goes from 0 to 1 (Table 21.1). -/
def State.raiseInt (s : State) (ctx b : Nat) : State :=
  if (s.ctx ctx).intstat.getLsbD b then s
  else (s.updCtx ctx (fun c => { c with intstat := c.intstat ||| BitVec.ofNat 32 (2 ^ b) })).send (.msix ctx b)

/-- An event raised to the module kernel. -/
def State.raise (s : State) (e : KEvent) : State := { s with kevents := s.kevents ++ [e] }

end Sys2Proof.Machine
end

