-- ==== Sys2Proof/Machine/Far.lean ====
section
/-!
DEFINITION. Accesses that units of the module make by physical address, and those that they make at a peer or at the host (R79, R82,
R84, R86, R170, R171): where an address is performed, what an access waits for, and how its answer is taken.
-/

namespace Sys2Proof.Machine

/-! ### Where an aperture-0 address is performed (R79, R82, R84) -/

/-- The compute die, the channel of that die, the home slice and the channel offset of an aperture-0 address (R84). -/
def dieOf (pa : Nat) : Nat := Nat.xor (Nat.xor (pa / 2 ^ 8 % 4) (pa / 2 ^ 18 % 4)) (pa / 2 ^ 28 % 4)
def chanOf (pa : Nat) : Nat := Nat.xor (Nat.xor (pa / 2 ^ 10 % 64) (pa / 2 ^ 20 % 64)) (pa / 2 ^ 30 % 64)
def sliceOf (pa : Nat) : Nat := chanOf pa / 4
def chanOffset (pa : Nat) : Nat := pa / 2 ^ 39 % 4 * 2 ^ 31 + pa / 2 ^ 16 % 2 ^ 23 * 256 + pa % 256

/-- Where the home of an aperture-0 address sends an access that it does not perform itself: the token holder is recalled
first (R79), an access to a line that a migration is copying waits for its lock, and one to a copied line is forwarded (R82). -/
inductive Away where
  | here
  | recall (mod region : Nat)
  | locked
  | moved (ap pa : Nat)
deriving DecidableEq, Repr

/-- The migration that covers an aperture-0 address (R82). -/
def State.migrating (s : State) (pa : Nat) : Option Migration :=
  (s.migrations.find? (fun m => decide (m.2.page ≤ pa) && decide (pa < m.2.page + m.2.size))).map (·.2)

/-- Where a migration has an access at an aperture-0 address performed (R82). -/
def State.migrated (s : State) (pa : Nat) : Away :=
  match s.migrating pa with
  | some m =>
    let line := (pa - m.page) / 128
    if m.copied.contains line then .moved (0x100 + m.dstMod) (m.dstPa + (pa - m.page))
    else if m.locked.contains line then .locked
    else .here
  | none => .here

/-- Whether an access at an aperture-0 address is performed here. -/
def State.away (s : State) (pa : Nat) : Away :=
  match look s.tokenDir (pa / 2 ^ 21) with
  | some m => .recall m (pa / 2 ^ 21)
  | none => s.migrated pa

/-- The home asks the holder of a region for its token, unless it has (R79). -/
def State.recallToken (s : State) (mod region : Nat) : State :=
  let same (m : Msg) : Bool := match m with | .tokenRecall a r => a == mod && r == region | _ => false
  if s.awaits same then s else s.send (.tokenRecall mod region)

/-- Why an engine's access does not go on. -/
inductive EStop where
  /-- An engine fault (R386): cause, stage, kind of access and address. -/
  | fault (cause stage : Nat) (kind : AKind) (va : DWord)
  /-- The access waits; the messages sent meanwhile are in the state. -/
  | wait (s : State)

/-- A byte string as a little-endian number. -/
def leNat : List Byte → Nat
  | [] => 0
  | b :: r => b.toNat + 256 * leNat r

/-- `n` bytes of a number, little-endian. -/
def leBytes (v : Nat) : Nat → List Byte
  | 0 => []
  | n + 1 => BitVec.ofNat 8 v :: leBytes (v / 256) n

/-! ### Accesses of engines to peers and to the host (R170, R171) -/

/-- The piece of work with the virtual address of one of its accesses. -/
def Who.at (w : Who) (va : DWord) : Who := { w with va := va }

/-- Two accesses of one piece of work. -/
def Who.same (a b : Who) : Bool := a.kind == b.kind && a.id == b.id && a.part == b.part

/-- The piece of work that an engine's message belongs to. -/
def Msg.who : Msg → Option Who
  | .engineRead w .. | .engineWrite w .. | .completion w .. | .collRecord w .. => some w
  | _ => none

/-- An engine's message without its piece of work, whose answer nothing takes up. -/
def Msg.orphan : Msg → Msg
  | .engineRead _ c ap pa n => .engineRead {} c ap pa n
  | .engineWrite _ c ap pa n v => .engineWrite {} c ap pa n v
  | .completion _ c ap pa x y z => .completion {} c ap pa x y z
  | .collRecord _ c ap pa d => .collRecord {} c ap pa d
  | m => m

/-- An engine's message that reads. -/
def Msg.reads : Msg → Bool
  | .engineRead .. => true
  | _ => false

/-- What pieces of work have asked for is forgotten: answers are dropped, requests on their way keep nobody, and those that wait at
the source are not sent. A write in doubt is not made again: its answer is awaited (R174). -/
def State.forgetAll (s : State) (f : Who → Bool) : State :=
  let mine (m : Msg) : Bool := match m.who with | some w => f w | none => false
  { s with
    engAns := s.engAns.filter (fun e => !f e.who)
    outst := s.outst.map (fun o => if mine o.msg && (!o.doubt || o.msg.reads) then { o with msg := o.msg.orphan } else o)
    waitQ := s.waitQ.filter (fun w => !mine w.msg) }

/-- What one piece of work has asked for is forgotten. -/
def State.forget (s : State) (w : Who) : State := s.forgetAll w.same

/-- The answer to an access of an engine, kept for the piece of work that made it; of a write that was refused, with its bytes. -/
def State.engAnswer (s : State) (m : Msg) (status : Nat) (data : List Byte) : State :=
  let add (w : Who) (write : Bool) (ap pa n : Nat) (data : List Byte := data) : State :=
    if w.kind = 0 then s
    else { s with engAns := s.engAns ++ [{ who := w, write := write, ap := ap, pa := pa, n := n, status := status, data := data }] }
  match m with
  | .engineRead w _ ap pa n => add w false ap pa n
  | .engineWrite w _ ap pa n v => add w true ap pa n (if status = 0 then [] else leBytes v n)
  | .completion w _ ap pa .. => add w true ap pa 16
  | .collRecord w _ ap pa _ => add w true ap pa 128
  | _ => s

/-- The fault that a refused access of an engine is (R75, R86, R174). -/
def refusal (status : Nat) (k : AKind) (va : DWord) : EStop :=
  .fault status (if status = 0x21 then 0 else 2) k va

/-- `n` bytes of one line read at a peer or at the host: their sectors are asked for (Table 9.1) and awaited, and the bytes taken from the
answer. -/
def State.farRead (s : State) (w : Who) (ctx ap pa n : Nat) (va : DWord) : Except EStop (Nat × State) :=
  let off := pa % 32
  let k := (off + n + 31) / 32 * 32
  let w := w.at (va - BitVec.ofNat 64 off)
  match s.engAns.find? (fun e => e.who == w && !e.write && e.ap == ap && e.pa == pa - off && e.n == k) with
  | some e => if e.status = 0 then .ok (leNat ((e.data.drop off).take n), s) else .error (refusal e.status .engRead va)
  | none =>
    let mine (m : Msg) : Bool := match m with | .engineRead x _ a p j => x == w && a == ap && p == pa - off && j == k | _ => false
    if s.outst.any (fun o => o.doubt && mine o.msg) then .error (.fault 0x0C 2 .engRead va)
    else if s.awaits mine then .error (.wait s)
    else
      match s.peerCause ctx ap with
      | some c => .error (.fault c 2 .engRead va)
      | none => .error (.wait (s.send (.engineRead w ctx ap (pa - off) k)))

/-- A message that writes at a peer or at the host sent for a piece of work; its answer is awaited with those of the piece's others. -/
def State.farWrite (s : State) (ctx ap : Nat) (va : DWord) (m : Msg) : Except EStop State :=
  match s.peerCause ctx ap with
  | some c => .error (.fault c 2 .engWrite va)
  | none => .ok (s.send m)

/-- How far the writes that a piece of work has sent to peers or to the host have come. -/
inductive Sent where
  /-- It has sent none. -/
  | nothing
  | waiting
  /-- One was refused. -/
  | refused (cause : Nat) (va : DWord)
  /-- All are acknowledged. -/
  | done
deriving DecidableEq, Repr

/-- How far a piece of work has come with its writes. -/
def State.sent (s : State) (w : Who) : Sent :=
  let mine (m : Msg) : Bool :=
    match m with
    | .engineWrite x .. | .completion x .. | .collRecord x .. => x.same w
    | _ => false
  let all := s.engAns.filter (fun e => e.write && e.who.same w)
  match s.outst.find? (fun o => o.doubt && mine o.msg) with
  | some o => .refused 0x0C ((o.msg.who.map (·.va)).getD 0)
  | none =>
    if s.awaits mine then .waiting
    else
    match all.find? (fun e => e.status != 0) with
    | some e => .refused e.status e.who.va
    | none => if all.isEmpty then .nothing else .done

/-! ### Accesses of units by physical address (R79, R82, R86) -/

/-- `n` bytes of one line of this module's memory read for a piece of work by physical address: the token of the region is recalled
first, and a line that a migration has copied is read at its new home. An uncorrectable sector is refused where `strict`. -/
def State.physRead (s : State) (w : Who) (ctx pa n : Nat) (strict : Bool := true) : Except EStop (Nat × State) :=
  match s.away pa with
  | .recall m r => .error (.wait (s.recallToken m r))
  | .locked => .error (.wait s)
  | .moved ap a => s.farRead w ctx ap a n (BitVec.ofNat 64 pa)
  | .here => if strict && s.poisoned pa n then .error (.fault 0x21 0 .engRead (BitVec.ofNat 64 pa)) else .ok (s.rd pa n, s)

/-- Ranges of lines, as address and length, read one after the other. -/
def State.physReads (s : State) (w : Who) (ctx : Nat) (strict : Bool) : List (Nat × Nat) → Except EStop (List Nat × State)
  | [] => .ok ([], s)
  | x :: r =>
    match s.physRead w ctx x.1 x.2 strict with
    | .error e => .error e
    | .ok (v, s) => (State.physReads s w ctx strict r).map (fun y => (v :: y.1, y.2))

/-- What keeps lines of this module's memory from being written by physical address, if something does. -/
def State.physHold (s : State) (ctx : Nat) (pas : List Nat) : Option EStop :=
  pas.findSome? (fun pa =>
    match s.away pa with
    | .recall m r => some (.wait (s.recallToken m r))
    | .locked => some (.wait s)
    | .moved ap _ => (s.peerCause ctx ap).map (fun c => .fault c 2 .engWrite (BitVec.ofNat 64 pa))
    | .here => none)

/-- `n` bytes of one line that nothing holds written by physical address, at its new home where a migration has copied it. -/
def State.physWrite (s : State) (w : Who) (ctx pa n v : Nat) : State :=
  match s.away pa with
  | .moved ap a => s.send (.engineWrite (w.at (BitVec.ofNat 64 pa)) ctx ap a n v)
  | _ => s.wr pa n v

/-- The pieces of a range, as address and length, that lie in one 128-byte line each. -/
def linePieces : Nat → Nat → Nat → List (Nat × Nat)
  | 0, _, _ => []
  | k + 1, pa, n =>
    if n = 0 then []
    else
      let m := min n (128 - pa % 128)
      (pa, m) :: linePieces k (pa + m) (n - m)

end Sys2Proof.Machine
end

