-- ==== Sys2Proof/Machine/Translate.lean ====
section
/-!
DEFINITION. Address translation (04_addresses_and_translation.md): the five-level walk, the range table, the permission
checks of Table 4.4, the causes of Table 4.6, the TLBs, the setting of A and D, and the interleave of main memory (R84).
-/

namespace Sys2Proof.Machine

/-- A translation failure: the cause of Table 4.6, the stage, and whether its kind is WALK. -/
structure TFault where
  cause : Nat
  stage : Nat
  walk : Bool := false
deriving DecidableEq, Repr

/-- The KIND code of Table 20.2. -/
def AKind.code : AKind → Nat
  | .load => 1 | .store => 2 | .atomic => 3 | .reduction => 4 | .decay => 5 | .fetch => 6
  | .engRead => 8 | .engWrite => 9

/-- Kinds that write (R66). -/
def AKind.writes : AKind → Bool
  | .store | .atomic | .reduction | .decay | .engWrite => true
  | _ => false

/-- Kinds that need RAP at a peer (Table 4.4). -/
def AKind.isAtomic : AKind → Bool
  | .atomic | .reduction | .decay => true
  | _ => false

/-- Whether a virtual address is canonical (R60). -/
def canonical (va : DWord) : Bool :=
  let top := bits va 63 56
  top == 0 || top == 255

/-! ### Range-table entries (Table 4.5) -/

def rV (e : BitVec 128) : Bool := bit e 0
def rRd (e : BitVec 128) : Bool := bit e 1
def rWr (e : BitVec 128) : Bool := bit e 2
def rEx (e : BitVec 128) : Bool := bit e 3
def rRape (e : BitVec 128) : Bool := bit e 4
def rNc (e : BitVec 128) : Bool := bit e 5
def rCe (e : BitVec 128) : Bool := bit e 6
def rDcye (e : BitVec 128) : Bool := bit e 7
def rKve (e : BitVec 128) : Bool := bit e 8
def rAp (e : BitVec 128) : Nat := bits e 17 9
def rGbase (e : BitVec 128) : Nat := bits e 50 21 * 2 ^ 21
def rLen (e : BitVec 128) : Nat := bits e 84 64 * 2 ^ 21
def rHbase (e : BitVec 128) : Nat := bits e 114 85 * 2 ^ 21
def rTap (e : BitVec 128) : Nat := bits e 123 115

/-- Whether guest-physical address `g` in aperture `a` hits the entry (R69). -/
def rHit (e : BitVec 128) (a g : Nat) : Bool :=
  rV e && rAp e == a && decide (rGbase e ≤ g) && decide (g < rGbase e + rLen e)

/-- The entry that a guest-physical address hits, with its index (R69). -/
def rangeHit (rs : List (Nat × BitVec 128)) (a g : Nat) : Option (Nat × BitVec 128) :=
  rs.find? (fun e => rHit e.2 a g)

/-- Target address of a hit (R69). -/
def rTarget (e : BitVec 128) (g : Nat) : Nat := rHbase e + (g - rGbase e)

/-! ### Page-table entries (Tables 4.2 and 4.3) -/

def pV (e : DWord) : Bool := bit e 0
def pR (e : DWord) : Bool := bit e 1
def pW (e : DWord) : Bool := bit e 2
def pX (e : DWord) : Bool := bit e 3
def pU (e : DWord) : Bool := bit e 4
def pA (e : DWord) : Bool := bit e 5
def pD (e : DWord) : Bool := bit e 6
def pLeaf (e : DWord) : Bool := bit e 7
def pC (e : DWord) : Bool := bit e 8
def pRap (e : DWord) : Bool := bit e 9
def pKv (e : DWord) : Bool := bit e 10
def pNc (e : DWord) : Bool := bit e 11
def pFrame (e : DWord) : Nat := bits e 50 12 * 2 ^ 12
def pDcy (e : DWord) : Nat := bits e 54 51
def pAp (e : DWord) : Nat := bits e 63 55

/-- Whether an entry met at a level is malformed (R64). -/
def pMalformed (modId level : Nat) (e : DWord) : Bool :=
  if pLeaf e then
    decide (3 ≤ level)
      || (level == 1 && bits e 20 12 != 0) || (level == 2 && bits e 29 12 != 0)
      || !(pAp e == 0 || pAp e == 0xFF || decide (0x100 ≤ pAp e))
      || pAp e == 0x100 + modId
      || (pKv e && (level != 1 || pDcy e != 0))
      || (pC e && (pNc e || pAp e == 0))
  else level == 0 || bits e 63 51 != 0 || bits e 11 8 != 0 || bits e 6 1 != 0

/-! ### The walk -/

/-- Why a translation gives no target: a failure, or it waits, with the messages sent meanwhile in the state. -/
inductive TStop where
  | fault (f : TFault)
  | wait (s : State)

/-- The host-physical address of a table address met in a walk or written by an A or D update, whether the second stage lets it
be written, and the range entry that gave it (R61, R66). For context 0 guest-physical addresses are host-physical. A table address
that no entry covers takes RANGE_MISS, not as a WALK: R69 names that cause, and Table 4.6 lists under RANGE_PERM a table address that
does not resolve to aperture 0 (DESIGN CHOICE, log entry 11). -/
def tableAddr (s : State) (ctx g : Nat) : Except TStop (Nat × Bool × Option Nat) :=
  if ctx = 0 then .ok (g, true, none)
  else
    match rangeHit ((look s.ctxs ctx).getD {}).ranges 0 g with
    | none => .error (.fault ⟨0x06, 2, false⟩)
    | some (i, e) =>
      if rTap e != 0 || !rRd e then .error (.fault ⟨0x07, 2, true⟩) else .ok (rTarget e g, rWr e, some i)

/-- A table entry read at its home: the token of its region is recalled first (R79). A line that a migration has copied has its home
at a peer, so it does not resolve to this module's aperture 0 (R61, R82: DEDUCED, log entry 12). An uncorrectable entry is WALK_ERROR,
reported with stage 1 and kind WALK, where Table 4.6 has either stage (DESIGN CHOICE, log entry 13). -/
def State.tableRead (s : State) (pa : Nat) : Except TStop DWord :=
  match s.away pa with
  | .recall m r => .error (.wait (s.recallToken m r))
  | .locked => .error (.wait s)
  | .moved _ _ => .error (.fault ⟨0x07, 2, true⟩)
  | .here => if s.poisoned pa 8 then .error (.fault ⟨0x02, 1, true⟩) else .ok (BitVec.ofNat 64 (s.rd pa 8))

/-- A leaf found by a walk: its level, its bits and its guest-physical address. -/
structure Leaf where
  level : Nat
  entry : DWord
  g : Nat
deriving DecidableEq, Repr

/-- The bits of a virtual address above those that a table of a level indexes. -/
def vaPrefix (va : DWord) (level : Nat) : Nat := va.toNat % 2 ^ 57 / 2 ^ (12 + 9 * level)

/-- The walk from a table at guest-physical address `g`, levels `level` down to 0 (R61 to R64), with the pointers it met. -/
def walk (s : State) (ctx : Nat) (va : DWord) : Nat → Nat → List WalkPtr → Except TStop (Leaf × List WalkPtr)
  | level, g, ptrs =>
    let at_ := g + 8 * (bits va (20 + 9 * level) (12 + 9 * level))
    match tableAddr s ctx at_ with
    | .error f => .error f
    | .ok (pa, _, i) =>
      match s.tableRead pa with
      | .error f => .error f
      | .ok e =>
        if !pV e then .error (.fault ⟨0x04, 1, false⟩)
        else if pMalformed s.modId.toNat level e then .error (.fault ⟨0x03, 1, false⟩)
        else if pLeaf e then .ok (⟨level, e, at_⟩, ptrs)
        else
          match level with
          | 0 => .error (.fault ⟨0x03, 1, false⟩)
          | n + 1 => walk s ctx va n (pFrame e) (ptrs ++ [⟨ctx, n + 1, vaPrefix va (n + 1), pFrame e, i⟩])

/-- The context's table root (R61). -/
def State.root (s : State) (ctx : Nat) : Nat := ((look s.ctxs ctx).getD {}).root

/-- The pointer of the walk cache that leads furthest, of levels 2 to 4. -/
def State.walkHit (s : State) (core ctx : Nat) (va : DWord) : Option WalkPtr :=
  [2, 3, 4].findSome? (fun l => (s.core core).walks.find? (fun p => p.ctx == ctx && p.level == l && p.pfx == vaPrefix va l))

/-- The walk for an address, from the root or from what the walk cache holds (R61, Table 4.7). -/
def State.walkFor (s : State) (core ctx : Nat) (va : DWord) : Except TStop (Leaf × List WalkPtr) :=
  match s.walkHit core ctx va with
  | some p => walk s ctx va (p.level - 1) p.next []
  | none => walk s ctx va 4 (s.root ctx) []

/-! ### Checks -/

/-- Bits of the page offset of a leaf at a level. -/
def leafBits (level : Nat) : Nat := 12 + 9 * level

/-- First-stage checks of Table 4.4 for an access kind, with the decay conditions of R131. -/
def stage1 (s : State) (ctx : Nat) (k : AKind) (e : DWord) : Bool :=
  let peer := decide (0x100 ≤ pAp e)
  (ctx == 0 || pU e) &&
  (match k with
   | .load | .engRead => pR e
   | .store | .engWrite => pW e
   | .atomic | .reduction | .decay => pR e && pW e && (!peer || pRap e) && pAp e != 0xFF
   | .fetch => pX e && pAp e == 0) &&
  (k != .decay ||
    (pDcy e != 0 && bit (Sparse.get (0 : BitVec 128) ((look s.ctxs ctx).getD {}).classes (pDcy e)) 0))

/-- Second-stage checks of Table 4.5 against the entry that was hit (R69). -/
def stage2 (k : AKind) (e : DWord) (r : BitVec 128) : Bool :=
  (match k with
   | .load | .engRead => rRd r
   | .store | .engWrite => rWr r
   | .atomic | .reduction | .decay => rRd r && rWr r && (decide (rTap r < 0x100) || rRape r)
   | .fetch => rEx r) &&
  (!pKv e || rKve r) && (pDcy e == 0 || rDcye r)

/-- The page of a TLB entry that a leaf gives at `va`: the largest of 1 GiB, 2 MiB and 4 KiB that lies within the leaf
and within one range entry (R73). In context 0 the second stage does not apply, and a leaf's AP is the target aperture as it stands:
R61 speaks of aperture 0 alone (DESIGN CHOICE, log entry 14). -/
def tlbFill (s : State) (ctx : Nat) (va : DWord) (lf : Leaf) : Except TStop TlbEntry :=
  let b := leafBits lf.level
  let va57 := va.toNat % 2 ^ 57
  let off := va57 % 2 ^ b
  let g := pFrame lf.entry + off
  if ctx = 0 then
    .ok { ctx := ctx, va := va57 - off, bits := b, leaf := lf.entry, leafG := lf.g, range := none, ap := pAp lf.entry,
          pa := pFrame lf.entry }
  else
    match rangeHit ((look s.ctxs ctx).getD {}).ranges (pAp lf.entry) g with
    | none => .error (.fault ⟨0x06, 2, false⟩)
    | some (i, r) =>
      let whole := decide (rGbase r ≤ pFrame lf.entry) && decide (pFrame lf.entry + 2 ^ b ≤ rGbase r + rLen r)
      let b := if whole then b else min b 21
      let o := va57 % 2 ^ b
      .ok { ctx := ctx, va := va57 - o, bits := b, leaf := lf.entry, leafG := lf.g, range := some (i, r), ap := rTap r,
            pa := rTarget r (g - o) }

/-- The checks on an entry, in the order of R67: the first stage, then the second. An atomic on host memory is PERMISSION (R65). -/
def entryFault (s : State) (ctx : Nat) (k : AKind) (e : TlbEntry) : Option TFault :=
  if !stage1 s ctx k e.leaf || (k.isAtomic && e.ap == 0xFF) then some ⟨0x05, 1, false⟩
  else
    match e.range with
    | some (_, r) => if stage2 k e.leaf r then none else some ⟨0x07, 2, false⟩
    | none => none

/-! ### The TLBs (R72, R73, Table 4.7) -/

/-- Whether a TLB entry covers an address of a context. -/
def TlbEntry.covers (e : TlbEntry) (ctx : Nat) (va : DWord) : Bool :=
  e.ctx == ctx && decide (va.toNat % 2 ^ 57 / 2 ^ e.bits = e.va / 2 ^ e.bits)

/-- The TLB entry of a context that covers an address. -/
def tlbHit (tlb : List TlbEntry) (ctx : Nat) (va : DWord) : Option TlbEntry := tlb.find? (fun e => e.covers ctx va)

/-- The position of the entry that makes room for one more in a store of `ways` ways, if its set is full; the choice is free. -/
def victim {α : Type} (ways store : Nat) (sets : Nat) (key : α → Nat) (k free : Nat) (l : List α) : Option Nat :=
  if l.length < ways then none
  else
    let set := Config.cacheSet store k % sets
    let mine := (List.range l.length).filter (fun i =>
      match l[i]? with | some x => Config.cacheSet store (key x) % sets == set | none => false)
    if mine.length < ways then none else mine[free % mine.length]?

/-- An entry brought into a core TLB of 2,048 entries, 8 ways (Table 4.7). -/
def State.tlbPut (s : State) (core : Nat) (e : TlbEntry) : State :=
  match victim 8 2 256 (fun x : TlbEntry => x.va) e.va (Config.freeNat s.fresh) (s.core core).tlb with
  | none => s.updCore core (fun c => { c with tlb := c.tlb ++ [e] })
  | some i => { (s.updCore core (fun c => { c with tlb := c.tlb.eraseIdx i ++ [e] })) with fresh := s.fresh + 1 }

/-- An entry brought into the micro-TLB of a partition: 32 entries, fully associative. -/
def State.utlbPut (s : State) (core part : Nat) (e : TlbEntry) : State :=
  let u := (s.core core).utlb
  let mine := (List.range u.length).filter (fun i => (u[i]?.map (·.1)) == some part)
  if mine.length < 32 then s.updCore core (fun c => { c with utlb := c.utlb ++ [(part, e)] })
  else
    let i := mine.getD (Config.freeNat s.fresh % 32) 0
    { (s.updCore core (fun c => { c with utlb := c.utlb.eraseIdx i ++ [(part, e)] })) with fresh := s.fresh + 1 }

/-- The pointers that a walk met, brought into the walk cache: 64 entries, of levels 2 to 4. -/
def State.walksPut (s : State) (core : Nat) (ps : List WalkPtr) : State :=
  ps.foldl (fun (s : State) p =>
    if p.level < 2 || (s.core core).walks.contains p then s
    else if (s.core core).walks.length < 64 then s.updCore core (fun c => { c with walks := c.walks ++ [p] })
    else
      { (s.updCore core (fun c => { c with walks := c.walks.eraseIdx (Config.freeNat s.fresh % 64) ++ [p] })) with
        fresh := s.fresh + 1 }) s

/-- An entry brought in at the units that an access of a core goes through: the micro-TLB of its partition, if it has one. -/
def State.microPut (s : State) (core : Nat) (part : Option Nat) (e : TlbEntry) : State :=
  match part with | some p => s.utlbPut core p e | none => s

/-- An A or D update (R66): the entry's address resolved by the range table as it stands, the entry read again at its home, and the
bit set there by an atomic OR. -/
def State.orLeaf (s : State) (ctx g b : Nat) : Except TStop State :=
  match tableAddr s ctx g with
  | .error f => .error f
  | .ok (pa, wr, _) =>
    if !wr then .error (.fault ⟨0x07, 2, true⟩)
    else
      match s.tableRead pa with
      | .error f => .error f
      | .ok e => .ok (s.wr pa 8 (e ||| BitVec.ofNat 64 b).toNat)

/-- The TLB entry for an access of a kind, its checks made: a hit in the micro-TLB or the core TLB, or a walk whose leaf passes the
checks, which sets A and fills the TLBs (R66, R67, R73). An access that fails a check fills nothing and sets no A: the spec does not say
(DESIGN CHOICE, log entry 15). -/
def State.lookup (s : State) (core : Nat) (part : Option Nat) (ctx : Nat) (k : AKind) (va : DWord) : Except TStop (TlbEntry × State) :=
  let checked (e : TlbEntry) (s : State) : Except TStop (TlbEntry × State) :=
    match entryFault s ctx k e with | some f => .error (.fault f) | none => .ok (e, s)
  match part.bind (fun p => tlbHit (((s.core core).utlb.filter (·.1 == p)).map (·.2)) ctx va) with
  | some e => checked e s
  | none =>
    match tlbHit (s.core core).tlb ctx va with
    | some e => checked e (s.microPut core part e)
    | none =>
      match s.walkFor core ctx va with
      | .error f => .error f
      | .ok (lf, ptrs) =>
        if !stage1 s ctx k lf.entry then .error (.fault ⟨0x05, 1, false⟩)
        else
          match tlbFill s ctx va lf with
          | .error f => .error f
          | .ok e =>
            match entryFault s ctx k e with
            | some f => .error (.fault f)
            | none =>
              match (if pA lf.entry then .ok s else s.orLeaf ctx lf.g 0x20) with
              | .error f => .error f
              | .ok s =>
                let e := { e with leaf := e.leaf ||| 0x20#64 }
                .ok (e, ((s.walksPut core ptrs).tlbPut core e).microPut core part e)

/-- D set on the first write through an entry (R66). -/
def State.setDirty (s : State) (core : Nat) (e : TlbEntry) : Except TStop State :=
  if pD e.leaf then .ok s
  else
    match s.orLeaf e.ctx e.leafG 0x40 with
    | .error f => .error f
    | .ok s =>
      let d (x : TlbEntry) : TlbEntry := if x = e then { e with leaf := e.leaf ||| 0x40#64 } else x
      .ok (s.updCore core (fun c => { c with tlb := c.tlb.map d, utlb := c.utlb.map (fun x => (x.1, d x.2)) }))

/-! ### The KV block table (R80) -/

/-- The die whose block table unit serves a block-map entry (R80): the one that holds the first byte of its 512-byte map page, which
the interleave of R84 may spread over two dies (DESIGN CHOICE, log entry 106). -/
def kvDie (ea : Nat) : Nat := dieOf (ea / 512 * 512)

/-- The unit of a block-map entry. -/
def State.kvUnit (s : State) (ea : Nat) : KvUnit := (look s.kv (kvDie ea)).getD {}

/-- A word of the block table read at its home, at its new one where a migration has copied its line (R80, R82); an uncorrectable one is
WALK_ERROR (DESIGN CHOICE, log entry 16). -/
def State.kvWord (s : State) (ctx ea pa n : Nat) : Except TStop (Nat × State) :=
  let w : Who := { kind := 10, id := ea, part := 1 }
  match s.physRead w ctx pa n with
  | .error (.wait s) => .error (.wait s)
  | .error (.fault c stage _ _) => .error (.fault (if c = 0x21 then ⟨0x02, 1, false⟩ else ⟨c, stage, false⟩))
  | .ok (v, s) => .ok (v, s.forget w)

/-- The block that a block-map entry names for an address (R80). Bit 31 is tested before the reserved bits, as in the rule's text, and the
map is read in this module's memory whatever the leaf's target aperture (DESIGN CHOICE, log entries 16 and 17). -/
def State.kvBlock (s : State) (ctx ea : Nat) (va : DWord) : Except TStop (Nat × State) :=
  match s.kvWord ctx ea ea 4 with
  | .error e => .error e
  | .ok (ent, s) =>
    if ent / 2 ^ 31 % 2 = 0 then .error (.fault ⟨0x08, 1, false⟩)
    else if ent / 2 ^ 25 % 2 ^ 6 != 0 then .error (.fault ⟨0x03, 1, false⟩)
    else .ok ((s.kvUnit ea).base + ent % 2 ^ 25 * 16384 + bits va 13 0, s)

/-- The reference count of the block at an address (R80). -/
def State.kvCount (s : State) (ctx ea pa : Nat) : Except TStop (Nat × State) :=
  let u := s.kvUnit ea
  s.kvWord ctx ea (u.counts + 2 * ((pa - u.base) / 16384)) 2

/-! ### Translation -/

/-- Translation of one address for an access of a kind (R67, R71): the target, or the first failure in the order of
Table 4.6. `dirty`: the write is made now, and not queued in the side log (R66). -/
def State.translate (s : State) (core : Nat) (part : Option Nat) (ctx : Nat) (k : AKind) (va : DWord) (dirty : Bool := true) :
    Except TStop (Target × State) :=
  if !canonical va then .error (.fault ⟨0x01, 1, false⟩)
  else
    match s.lookup core part ctx k va with
    | .error f => .error f
    | .ok (e, s) =>
      match (if k.writes && dirty then s.setDirty core e else .ok s) with
      | .error f => .error f
      | .ok s =>
        let off := va.toNat % 2 ^ e.bits
        let host := pAp e.leaf == 0xFF
        let nc := pNc e.leaf || host || e.ap == 0xFF || (match e.range with | some (_, r) => rNc r | none => false)
        let c := pC e.leaf && !host && decide (0x100 ≤ e.ap) && !nc && (match e.range with | some (_, r) => rCe r | none => true)
        let t : Target := { ap := e.ap, pa := e.pa + off, nc := nc, c := c, dcy := pDcy e.leaf }
        if pKv e.leaf then
          let ea := e.pa + (off - off % 2 ^ 21) + 4 * bits va 20 14
          match s.kvBlock ctx ea va with
          | .error f => .error f
          | .ok (pa, s) =>
            if !k.writes || !(s.kvUnit ea).free.isEmpty then .ok ({ t with pa := pa, kv := some ea }, s)
            else
              match s.kvCount ctx ea pa with
              | .error f => .error f
              | .ok (n, s) => if 1 < n then .error (.fault ⟨0x09, 2, false⟩) else .ok ({ t with pa := pa, kv := some ea }, s)
        else if c && (look s.heldTokens ((e.ap - 0x100) * 2 ^ 30 + (e.pa + off) / 2 ^ 21)).isNone then
          .error (.fault ⟨0x0A, 2, false⟩)
        else .ok (t, s)

end Sys2Proof.Machine
end

