-- ==== Sys2Proof/Machine/Access.lean ====
section
/-!
DEFINITION. Accesses in flight (R88, R111 to R118, R121 to R127, R355 to R359): how a request enters the core's buffer or is
served from L1, when it may be performed at its home, what is performed there, how its result arrives, and the side log.
-/

namespace Sys2Proof.Machine

/-! ### Requests -/

/-- Whether a request lies in the core's outstanding-store buffer until it is acknowledged (R355). -/
def Req.isStore (r : Req) : Bool :=
  match r.op with
  | .read | .cas => false
  | .write | .bfp | .record => true
  | .atom _ _ _ ret => !ret
  | .decay op _ => op != .dld

/-- A buffer entry whose value is known only at its home forwards nothing (R355). -/
def Req.opaqueStore (r : Req) : Bool := r.isStore && r.op != .write

/-- Whether a request reads only. -/
def Req.readOnly (r : Req) : Bool :=
  match r.op with
  | .read => true
  | .decay op _ => op == .dld
  | _ => false

/-- The byte ranges, as (address, length), that a request touches at its target. -/
def Req.ranges (r : Req) : List (Nat × Nat) :=
  if r.op = .read then r.dsts.map (fun d => (r.tgt.pa + d.off, d.w))
  else if r.op = .bfp then [(r.tgt.pa / 128 * 128, 128)]
  else [(r.tgt.pa, r.w)]

/-- Whether two targets lie in one place: one aperture, and not behind two block-map entries, which share a block only until one
of them is written (R81). -/
def Target.meets (a b : Target) : Bool := a.ap == b.ap && (a.kv.isNone || b.kv.isNone || a.kv == b.kv)

/-- Whether a target names memory that does not exist (R85). -/
def Target.nowhere (t : Target) : Bool := t.ap == 0 && decide (Config.memBytes ≤ t.pa)

/-- Whether two requests touch one location. -/
def Req.overlaps (a b : Req) : Bool :=
  a.tgt.meets b.tgt &&
    a.ranges.any (fun x => b.ranges.any (fun y => decide (x.1 < y.1 + y.2) && decide (y.1 < x.1 + x.2)))

/-- Whether a request has been performed. -/
def Req.performed (r : Req) : Bool := match r.state with | .done _ => true | _ => false

/-- Two requests in one thread's program order, or of one instruction (R354). -/
def Req.sameLane (a b : Req) : Bool :=
  a.team == b.team && a.grp == b.grp && (a.lanes &&& b.lanes != 0 || a.instr == b.instr)

/-- Whether an earlier request of the same core and context keeps a later one from being performed (R114, R356): they
touch one location and are not two reads of different lanes, or the later load touches a store whose value is known only
at its home (R355). -/
def Req.blocks (a b : Req) : Bool :=
  a.core == b.core && a.ctx == b.ctx && a.overlaps b &&
    ((!a.performed && !(a.readOnly && b.readOnly && !a.sameLane b)) || (a.opaqueStore && b.op == .read))

/-- The key of an L1 sector. -/
def sectorKey (ap pa : Nat) : Nat := ap * 2 ^ 46 + pa / 32

/-- A peer address as one key of the lines cached under token (R78, R87). -/
def peerKey (ap pa : Nat) : Nat := (ap - 0x100) * 2 ^ 51 + pa

/-- Whether a target may be held in L1 (R85, R87, Table 6.4). -/
def Target.cacheable (t : Target) : Bool := !t.nc && !t.nowhere && (t.ap == 0 || t.c)

/-! ### L1 -/

/-- The 128-byte lines that a core's L1 holds sectors of, by sector key / 4. -/
def Core.lines (c : Core) : List Nat := (c.l1.map (·.1 / 4)).eraseDups

/-- Ways of L1 that hold data: 16 less those of the register overflow area, 512 blocks each (R91, R92). -/
def Core.dataWays (c : Core) : Nat := 16 - (c.spilled.length + 511) / 512

/-- A sector brought into a core's L1 of 128 sets: a line of a full set makes room, by a free choice (R91). -/
def State.fillL1 (s : State) (core key : Nat) (v : BitVec 256) : State :=
  let c := s.core core
  let add (c : Core) : Core := { c with l1 := put c.l1 key v }
  if c.lines.contains (key / 4) then s.updCore core add
  else
    match victim c.dataWays 0 128 id (key / 4) (Config.freeNat s.fresh) c.lines with
    | none => s.updCore core add
    | some i =>
      let out := c.lines.getD i 0
      { (s.updCore core (fun c => add { c with l1 := c.l1.filter (fun x => x.1 / 4 != out) })) with fresh := s.fresh + 1 }

/-- The sectors of a core's L1 that a test keeps. -/
def Core.keepL1 (c : Core) (f : Nat → Bool) : Core := { c with l1 := c.l1.filter (fun x => f x.1) }

/-- Loads performed but not arrived do not fill L1 with bytes of these sectors. -/
def State.noFill (s : State) (core : Nat) (f : Nat → Bool) : State :=
  { s with
    reqs := s.reqs.map (fun r =>
      if r.core == core && r.performed && r.op == .read && f (sectorKey r.tgt.ap r.tgt.pa) then { r with noFill := true }
      else r) }

/-- The sectors of the 128-byte line of a target. -/
def Target.inLine (t : Target) (k : Nat) : Bool :=
  decide (sectorKey t.ap (t.pa / 128 * 128) ≤ k) && decide (k < sectorKey t.ap (t.pa / 128 * 128) + 4)

/-- Every valid data line of a core's L1 invalidated (R357). -/
def State.flushL1 (s : State) (core : Nat) : State :=
  (s.updCore core (fun c => { c with l1 := [] })).noFill core (fun _ => true)

/-- Whether a team lies on a tandem. -/
def State.isTandem (s : State) (team : Nat) : Bool := ((s.team? team).map (·.tandem)).getD false

/-- The core instance of a team's core (R353): for a tandem team, both cores. -/
def State.instOf (s : State) (team core : Nat) : List Nat :=
  if s.isTandem team then [core / 2 * 2, core / 2 * 2 + 1] else [core]

/-- What an acquire at device scope or wider does to L1 (R357): of a tandem team to that of both cores, since what the acquire orders is
ordered, through either core, before what follows it at core scope (R358). -/
def State.flushFor (s : State) (team core : Nat) : State := (s.instOf team core).foldl State.flushL1 s

/-- The 128-byte line of a target invalidated in a core's L1 (R91). -/
def State.dropLine (s : State) (core : Nat) (t : Target) : State :=
  (s.updCore core (fun c => c.keepL1 (fun k => !t.inLine k))).noFill core t.inLine

/-- A read of a sector is performed at its home: what the core's L1 holds of it, and what loads performed before bring of it, may be
older and is no longer for L1 (R356). -/
def State.freshRead (s : State) (core : Nat) (t : Target) : State :=
  let k := sectorKey t.ap t.pa
  (s.updCore core (fun c => c.keepL1 (fun x => x != k))).noFill core (fun x => x == k)

/-- A store's bytes written into the sector of its core's L1, if present (R91). -/
def State.storeL1 (s : State) (core : Nat) (t : Target) (w data : Nat) : State :=
  let k := sectorKey t.ap t.pa
  s.updCore core (fun c =>
    match look c.l1 k with
    | none => c
    | some b =>
      { c with
        l1 := put c.l1 k
          (BitVec.ofNat 256 (overlayBytes b.toNat ((List.range w).map (fun i => (t.pa % 32 + i, byteOf data i))))) })

/-! ### Entering the memory system -/

/-- The bytes that the core's buffer supplies to one lane's load of `n` bytes at `a` in its context: those of the youngest write that
touches them, where that is a plain store (R355) that covers them all. A load of which a store supplies a part only, or several stores a
part each, is performed after those stores at its home, so that it sees no other core's access in half (R361; DEDUCED, log entry 90).
Memory that does not exist reads as zero whatever was stored (R85). -/
def State.forward (s : State) (core ctx : Nat) (t : Target) (a n : Nat) : List (Nat × Byte) :=
  if t.nowhere then []
  else
    let touches (r : Req) : Bool :=
      r.core == core && r.ctx == ctx && r.tgt.meets t && !r.readOnly
        && r.ranges.any (fun g => decide (g.1 < a + n) && decide (a < g.1 + g.2))
    match (s.reqs.filter touches).getLast? with
    | some r =>
      if r.op == .write && decide (r.tgt.pa ≤ a) && decide (a + n ≤ r.tgt.pa + r.w) then
        (List.range n).map (fun i => (a % 32 + i, byteOf r.data (a - r.tgt.pa + i)))
      else []
    | none => []

/-- Whether an earlier write of the same core and context, still unacknowledged, touches a location of the request at
position `i`: the later one is acknowledged, or answered, after it, so that no load takes the older bytes from the buffer
once the later write has left it (R356). -/
def State.ackBehind (s : State) (i : Nat) (r : Req) : Bool :=
  !r.readOnly && (s.reqs.take i).any (fun a => a.isStore && a.core == r.core && a.ctx == r.ctx && a.overlaps r)

/-- What an arriving sector puts into L1 (R355, R356): the bytes read, with those of the plain stores of the core that are
still in its buffer; nothing while an operation of the core on the line, whose value only its home knows, is outstanding. -/
def State.fillOf (s : State) (core : Nat) (t : Target) (v : Nat) : Option Nat :=
  let mine := s.reqs.filter (fun a => a.core == core && a.tgt.meets t && a.op != .read)
  if mine.any (fun a => a.op != .write && t.inLine (sectorKey a.tgt.ap a.tgt.pa)) then none
  else
    some ((mine.filter (fun a => decide (a.tgt.pa / 32 = t.pa / 32))).foldl
      (fun v a => overlayBytes v ((List.range a.w).map (fun i => (a.tgt.pa % 32 + i, byteOf a.data i)))) v)

/-- A load request entering the memory system: bytes from the store buffer are taken at once, and where L1 holds the
sector and no earlier access forbids it, the whole value is fixed at issue (R111, R355, R356). -/
def State.addLoad (s : State) (r : Req) : State :=
  let ov (d : LaneDst) : List (Nat × Byte) := s.forward r.core r.ctx r.tgt (r.tgt.pa + d.off) d.w
  let r := { r with overlay := r.dsts.flatMap ov }
  let all := r.dsts.all (fun d => !(ov d).isEmpty)
  let free := !(s.reqs.any (fun a => a.blocks r)) && !(r.acq && decide (3 ≤ r.scope))
  let r :=
    if free && r.tgt.cacheable then
      match look (s.core r.core).l1 (sectorKey r.tgt.ap r.tgt.pa) with
      | some b => { r with state := .done b.toNat, noFill := true }
      | none => if all then { r with state := .done 0, noFill := true } else r
    else r
  { s with reqs := s.reqs ++ [r] }

/-- A request put in the place of its instruction among those of its core. -/
def insertReq (r : Req) : List Req → List Req
  | [] => [r]
  | a :: l => if a.core == r.core && decide (r.instr < a.instr) then r :: a :: l else a :: insertReq r l

/-- A replayed store entering the memory system at the place of its instruction, before younger ones to its line (R125). -/
def State.addReplayed (s : State) (r : Req) : State :=
  let s := s.dropLine r.core r.tgt
  { s with reqs := insertReq r s.reqs }

/-- A store, reduction, atomic or decay request entering the memory system, with what it does to the core's L1 (R91). A store
through a block-map entry may move to another block (R81), so it drops the line. -/
def State.addWrite (s : State) (r : Req) : State :=
  let s :=
    match r.op, r.tgt.kv with
    | .write, none => (s.storeL1 r.core r.tgt r.w r.data).noFill r.core (fun k => k == sectorKey r.tgt.ap r.tgt.pa)
    | _, _ => s.dropLine r.core r.tgt
  { s with reqs := s.reqs ++ [r] }

/-! ### The side log (R121 to R127) -/

/-- The lines that a core's side log holds entries of a context for (R124). -/
def Core.logLines (c : Core) (ctx : Nat) : List Nat :=
  (c.slog.filter (fun e => e.ctx == ctx)).flatMap (fun e => e.lanes.map (fun l => l.va.toNat / 128))

/-- Whether an entry of a core's side log, of a team or of one group of it, is not performed: one that its replay has put on its way is
so until its home has performed it (R125, R126). -/
def State.logHas (s : State) (core team : Nat) (grp : Option Nat) : Bool :=
  let mine (g : Nat) : Bool := match grp with | none => true | some x => g == x
  (s.core core).slog.any (fun e => e.team == team && mine e.grp) ||
    s.reqs.any (fun r => r.core == core && r.team == team && mine r.grp && r.logged.isSome && !r.performed)

/-- How many more entries of a context fit into a log that holds entries of the contexts `l` (R123). -/
def State.logRoom (s : State) (ctx : Nat) (l : List Nat) : Nat :=
  let own := (l.filter (· == ctx)).length
  let tenants := (l.filter (· != 0)).length
  if ctx = 0 then 256 - l.length
  else min (256 - l.length) (min (((look s.ctxs ctx).getD {}).sideLimit - own) (224 - tenants))

/-- The contexts of the entries of a core's side log. -/
def Core.logCtxs (c : Core) : List Nat := c.slog.map (·.ctx)

/-- How many more entries an instruction of a context finds free: those that refused stores of the core's buffer wait for are theirs
(R123). -/
def State.logFree (s : State) (core ctx : Nat) : Nat :=
  let late := s.reqs.filter (fun r => r.core == core && r.isStore && (match r.state with | .refused _ => true | _ => false))
  s.logRoom ctx ((s.core core).logCtxs ++ late.map (·.ctx))

/-- Entries appended to a core's side log, numbered in order. -/
def State.addLog (s : State) (core : Nat) (es : List SideEntry) : State :=
  s.updCore core (fun c =>
    es.foldl (fun c e => { c with slog := c.slog ++ [{ e with seq := c.slogSeq }], slogSeq := c.slogSeq + 1 }) c)

/-! ### Events of memory instructions (R238, R240) -/

/-- Whether some lane of an instruction is still to be performed: a request, or a side-log entry of it, saved ones among them. -/
def State.unfinished (s : State) (instr : Nat) : Bool :=
  s.reqs.any (fun r => r.instr == instr && !r.performed) ||
    s.cores.any (fun c => c.2.slog.any (fun e => e.instr == instr)) ||
    s.ctxs.any (fun c => c.2.image.slog.any (fun e => e.2.instr == instr))

/-- Whether an instruction has lanes that have not been issued (R108). -/
def State.partly (s : State) (team grp instr : Nat) : Bool :=
  match s.team? team with
  | some tm => (tm.group grp).partInstr == some instr
  | none => false

/-- The events of instructions that have been performed whole, delivered. -/
def State.deliverMem (s : State) : State :=
  s.memEvs.foldl (fun (s : State) m =>
    if s.unfinished m.instr || s.partly m.team m.grp m.instr then { s with memEvs := s.memEvs ++ [m] }
    else s.countEvents m.ctx (if m.remote then none else some (m.team, m.grp)) m.evs) { s with memEvs := [] }

/-- Events of one request, kept until its instruction is performed whole. An instruction with events from a peer's answer counts as
a remote arrival (R240). -/
def State.memEvent (s : State) (r : Req) (remote : Bool) (evs : List Ev) : State :=
  if evs.isEmpty then s
  else
    let m : MemEvs := (s.memEvs.find? (fun m => m.instr == r.instr)).getD { instr := r.instr, ctx := r.ctx, team := r.team, grp := r.grp }
    { s with
      memEvs := s.memEvs.filter (fun m => m.instr != r.instr) ++ [{ m with remote := m.remote || remote, evs := m.evs ++ evs }] }

/-! ### Memory faults (R71, R108, R384) -/

/-- Whether only the module kernel sees a fault (R70, Table 4.6): one of the second stage, and WALK_ERROR. -/
def TrapInfo.kernelOnly (k : TrapInfo) : Bool := k.stage == 2 || (k.cls == 0x20 && k.detail == 0x02)

/-- A memory fault of an instruction of a group reported, with the repeat index of its issue: the record goes to the module kernel's
queue, and the frame is written where the tenant sees the fault (R70) and its team is still there. -/
def State.lateFault (s : State) (ctx core team grp repidx : Nat) (epc : BitVec 24) (k : TrapInfo) (what : FaultFor) : State × Nat :=
  let inh := ((s.team? team).map (fun tm => (tm.group grp).inh)).getD false
  let (s1, rid) := s.report
    { ctx := ctx, core := core, team := team, grp := grp, info := k.word repidx inh epc, addr := k.addr, mask := k.lmask, what := what }
  (if k.kernelOnly then s1 else s1.updGroup team grp (fun gr => { gr with frame := k.frame repidx epc }), rid)

/-- A memory fault of the word that a group is at. -/
def State.memFault (s : State) (team grp : Nat) (epc : BitVec 24) (k : TrapInfo) (what : FaultFor) : State × Nat :=
  match s.team? team with
  | none => (s, 0)
  | some tm => s.lateFault tm.ctx (tm.coreOf grp) team grp (tm.group grp).repidx epc k what

/-- The trap information of a translation fault (R71). -/
def TFault.info (f : TFault) (k : AKind) (lane : Nat) (va : DWord) (lmask : BitVec 64) : TrapInfo :=
  { cls := 0x20, detail := f.cause, stage := f.stage, kind := if f.walk then 7 else k.code, lane := lane, addr := va,
    lmask := lmask }

/-- A group held by a fault record (R108). -/
def State.holdFor (s : State) (team grp rid : Nat) : State :=
  s.updGroup team grp (fun gr => { gr with faults := gr.faults ++ [rid], wait := 0 })

/-- The word at issue held by a memory fault: it is tried again when the module kernel resolves it (R108, R384). -/
def State.faultIssue (s : State) (is : Issue) (k : TrapInfo) : State :=
  let (s, rid) := (s.closeIssue is).memFault is.team is.grp is.pc k .retry
  (s.holdFor is.team is.grp rid).updGroup is.team is.grp (fun gr => { gr with hold := none, held := some { is with closed := false }, skipLen := is.len })

/-! ### What is performed at a home slice (R88, R113) -/

/-- New value and events of an atomic operation on old value `o` and operand `x` of type code `t1` (Table 6.6). -/
def atomOp (op t1 : Nat) (o x : Nat) : Nat × List Ev :=
  if t1 < 8 then
    let t := ITy.of (BitVec.ofNat 4 t1)
    let xs : List DWord := [BitVec.ofNat 64 o, BitVec.ofNat 64 x]
    let r : DWord :=
      match op with
      | 0 => (opIadd t false xs).val
      | 1 => (opImin t false xs).val
      | 2 => (opImax t false xs).val
      | 3 => (opAnd t false xs).val
      | 4 => (opOr t false xs).val
      | 5 => (opXor t false xs).val
      | _ => BitVec.ofNat 64 x
    (r.toNat % 2 ^ t.bits, [])
  else
    let f := fmtOf t1
    let vs := [f.decode (o % 2 ^ f.bits), f.decode (x % 2 ^ f.bits)]
    match op with
    | 0 => let r := opFadd f .rn false vs; (r.val.toNat, r.ev)
    | 1 => let r := opFmin f .rn false vs; (r.val.toNat, r.ev)
    | 2 => let r := opFmax f .rn false vs; (r.val.toNat, r.ev)
    | _ => (x % 2 ^ f.bits, [])

/-- Width in bytes of an atomic type (Table 6.7). -/
def atomWidth (t1 : Nat) : Nat :=
  match t1 with
  | 3 | 7 => 8
  | 9 | 10 => 2
  | _ => 4

/-- The nearest integer to n / 2^k, ties to even (R90). -/
def rneShift (x : Int) (k : Nat) : Int × Bool :=
  let r := roundShift .rn (decide (x < 0)) x.natAbs k
  ((if x < 0 then -(r.1 : Int) else r.1), r.2)

/-- The least `k`, from `k` on, for which t / 2^(E+k−127) rounds into 32 bits or E + k reaches 0xFE (R90). `t` is a
multiple of 2^q. -/
def bfpGrow : Nat → Nat → Int → Int → Nat → Nat
  | 0, k, _, _, _ => k
  | n + 1, k, t, q, E =>
    let sh : Int := (E : Int) + k - 127 - q
    let r := if 0 ≤ sh then (rneShift t sh.toNat).1 else t * 2 ^ (-sh).toNat
    if inRange true 32 r || decide (0xFE ≤ E + k) then k else bfpGrow n (k + 1) t q E

/-- A BFP32 add of FP32 code `x` into element `i` of a block of header `hdr` and mantissas `ms` (R90): header, mantissas
and events. -/
def bfpAdd (hdr : Nat) (ms : List Int) (i x : Nat) : Nat × List Int × List Ev :=
  let E : Nat := hdr / 2 ^ 24 % 256
  if E = 255 || hdr / 2 ^ 16 % 32 != 0 then (hdr, ms, [.invalid])
  else
    let cnt := min (hdr % 2 ^ 16 + 1) 0xFFFF
    let flags := hdr / 2 ^ 21 % 8
    let mk (E flags : Nat) : Nat := E * 2 ^ 24 + flags * 2 ^ 21 + cnt
    match fp32.decode x with
    | .fin neg m e =>
      -- both terms in units of 2^q
      let q : Int := min ((E : Int) - 127) e
      let t : Int := (ms.getD i 0) * (2 : Int) ^ ((E : Int) - 127 - q).toNat + (FV.fin neg m e).units q
      let k := bfpGrow 256 0 t q E
      let scaled := ms.map (fun y => rneShift y k)
      let inx1 := k != 0 && (scaled.zipIdx.any (fun y => y.1.2 && y.2 != i))
      let ms' := if k = 0 then ms else scaled.map (·.1)
      let E' := E + k
      let sh : Int := (E' : Int) - 127 - q
      let r : Int × Bool := if 0 ≤ sh then rneShift t sh.toNat else (t * 2 ^ (-sh).toNat, false)
      let big := !inRange true 32 r.1
      let inx := inx1 || r.2
      let flags := Nat.lor flags ((if inx then 1 else 0) + (if big then 2 else 0))
      (mk E' flags, setAt ms' i (iclamp true 32 r.1), if big then [.saturation] else [])
    | _ => (mk E (Nat.lor flags 4), ms, [])

/-- Where bytes live: main memory, or the lines of peers cached under token. -/
def State.rdAt (s : State) (t : Target) (a n : Nat) : Nat :=
  if t.ap = 0 then s.rd a n else Memory.read s.peerMem (peerKey t.ap a) n

/-- Bytes written at a place. -/
def State.wrAt (s : State) (t : Target) (a n v : Nat) : State :=
  if t.ap = 0 then s.wr a n v
  else
    { s with
      peerMem := Memory.write s.peerMem (peerKey t.ap a) n v
      peerLines := put s.peerLines (peerKey t.ap a / 128) true }

/-- The lines of a KV block at `b`. -/
def blockLines (b : Nat) : List Nat := (List.range 128).map (fun i => b + 128 * i)

/-- A block of main memory copied whole, each line where it is performed; a poisoned sector is copied with its mark, of which the spec
says nothing (R86; DESIGN CHOICE, log entry 91). -/
def State.copyBlock (s : State) (w : Who) (ctx src dst : Nat) (vs : List Nat) : State :=
  let s := (vs.zipIdx).foldl (fun s v => s.physWrite w ctx (dst + 128 * v.2) 128 v.1) s
  let within (b p : Nat) : Bool := decide (b ≤ 32 * p) && decide (32 * p < b + 16384)
  { s with
    poison := s.poison.filter (fun p => !within dst p) ++ (s.poison.filter (within src)).map (fun p => p + dst / 32 - src / 32)
    cores := s.cores.map (fun c => (c.1, c.2.keepL1 (fun k => !(decide (dst / 32 ≤ k) && decide (k < (dst + 16384) / 32))))) }

/-- Copy-on-write of a shared KV block before a write through a block-map entry (R81): the address written, KV_EMPTY, or a wait. The
unit's own accesses are performed as others are: tokens of their regions are recalled first (R79), and lines that a migration has copied
are read and written at their new home (R82). An uncorrectable map entry or count is WALK_ERROR (log entry 16). The entry's cached
translation goes with the block: accesses that were translated through it take the new one. -/
def State.kvWrite (s : State) (ctx ea pa : Nat) : Except EStop (Nat × State) :=
  let w : Who := { kind := 10, id := ea }
  let bad (e : EStop) : EStop := match e with | .fault 0x21 _ k va => .fault 0x02 1 k va | e => e
  match s.sent w with
  | .waiting => .error (.wait s)
  | .refused c va => .error (.fault c 2 .engWrite va)
  | _ =>
  let u := s.kvUnit ea
  match s.physRead w ctx ea 4 with
  | .error e => .error (bad e)
  | .ok (ent, s) =>
  let blk := ent % 2 ^ 25
  let off := (pa - u.base) % 16384
  let old := u.base + blk * 16384
  match s.physRead w ctx (u.counts + 2 * blk) 2 with
  | .error e => .error (bad e)
  | .ok (n, s) =>
  if n ≤ 1 then .ok (old + off, s.forget w)
  else
    match u.free with
    | [] => .error (.fault 0x09 2 .engWrite 0)
    | nb :: rest =>
      let new := u.base + nb * 16384
      match s.physHold ctx (ea :: (u.counts + 2 * nb) :: (u.counts + 2 * blk) :: blockLines new) with
      | some e => .error e
      | none =>
      match s.physReads w ctx false ((blockLines old).map (fun a => (a, 128))) with
      | .error e => .error e
      | .ok (vs, s) =>
      let s := s.forget w
      let s := s.copyBlock w ctx old new vs
      let s := s.physWrite w ctx (u.counts + 2 * nb) 2 1
      let s := s.physWrite w ctx (u.counts + 2 * blk) 2 (n - 1)
      let s := s.physWrite w ctx ea 4 (ent - blk + nb)
      let move (r : Req) : Req :=
        if r.tgt.kv == some ea then
          { r with tgt := { r.tgt with pa := new + (r.tgt.pa - u.base) % 16384 }, noFill := true }
        else r
      .ok (new + off, { s with kv := put s.kv (kvDie ea) { u with free := rest }, reqs := s.reqs.map move })

/-- Whether a copy-on-write of a block-map entry still awaits the answers of another module (R82). -/
def State.kvCopying (s : State) (ea : Nat) : Bool := s.sent { kind := 10, id := ea } == .waiting

/-- What an operation on bytes answers: the value returned (with the bytes read by a load), the events, and the state. -/
structure Performed where
  value : Nat
  ev : List Ev
  s : State

/-- The operation of a request performed at address `a` of its place (R88). Reads of poisoned sectors answer none; a
partial write of a poisoned sector keeps the mark and is logged, and other operations on it are not performed; a store whose lanes
write the whole sector clears the mark with the last of them (R86). -/
def State.perform (s : State) (r : Req) (a : Nat) : Option Performed :=
  let poisoned := r.tgt.ap == 0 && s.poisoned a r.w
  let put (s : State) (v : Nat) : State := s.wrAt r.tgt a r.w v
  match r.op with
  | .read =>
    if r.tgt.ap == 0 && r.dsts.any (fun d => s.poisoned (a + d.off) d.w) then none
    else some ⟨s.rdAt r.tgt a 32, [], s⟩
  | .write =>
    let s' := put s r.data
    let last := !(s.reqs.any (fun b => b.whole && b.instr == r.instr && b.lane != r.lane && !b.performed
      && b.tgt.ap == r.tgt.ap && decide (b.tgt.pa / 32 = r.tgt.pa / 32))
      || (s.core r.core).slog.any (fun e => e.instr == r.instr && e.lanes.any (fun l => decide (l.va.toNat / 32 = r.va.toNat / 32))))
    some ⟨0, [], if !poisoned then s' else if !r.whole then s'.log (.poisonWrite r.ctx a r.op) else if last then s'.unpoison a else s'⟩
  | .atom op t1 new ret =>
    if poisoned then
      if ret then none else some ⟨0, [], s.log (.poisonWrite r.ctx a r.op)⟩
    else
      let o := s.rdAt r.tgt a r.w
      let n := atomOp op t1 o r.data
      some ⟨if new then n.1 else o, n.2, put s n.1⟩
  | .cas =>
    if poisoned then none
    else
      let o := s.rdAt r.tgt a r.w
      some ⟨o, [], if o = r.cmp then put s r.data else s⟩
  | .bfp =>
    let b := a / 128 * 128
    if r.tgt.ap == 0 && s.poisoned b 128 then some ⟨0, [], s.log (.poisonWrite r.ctx a r.op)⟩
    else
      let hdr := s.rdAt r.tgt b 4
      let ms := (List.range 31).map (fun j => intVal true 32 (s.rdAt r.tgt (b + 4 + 4 * j) 4))
      let x := bfpAdd hdr ms (a % 128 / 4 - 1) r.data
      let v := (x.2.1.zipIdx).foldl (fun v m => v + wrapNat 32 m.1 * 256 ^ (4 + 4 * m.2)) x.1
      some ⟨0, x.2.2, s.wrAt r.tgt b 128 v⟩
  | .record =>
    if poisoned then some ⟨0, [], s.log (.poisonWrite r.ctx a r.op)⟩
    else some ⟨0, [], put s ((s.rdAt r.tgt a 8 + 1) % 2 ^ 64 + r.data % 256 ^ (r.w - 8) * 2 ^ 64)⟩
  | .decay op p =>
    if poisoned then
      match op with
      | .dld => none
      | .dst =>
        let n := (decayOp op p 0 r.data).1.getD 0
        some ⟨0, [], (put s n).log (.poisonWrite r.ctx a r.op)⟩
      | _ => some ⟨0, [], s.log (.poisonWrite r.ctx a r.op)⟩
    else
      let o := decayOp op p (s.rdAt r.tgt a r.w) r.data
      some ⟨o.2.1, o.2.2, match o.1 with | some n => put s n | none => s⟩

end Sys2Proof.Machine
end

