-- ==== Sys2Proof/Machine/MemEvents.lean ====
section
/-!
DEFINITION. The steps of the memory system: an access performed at its home slice, its result arriving, a store acknowledged
or refused, and the replay or discard of side-log entries (R81, R82, R86, R88, R108, R111, R114, R125, R355 to R359).
-/

namespace Sys2Proof.Machine

/-- Whether some store that a core's buffer held when instruction `n` was issued is not yet acknowledged: it lies in the buffer, or it
was refused since and lies in the side log (R114, R357). -/
def State.storesBefore (s : State) (core n : Nat) : Bool :=
  s.reqs.any (fun r => r.isStore && r.core == core && decide (r.instr < n)) ||
    (s.core core).slog.any (fun e => decide (e.instr < n) && decide (n ≤ e.logged))

/-- Whether a release numbered `n` of a group of a team, at a scope, is behind an access with a place in the side log (R126, R357, R363):
one of its group or, at core scope and wider, of its team that was in the log when it was issued, and at these scopes any of its group.
`logged`: when the access first went there. -/
def logBefore (rTeam rGrp rScope n team grp instr logged : Nat) : Bool :=
  decide (instr < n) && team == rTeam &&
    ((grp == rGrp && (decide (2 ≤ rScope) || decide (logged ≤ n))) || (decide (2 ≤ rScope) && decide (logged ≤ n)))

/-- Whether a release on its way waits for entries of side logs (R126, R363): those in a log, and those whose replay is on its way. -/
def State.logHoldsRelease (s : State) (r : Req) : Bool :=
  (s.instOf r.team r.core).any (fun c => (s.core c).slog.any (fun e =>
    logBefore r.team r.grp r.scope r.instr e.team e.grp e.instr e.logged)) ||
  s.reqs.any (fun a =>
    match a.logged with
    | some k => !a.performed && logBefore r.team r.grp r.scope r.instr a.team a.grp a.instr k
    | none => false)

/-- The key of a line's promote tag (R357). -/
def promoteKey (t : Target) : Nat := sectorKey t.ap (t.pa / 128 * 128)

/-- Whether the core that a tag names has made the promotion: a core of this module has when the stores of its buffer from then are
acknowledged; one of another module makes it known in its own time (R357, R359). -/
def State.tagMade (s : State) (p : Promote) : Bool :=
  if p.mod = s.modId.toNat then !s.storesBefore p.core p.before else p.made

/-- Whether the promotion that a line's tag asks for has been made (R357, R359). -/
def State.promoted (s : State) (r : Req) : Bool :=
  match look s.promote (promoteKey r.tgt) with
  | none => true
  | some p =>
    let here := p.mod == s.modId.toNat
    let needRel := r.rel && (decide (3 ≤ r.scope) || (r.scope == 2 && !(here && p.core == r.core)))
    let needAcq := r.acq && decide (3 ≤ r.scope) && !(here && (s.instOf r.team r.core).contains p.core)
    !(needRel || needAcq) || s.tagMade p

/-- Whether a request is a decay operation: the lanes of one instruction are performed in increasing order (R138). -/
def Req.isDecay (r : Req) : Bool := match r.op with | .decay _ _ => true | _ => false

/-- Whether a release waits for an earlier access of its group (R357): at device scope and wider for stores to be acknowledged and loads to
have their values; at core scope for loads, and where the core instance is a tandem for stores too, which the other core does not find in
its own buffer. -/
def State.groupBefore (s : State) (r : Req) : Bool :=
  s.reqs.any (fun a => a.team == r.team && a.grp == r.grp && decide (a.instr < r.instr) &&
    (if a.isStore then decide (3 ≤ r.scope) || s.isTandem r.team else !a.performed))

/-- Whether the request at position `i` may be performed now (R88, R114, R126, R138, R355, R357, R359, R363). Posted writes to the host
are sent in issue order (R355). -/
def State.mayPerform (s : State) (i : Nat) (r : Req) : Bool :=
  let before := s.reqs.take i
  r.state == .waiting &&
  !before.any (fun a => a.blocks r || (a.instr == r.instr && a.isDecay && !a.performed)) &&
  !(r.isStore && decide (0x100 ≤ r.tgt.ap) && before.any (fun a =>
      a.isStore && a.core == r.core && a.tgt.ap == r.tgt.ap && decide (a.tgt.pa / 128 = r.tgt.pa / 128))) &&
  !(r.isStore && r.tgt.ap == 0xFF && before.any (fun a => a.isStore && a.tgt.ap == 0xFF && a.state == .waiting)) &&
  !(r.rel && decide (2 ≤ r.scope) && s.groupBefore r) &&
  !(r.rel && decide (3 ≤ r.scope) && s.storesBefore r.core r.instr) &&
  !(r.rel && s.logHoldsRelease r) &&
  s.promoted r

/-- The request at a position replaced. -/
def State.setReq (s : State) (i : Nat) (r : Req) : State := { s with reqs := setAt s.reqs i r }

/-- The effect of a release or an acquire on promote tags and on L1 when it is performed (R357). -/
def State.ordered (s : State) (r : Req) : State :=
  let k := promoteKey r.tgt
  let s :=
    if r.rel && r.scope == 2 then
      { s with promote := put s.promote k { mod := s.modId.toNat, core := r.core, before := s.nextInstr } }
    else if r.rel && decide (3 ≤ r.scope) then { s with promote := del s.promote k }
    else s
  if r.acq && decide (3 ≤ r.scope) then s.flushFor r.team r.core else s

/-- The core that a line's tag names, of another module, has made the promotion (R357, R359). -/
def State.promotionMade (s : State) (key : Nat) : State :=
  match look s.promote key with
  | some p => { s with promote := put s.promote key { p with made := true } }
  | none => s

/-- The access kind of an operation (Table 4.4). -/
def MemOp.kind : MemOp → AKind
  | .read => .load
  | .write => .store
  | .atom _ _ _ ret => if ret then .atomic else .reduction
  | .bfp => .reduction
  | .cas => .atomic
  | .record => .engWrite
  | .decay op _ =>
    match op with
    | .dld | .dst | .dadd | .dema | .dmrg => .decay

/-- The fault that a performed access met after it left the core: a load or an atomic with a result holds its group; a
store waits in the buffer for a side-log entry (R86, R108, R114). `cls` is 0x20 with a cause, or 0x21. -/
def State.refuseReq (s : State) (i : Nat) (r : Req) (cls cause : Nat) : State :=
  let s := s.setReq i { r with state := .refused cause }
  if r.isStore then s
  else
    let (s, rid) := s.lateFault r.ctx r.core r.team r.grp r.repidx r.epc
      { cls := cls, detail := if cls = 0x20 then cause else 0, stage := if cls = 0x20 then 2 else 0, kind := r.op.kind.code,
        lane := r.lane, addr := r.va, lmask := r.guard } (.req r.instr r.lane)
    s.holdFor r.team r.grp rid

/-- A line of a peer region asked for, unless it is on its way, or its last bytes are on theirs home (R87). -/
def State.fetch (s : State) (ctx ap line : Nat) : State :=
  let same (m : Msg) : Bool := match m with | .fetchLine _ a p | .writeBack _ a p _ => a == ap && p == line | _ => false
  if s.awaits same then s else s.send (.fetchLine ctx ap line)

/-- Whether an access was sent and is in doubt (R174). -/
def State.inDoubt (s : State) (r : Req) : Option Outst := s.outst.find? (fun o => o.doubt && o.isFor r)

/-- The sector of an address found corrected (`err` 1) or uncorrectable (2) by the access of a context (R86, R406). -/
def State.symbolError (s : State) (ctx pa err : Nat) : State :=
  if err = 1 then
    let ch := 64 * dieOf pa + chanOf pa
    let s : State := { s with fw := { s.fw with corrected := put s.fw.corrected ch ((look s.fw.corrected ch).getD 0 + 1) } }
    s.countEvents ctx none [.memcorr]
  else if err = 2 then { s with poison := (pa / 32) :: s.poison.filter (· != pa / 32) }
  else s

/-- The line of a write of a tandem team leaves L1 of the other core as it is performed, so that what is ordered after it at core scope
there finds it (R353, R358). -/
def State.dropPartner (s : State) (r : Req) : State :=
  if r.readOnly || !s.isTandem r.team then s else s.dropLine (if r.core % 2 = 0 then r.core + 1 else r.core - 1) r.tgt

/-- A request performed at address `a` of its place, its events kept for its instruction: one of a class for each lane (R238). -/
def State.performAt (s : State) (i : Nat) (r : Req) (a : Nat) : State :=
  match s.perform r a with
  | none => s.refuseReq i r 0x21 0x21
  | some p =>
    let s := if r.readOnly then p.s.freshRead r.core r.tgt else p.s.dropPartner r
    (((s.memEvent r false (evClasses p.ev)).setReq i { r with state := .done p.value }).ordered r).deliverMem

/-- An access sent to the aperture and address where it is performed; one in doubt is sent again by the hub with its own id
(R113, R174). -/
def State.sendReq (s : State) (i : Nat) (r : Req) (ap pa : Nat) : State :=
  match s.peerCause r.ctx ap with
  | some c => s.refuseReq i r 0x20 c
  | none => if (s.inDoubt r).isSome then s else (s.setReq i { r with state := .sent }).send (.request ap pa r)

/-- The address that a request is performed at: a write through a block-map entry may have to copy the block first (R81), and one whose
block is being copied at another module waits for it. -/
def State.placeOf (s : State) (r : Req) : Except EStop (Nat × State) :=
  match r.tgt.kv with
  | some ea =>
    if s.kvCopying ea then .error (.wait s) else if r.readOnly then .ok (r.tgt.pa, s) else s.kvWrite r.ctx ea r.tgt.pa
  | none => .ok (r.tgt.pa, s)

/-- An access reaches its home slice (R88). A target on a peer or on the host, and a line that a migration has copied, is
sent on and its answer awaited. `err`: 1, a symbol error is corrected; 2, the sector is found uncorrectable (R86). -/
def State.sliceOp (s : State) (i err : Nat) : State :=
  match s.reqs[i]? with
  | none => s
  | some r =>
    let line := peerKey r.tgt.ap r.tgt.pa / 128
    if !s.mayPerform i r then s
    else if r.tgt.c && (look s.heldTokens ((r.tgt.ap - 0x100) * 2 ^ 30 + r.tgt.pa / 2 ^ 21)).isNone then
      -- the token has left this module since the access was translated (R78)
      s.refuseReq i r 0x20 0x0A
    else if r.tgt.ap = 0xFF || (decide (0x100 ≤ r.tgt.ap) && !r.tgt.c) then s.sendReq i r r.tgt.ap r.tgt.pa
    else if r.tgt.ap != 0 then
      if (look s.peerLines line).isSome then s.performAt i r r.tgt.pa
      else
        match s.peerCause r.ctx r.tgt.ap with
        | some c => s.refuseReq i r 0x20 c
        | none => s.fetch r.ctx r.tgt.ap (r.tgt.pa / 128 * 128)
    else if r.tgt.nowhere then
      ((s.setReq i { r with state := .done 0 }).log (.nonexistent r.ctx r.tgt.pa)).deliverMem
    else
      match s.placeOf r with
      | .error (.wait s) => s
      | .error (.fault c _ _ _) => s.refuseReq i r (if c = 0x21 then 0x21 else 0x20) c
      | .ok (a, s) =>
        let r := (s.reqs[i]?).getD r
        match s.away a with
        | .recall m g => s.recallToken m g
        | .locked => s
        | .moved ap pa => s.sendReq i r ap pa
        | .here => (s.symbolError r.ctx a err).performAt i r a

/-- The registers that a lane's result goes to. -/
def LaneDst.regs (d : LaneDst) : List RegRef :=
  (List.range (max 1 (d.w / 4))).map (fun j => match d.lane with | some l => .v l (d.reg + j) | none => .s (d.reg + j))

/-- The register writes of a result: each register takes four bytes of the lane's value; narrower values are extended by
the type (R106, R118). -/
def LaneDst.writes (d : LaneDst) (value : Nat) : List (RegRef × Word) :=
  let x := value / 256 ^ d.off % 256 ^ d.w
  let x := if d.w < 4 then wrapNat 32 (intVal d.signed (8 * d.w) x) else x
  d.regs.zipIdx.map (fun r => (r.1, BitVec.ofNat 32 (x / 2 ^ (32 * r.2))))

/-- The outstanding-load counter after a request of an instruction has arrived (R112): it falls when no other request of
the instruction is in flight and none of its lanes is still to be issued. -/
def State.countArrival (s : State) (r : Req) : State :=
  if !r.counts || s.reqs.any (fun a => a.instr == r.instr) then s
  else
    s.updGroup r.team r.grp (fun gr =>
      if gr.partInstr == some r.instr then gr else { gr with loads := gr.loads - 1 })

/-- The register writes of a performed request (R111). -/
def Req.results (r : Req) : List (RegRef × Word) :=
  match r.state with
  | .done v => r.dsts.flatMap (fun d => d.writes (overlayBytes v r.overlay))
  | _ => []

/-- What a performed request of value `v`, already out of the list, brings beside its results: its sector is kept in L1 where it may be
(R111). -/
def State.landReq (s : State) (r : Req) (v : Nat) : State :=
  let v := overlayBytes v r.overlay
  let key := sectorKey r.tgt.ap r.tgt.pa
  let s :=
    if r.op == .read && r.tgt.cacheable && !r.noFill && (look (s.core r.core).l1 key).isNone then
      match s.fillOf r.core r.tgt v with
      | some f => s.fillL1 r.core key (BitVec.ofNat 256 f)
      | none => s
    else if r.op != .read then s.noFill r.core r.tgt.inLine
    else s
  s.countArrival r

/-- The segments that a request of a bound group writes (R280). -/
def Req.segs (r : Req) : List Nat := r.dsts.filterMap (fun d => d.lane.map (· / r.seg))

/-- The segments that are written together with a set of segments. -/
def segClosure : Nat → List Req → List Nat → List Nat
  | 0, _, S => S
  | k + 1, rs, S =>
    segClosure k rs ((S ++ (rs.filter (fun r => r.segs.any (fun x => S.contains x))).flatMap Req.segs).eraseDups)

/-- The requests that land together with `r`: itself, or in a bound group those of the segments it writes (R280). -/
def State.together (s : State) (r : Req) : List Req :=
  if r.seg = 0 then [r]
  else
    let rs := s.reqs.filter (fun a => a.instr == r.instr)
    let S := segClosure 64 rs r.segs
    rs.filter (fun a => a.segs.any (fun x => S.contains x))

/-- Whether a request's result waits for the acknowledgement of an older write of its core to its location (R356). -/
def State.behind (s : State) (r : Req) : Bool := s.ackBehind ((s.reqs.findIdx? (· == r)).getD 0) r

/-- A waiting load of local memory reads, and clears, its granules when all of them are full (R95, R107). An acquire at device scope or
wider is performed with it, and empties L1 (R106, R357). -/
def State.readFull (s : State) (i : Nat) (r : Req) : State :=
  match s.team? r.team with
  | none => { s with reqs := s.reqs.eraseIdx i }
  | some tm =>
    let lm := if r.partner then tm.lm1 else tm.lm0
    let gs := (List.range ((r.tgt.pa % 16 + r.w + 15) / 16)).map (fun j => r.tgt.pa / 16 + j)
    if gs.all (fun g => Sparse.get false lm.full g) then
      let v := Memory.read lm.bytes r.tgt.pa r.w
      let lm := if r.clear then { lm with full := gs.foldl (fun f g => Sparse.set false f g false) lm.full } else lm
      let tm := if r.partner then { tm with lm1 := lm } else { tm with lm0 := lm }
      let s := (s.setTeam r.team tm).setReq i { r with state := .done v }
      if r.acq && decide (3 ≤ r.scope) then s.flushFor r.team r.core else s
    else s

/-- The value of a performed request reaches its registers (R111, R280), when every request that lands with it is
performed and no lane of its instruction is still to be issued, and no older store to its location is unacknowledged. -/
def State.land (s : State) (i : Nat) : State :=
  match s.reqs[i]? with
  | none => s
  | some r =>
    let rs := s.together r
    if r.isStore || !rs.all Req.performed || (r.seg != 0 && s.partly r.team r.grp r.instr) || rs.any s.behind then s
    else
      let s := ({ s with reqs := s.reqs.filter (fun a => !(rs.contains a)) } : State).putRegs r.team r.grp (some r.instr) (rs.flatMap Req.results)
      rs.foldl (fun (s : State) a => match a.state with | .done v => s.landReq a v | _ => s) s

/-- LOAD_SECTOR_ARRIVAL: a waiting local load reads when it may, and a performed request lands. -/
def State.arrive (s : State) (i : Nat) : State :=
  match s.reqs[i]? with
  | none => s
  | some r => (if r.state == .waitFull then s.readFull i r else s).land i

/-- The place of performance acknowledges a store (R355): it leaves the buffer. Acknowledgements of one location reach the
core in the order of the stores. -/
def State.ackStore (s : State) (i : Nat) : State :=
  match s.reqs[i]? with
  | some r =>
    if r.isStore && r.performed && !s.ackBehind i r then
      ({ s with reqs := s.reqs.eraseIdx i }).noFill r.core r.tgt.inLine
    else s
  | none => s

/-- The side-log entry of one request (R122). -/
def State.entryOf (s : State) (cause : Nat) (a : Req) : SideEntry :=
  { seq := 0, instr := a.instr, ctx := a.ctx, team := a.team, grp := a.grp, w := a.w, lanes := [⟨a.lane, a.va, a.data, a.op, a.whole⟩],
    scope := a.scope, rel := a.rel, cause := cause, epc := a.epc, guard := a.guard, repidx := a.repidx,
    logged := a.logged.getD s.nextInstr, doubt := (s.inDoubt a).map (fun o => (o.dst, o.tid)) }

/-- Whether a store lies behind another in its core's buffer: to its 128-byte line, and still to be performed (R114). -/
def Req.follows (a r : Req) : Bool :=
  a.isStore && a.core == r.core && a.tgt.ap == r.tgt.ap && decide (a.tgt.pa / 128 = r.tgt.pa / 128)
    && (match a.state with | .waiting | .refused _ => true | _ => false)

/-- How many of some stores, in order, find an entry in a log that holds entries of the contexts `l` (R123): the first that finds none
keeps those behind it. -/
def State.logTake (s : State) : List Req → List Nat → Nat
  | [], _ => 0
  | a :: r, l => if s.logRoom a.ctx l = 0 then 0 else State.logTake s r (l ++ [a.ctx]) + 1

/-- A refused store moves to the side log, and every entry that waits behind it on its line after it, in order, as entries are free
for them; each takes one, and those that find none stay in the buffer (R114, R123). -/
def State.storeRefused (s : State) (i : Nat) : State :=
  match s.reqs[i]? with
  | some r =>
    match r.state with
    | .refused cause =>
      let first := !(s.reqs.take i).any (fun a => a.isStore && a.core == r.core && a.tgt.ap == r.tgt.ap
        && decide (a.tgt.pa / 128 = r.tgt.pa / 128))
      let all := r :: (s.reqs.drop (i + 1)).filter (fun a => a.follows r)
      let n := s.logTake all (s.core r.core).logCtxs
      if !r.isStore || n = 0 || (decide (0x100 ≤ r.tgt.ap) && !first) then s
      else
        let moved := all.take n
        let left := all.drop n
        let stay (a : Req) : Req := if left.contains a then { a with state := .refused cause } else a
        let es := moved.map (s.entryOf cause)
        let s := { s with reqs := (s.reqs.filter (fun a => !moved.contains a)).map stay, nextInstr := s.nextInstr + 1 }
        let s := (s.addLog r.core es).deliverMem
        (s.lateFault r.ctx r.core r.team r.grp r.repidx r.epc
          { cls := 0x20, detail := cause, stage := 2, kind := r.op.kind.code, lane := r.lane, addr := r.va, lmask := r.guard } .sideLog).1
    | _ => s
  | none => s

/-- The class snapshot that a decay lane takes when its access translates (R131). -/
def State.takeClass (s : State) (ctx : Nat) (op : MemOp) (t : Target) : MemOp :=
  match op with
  | .decay o p =>
    if p.taken then op
    else .decay o (p.take (Sparse.get (0 : BitVec 128) ((look s.ctxs ctx).getD {}).classes t.dcy))
  | _ => op

/-- The lanes of an entry translated afresh, or the first lane that fails or waits (R125). -/
def State.translateLanes (s : State) (core ctx : Nat) :
    List SideLane → Except (SideLane × TStop) (List (SideLane × Target) × State)
  | [] => .ok ([], s)
  | l :: ls =>
    match s.translate core none ctx l.op.kind l.va with
    | .error f => .error (l, f)
    | .ok (t, s) =>
      match State.translateLanes s core ctx ls with
      | .error e => .error e
      | .ok (r, s) => .ok (({ l with op := s.takeClass ctx l.op t }, t) :: r, s)

/-- How a replay goes on after an entry. -/
inductive Replay where
  /-- The next entry. -/
  | next
  /-- No entry is left, or one has faulted again. -/
  | stop
  /-- An entry waits, for a table whose token is away or for the answer to its first copy (R174). -/
  | wait
deriving DecidableEq, Repr

/-- The request of a lane of a side-log entry that translates (R125): it keeps its place in program order (R363). -/
def SideEntry.req (e : SideEntry) (core : Nat) (l : SideLane) (t : Target) : Req :=
  { instr := e.instr, ctx := e.ctx, core := core, team := e.team, grp := e.grp, lane := l.lane, op := l.op, va := l.va, tgt := t,
    w := e.w, data := l.data, scope := e.scope, rel := e.rel, epc := e.epc, lanes := BitVec.ofNat 64 (2 ^ l.lane), guard := e.guard,
    repidx := e.repidx, logged := some e.logged, whole := l.whole }

/-- One side-log entry replayed (R125): it is performed at its place and freed, or faults again and stays. -/
def State.replayOne (s : State) (core ctx : Nat) : State × Replay :=
  match (s.core core).slog.find? (fun e => e.ctx == ctx) with
  | none => (s, .stop)
  | some e =>
    if e.doubt.isSome then (s, .wait)
    else
    match s.translateLanes core ctx e.lanes with
    | .error (_, .wait s) => (s, .wait)
    | .error (l, .fault f) =>
      ((s.lateFault ctx core e.team e.grp e.repidx e.epc (f.info l.op.kind l.lane l.va e.guard) .sideLog).1, .stop)
    | .ok (ls, s) =>
      let s := s.updCore core (fun c => { c with slog := c.slog.filter (fun x => x.seq != e.seq) })
      (ls.foldl (fun s (l : SideLane × Target) => s.addReplayed (e.req core l.1 l.2)) s, .next)

/-- The replay of a context's entries on a core, in sequence order, until one faults again (R125); where an entry waits it is gone on
with later. -/
def State.replay : Nat → State → Nat → Nat → State
  | 0, s, _, _ => s
  | n + 1, s, core, ctx =>
    match s.replayOne core ctx with
    | (s, .next) => State.replay n s core ctx
    | (s, .stop) => s.updCore core (fun c => { c with replays := c.replays.filter (· != ctx) })
    | (s, .wait) => s.updCore core (fun c => { c with replays := if c.replays.contains ctx then c.replays else c.replays ++ [ctx] })

/-- Replays that waited are gone on with. -/
def State.resumeReplays (s : State) : State :=
  s.cores.foldl (fun (s : State) c => c.2.replays.foldl (fun (s : State) x => State.replay 257 s c.1 x) s) s

/-- The groups of a list of entries, each with the first address that one of its entries names. -/
def firstAddrs : List SideEntry → List ((Nat × Nat) × DWord) → List ((Nat × Nat) × DWord)
  | [], acc => acc
  | e :: es, acc =>
    if acc.any (fun x => x.1 == (e.team, e.grp)) then firstAddrs es acc
    else firstAddrs es (acc ++ [((e.team, e.grp), (e.lanes.head?.map (·.va)).getD 0)])

/-- The report of R384 to a tenant's host driver: the three frame words and INTSTAT[2]. -/
def State.reportLoss (s : State) (ctx : Nat) (info addr mask : DWord) : State :=
  (s.updCtx ctx (fun c => { c with frinfo := info, fraddr := addr, frmask := mask })).raiseInt ctx 2

/-- Entries of a context on a core discarded (R125): each group that issued one has a deferred-store trap fall due with
the first discarded address; the loss of an ended group is reported to the tenant's host driver. -/
def State.discardLog (s : State) (core ctx : Nat) (mine : SideEntry → Bool) : State :=
  let es := (s.core core).slog.filter (fun e => e.ctx == ctx && mine e)
  let s := (s.updCore core (fun c => { c with slog := c.slog.filter (fun e => !(e.ctx == ctx && mine e)) })).deliverMem
  (firstAddrs es []).foldl (fun (s : State) (x : (Nat × Nat) × DWord) =>
    let live : Bool :=
      match s.team? x.1.1 with
      | some tm => tm.live x.1.2 != 0
      | none => false
    if live then s.updGroup x.1.1 x.1.2 (fun gr => { gr with storeTraps := gr.storeTraps ++ [x.2] })
    else s.reportLoss ctx (({ cls := 0x10 } : TrapInfo).word 0 false 0) x.2 0) s

end Sys2Proof.Machine
end

