-- ==== Sys2Proof/Machine/LoadStore.lean ====
section
/-!
DEFINITION. Loads, stores, prefetches, the atomic family and the decay instructions (R99 to R126, R137 to R141): addresses,
checks in the order of R101, holds, translation, and the requests they put in flight.
-/

namespace Sys2Proof.Machine

/-- One lane's access of a memory instruction. -/
structure LaneAcc where
  lane : Nat
  va : DWord
  data : Nat := 0
  cmp : Nat := 0
deriving DecidableEq, Repr

/-- The first lane whose address is not a multiple of the width (R101). -/
def misaligned (w : Nat) (ls : List LaneAcc) : Option LaneAcc := ls.find? (fun l => l.va.toNat % w != 0)

/-- Whether a local address lies in the team's reservation (R100): offset and partner bit. -/
def localOk (tm : Team) (w : Nat) (a : DWord) : Bool :=
  bits a 63 24 == 0 && decide (bits a 22 0 + w ≤ tm.lmem) && (!bit a 23 || tm.tandem)

/-- Whether a group on the second core of a tandem names its own memory as the partner's (R100, R202): the team's first
local memory is reached at L[23] = 0 by the first core and at L[23] = 1 by the second. -/
def onSecond (tm : Team) (grp : Nat) (a : DWord) : Bool := xor (tm.coreOf grp != tm.core) (bit a 23)

/-- A trap that an access takes before it is performed: it names the access kind, the lane and its address (R101, Table 20.2). -/
def laneTrap (cls : Nat) (k : AKind) (l : LaneAcc) (m : BitVec 64) : TrapInfo :=
  { cls := cls, kind := k.code, lane := l.lane, addr := l.va, lmask := m }

/-- Whether an acquire of the group is still to be performed (R106). -/
def State.acquiring (s : State) (team grp : Nat) : Bool :=
  s.reqs.any (fun r => r.team == team && r.grp == grp && r.acq && !r.performed)

/-- Whether some load of the group has no value yet. -/
def State.loadsWaiting (s : State) (team grp : Nat) : Bool :=
  s.reqs.any (fun r => r.team == team && r.grp == grp && !r.isStore && !r.performed)

/-- Stores of a group that are not acknowledged. -/
def State.groupStores (s : State) (team grp : Nat) : Bool :=
  s.reqs.any (fun r => r.isStore && r.team == team && r.grp == grp)

/-- What a release at a scope waits for beyond the loads of its group (R346, R357). -/
def State.storesAtScope (s : State) (tm : Team) (team grp scope : Nat) : Bool :=
  if scope ≤ 1 then true
  else if scope = 2 then !(tm.tandem && s.groupStores team grp)
  else !s.groupStores team grp && !s.storesBefore (tm.coreOf grp) s.nextInstr

/-- The partition of a core that a group lies in (R211). -/
def Group.partition (gr : Group) : Nat := gr.hw % 4

/-- The first address of each distinct 4 KiB page translated, by page number; or the state while a table is on its way home (R72).
`dirty`: the pages that are written now (R66); with `stop`, none after the first that fails. -/
def State.translatePages (s : State) (core : Nat) (part : Option Nat) (ctx : Nat) (k : AKind) (dirty : Nat → Bool) (stop : Bool) :
    List Nat → Except State (List (Nat × Except TFault Target) × State)
  | [] => .ok ([], s)
  | pg :: ps =>
    match s.translate core part ctx k (BitVec.ofNat 64 (4096 * pg)) (dirty pg) with
    | .error (.wait s) => .error s
    | .error (.fault f) =>
      (State.translatePages s core part ctx k (fun p => dirty p && !stop) stop ps).map (fun r => ((pg, .error f) :: r.1, r.2))
    | .ok (t, s) => (State.translatePages s core part ctx k dirty stop ps).map (fun r => ((pg, .ok t) :: r.1, r.2))

/-- Lanes translated, once for each distinct page (R72): those that translate with their targets, and those that fail. `now`: the lanes
that are performed now, if they translate. -/
def State.translateAll (s : State) (core : Nat) (part : Option Nat) (ctx : Nat) (k : AKind) (ls : List LaneAcc)
    (now : LaneAcc → Bool := fun _ => true) (stop : Bool := false) :
    Except State (List (LaneAcc × Target) × List (LaneAcc × TFault) × State) :=
  let dirty (pg : Nat) : Bool := ls.any (fun l => now l && l.va.toNat / 4096 == pg)
  (s.translatePages core part ctx k dirty stop (ls.map (fun l => l.va.toNat / 4096)).eraseDups).map
    (fun (r : List (Nat × Except TFault Target) × State) =>
    (ls.filterMap (fun l =>
        match look r.1 (l.va.toNat / 4096) with
        | some (.ok t) => some (l, { t with pa := t.pa + l.va.toNat % 4096 })
        | _ => none),
      ls.filterMap (fun l => match look r.1 (l.va.toNat / 4096) with | some (.error f) => some (l, f) | _ => none),
      r.2))

/-- What a memory instruction has in common for all its lanes. -/
structure MemSpec where
  w : Nat
  op : MemOp
  scope : Nat := 0
  acq : Bool := false
  rel : Bool := false
  counts : Bool := false
  closes : Bool := false
  /-- The guarded lanes; and whether one access serves them all, standing in the program order of each (R354). -/
  guard : BitVec 64 := 0
  one : Bool := false
deriving DecidableEq, Repr

/-- The request of one lane. -/
def mkReq (is : Issue) (tm : Team) (m : MemSpec) (instr : Nat) (l : LaneAcc) (t : Target) (dsts : List LaneDst) : Req :=
  { instr := instr, ctx := tm.ctx, core := tm.coreOf is.grp, team := is.team, grp := is.grp, lane := l.lane, op := m.op,
    va := l.va, tgt := t, w := m.w, data := l.data, cmp := l.cmp, dsts := dsts, scope := m.scope, acq := m.acq,
    rel := m.rel, counts := m.counts && !(tm.group is.grp).partSaved, epc := is.pc,
    lanes := if m.one then m.guard else BitVec.ofNat 64 (2 ^ l.lane), guard := m.guard, repidx := (tm.group is.grp).repidx
    seg := if m.w = 16 || dsts.any (·.lane.isNone) then 0 else (tm.group is.grp).lcount.toNat }

/-- The instruction number of the word at issue: its own where it was partly performed before (R108), else the next. -/
def instrNo (s : State) (gr : Group) : Nat := gr.partInstr.getD s.nextInstr

/-- Lanes still to be performed: those not performed before a fault held the word (R108, R391). -/
def Group.remaining (gr : Group) (m : BitVec 64) : BitVec 64 := m &&& ~~~gr.lanesDone

/-- The counter goes up when an instruction of R112 first issues. -/
def Group.startLoad (gr : Group) (counts : Bool) : Group :=
  if counts && gr.partInstr.isNone then { gr with loads := gr.loads + 1 } else gr

/-- Whether a side log holds an entry that a release of a group waits for (R126): entries of the group at group scope, else those of
its team, of a tandem team on both cores. -/
def State.covered (s : State) (tm : Team) (team grp scope : Nat) : Bool :=
  if scope = 1 then s.logHas (tm.coreOf grp) team (some grp)
  else if tm.tandem then s.logHas tm.core team none || s.logHas (tm.core + 1) team none
  else s.logHas (tm.coreOf grp) team none

/-- Whether a release to global memory enters the log behind entries (R126): those that lie in a log now. -/
def State.behindLog (s : State) (tm : Team) (team grp scope : Nat) : Bool :=
  (if scope = 1 || !tm.tandem then [tm.coreOf grp] else [tm.core, tm.core + 1]).any (fun c =>
    (s.core c).slog.any (fun e => e.team == team && (scope != 1 || e.grp == grp)))

/-- The holds that a global access checks before it issues, in this order: an acquire in flight, room in the load counter,
covered side-log entries of a release that waits, a core-scope release behind loads, and pending lines (R106, R112, R124,
R126, R357). `waits`: the release waits for the side log instead of entering it. -/
def State.memHold (s : State) (is : Issue) (tm : Team) (gr : Group) (m : MemSpec) (waits : Bool) (ls : List LaneAcc) :
    Option Hold :=
  let core := tm.coreOf is.grp
  let lines := ls.map (fun l => l.va.toNat / 128)
  if s.acquiring is.team is.grp then some .acquire
  else if m.counts && gr.partInstr.isNone && decide (32 ≤ gr.loads) then some .loads
  else if m.rel && waits && s.covered tm is.team is.grp m.scope then
    some (.sideEmpty (m.scope != 1))
  else if m.rel && m.scope == 2 && s.loadsWaiting is.team is.grp then some .loadsDone
  else if waits && lines.any (fun x => ((s.core core).logLines tm.ctx).contains x) then some (.sideLines lines)
  else none

/-- The end of a held access: performed lanes are remembered, and the word is tried again for the others when the module
kernel resolves the fault (R108). -/
def State.faultLanes (s : State) (is : Issue) (k : AKind) (instr : Nat) (done : List Nat) (f : LaneAcc × TFault)
    (m : BitVec 64) (closes : Bool) : State :=
  let s := s.updGroup is.team is.grp (fun gr =>
    if done.isEmpty && gr.lanesDone == 0 then gr
    else { gr with lanesDone := gr.lanesDone ||| maskOf (fun l => done.contains l), partInstr := some instr, partCloses := closes })
  s.faultIssue is (f.2.info k f.1.lane f.1.va m)

/-- Requests that load one 32-byte sector each: the lanes whose bytes lie in it (R111). -/
def sectorLoads (is : Issue) (tm : Team) (m : MemSpec) (instr : Nat) (dst : LaneAcc → Nat → List LaneDst) :
    List (LaneAcc × Target) → List Req → List Req
  | [], acc => acc
  | (l, t) :: r, acc =>
    let base := { t with pa := t.pa / 32 * 32 }
    let ds := dst l (t.pa % 32)
    let acc :=
      if acc.any (fun q => q.tgt == base) then
        acc.map (fun q =>
          if q.tgt == base then { q with dsts := q.dsts ++ ds, lanes := q.lanes ||| BitVec.ofNat 64 (2 ^ l.lane) } else q)
      else acc ++ [{ (mkReq is tm m instr l base ds) with w := 32 }]
    sectorLoads is tm m instr dst r acc

/-- The operation of a lane that has translated: a decay lane takes its class snapshot at its first translation (R131). -/
def State.laneOp (s : State) (gr : Group) (ctx : Nat) (op : MemOp) (lane : Nat) (t : Target) : MemOp :=
  (look gr.laneSnaps lane).getD (s.takeClass ctx op t)

/-- The class snapshots of the translated lanes of a decay instruction that are not performed yet, kept with its word (R131). -/
def State.keepSnaps (s : State) (is : Issue) (gr : Group) (ctx : Nat) (op : MemOp) (xs : List (LaneAcc × Target)) : State :=
  match op with
  | .decay _ _ =>
    s.updGroup is.team is.grp (fun g =>
      { g with laneSnaps := xs.foldl (fun l x => put l x.1.lane (s.laneOp gr ctx op x.1.lane x.2)) g.laneSnaps })
  | _ => s

/-- A global access that returns a value (R105, R106, R108, R116, R118, R131, R138). `dst l off` is where lane `l` puts the bytes
at offset `off` of what is read; `sectors`: plain loads, one request a sector. -/
def globalLoad (is : Issue) (tm : Team) (gr : Group) (m : MemSpec) (sectors : Bool) (g : BitVec 64) (ls : List LaneAcc)
    (dst : LaneAcc → Nat → List LaneDst) (s : State) : State :=
  match s.memHold is tm gr m true ls with
  | some h => s.holdIssue is h
  | none =>
    let k := m.op.kind
    match s.translateAll (tm.coreOf is.grp) (some gr.partition) tm.ctx k ls (stop := !sectors) with
    | .error s => s.holdIssue is .table
    | .ok (good, bad, s) =>
      let instr := instrNo s gr
      let s := if gr.partInstr.isSome then s else s.destine is true (ls.flatMap (fun l => (dst l 0).flatMap LaneDst.regs))
      -- an atomic performs its lanes in increasing order: those before the first that fails
      let now := if sectors then good else
        match bad.head? with
        | some f => good.filter (fun x => decide (x.1.lane < f.1.lane))
        | none => good
      let s := { s with nextInstr := max s.nextInstr (instr + 1) }
      let s := if now.isEmpty then s else s.updGroup is.team is.grp (fun gr => gr.startLoad m.counts)
      let s :=
        if sectors then (sectorLoads is tm m instr dst now []).foldl (fun s r => s.addLoad r) s
        else
          now.foldl (fun s x =>
            s.addWrite { (mkReq is tm m instr x.1 x.2 (dst x.1 0)) with op := s.laneOp gr tm.ctx m.op x.1.lane x.2 }) s
      match bad.head? with
      | some f =>
        (s.keepSnaps is gr tm.ctx m.op (good.filter (fun x => decide (f.1.lane < x.1.lane)))).faultLanes is k instr
          (now.map (·.1.lane)) f g m.closes
      | none => (s.updGroup is.team is.grp (fun gr => { gr with partInstr := none })).retire is m.closes

/-- Side-log entries for lanes of an instruction: one for each distinct 4 KiB virtual page, in lane order (R121). -/
def pageEntries (is : Issue) (tm : Team) (m : MemSpec) (instr : Nat) : List (SideLane × Nat) → List SideEntry → List SideEntry
  | [], acc => acc
  | (l, cause) :: r, acc =>
    let pg (x : DWord) : Nat := x.toNat / 4096
    let has (e : SideEntry) : Bool := e.lanes.any (fun y => pg y.va == pg l.va)
    let acc :=
      if acc.any has then
        acc.map (fun e => if has e then { e with lanes := e.lanes ++ [l], cause := max e.cause cause } else e)
      else
        acc ++ [{ seq := 0, instr := instr, ctx := tm.ctx, team := is.team, grp := is.grp, w := m.w, lanes := [l], scope := m.scope,
                  rel := m.rel, cause := cause, epc := is.pc, guard := m.guard, repidx := (tm.group is.grp).repidx, logged := instr }]
    pageEntries is tm m instr r acc

/-- Whether the lanes of a store write the whole of a lane's 32-byte sector between them (R86): aligned lanes of one width do so when
their distinct addresses add up to it. -/
def coversSector (w : Nat) (ls : List LaneAcc) (l : LaneAcc) : Bool :=
  ((ls.filter (fun y => y.va.toNat / 32 == l.va.toNat / 32)).map (·.va)).eraseDups.length * w == 32

/-- The requests of a store's lanes. -/
def storeReqs (is : Issue) (tm : Team) (gr : Group) (m : MemSpec) (instr : Nat) (ls : List LaneAcc) (xs : List (LaneAcc × Target))
    (s : State) : State :=
  xs.foldl (fun s x =>
    s.addWrite
      { (mkReq is tm m instr x.1 x.2 []) with
        op := s.laneOp gr tm.ctx m.op x.1.lane x.2, whole := m.op == .write && coversSector m.w ls x.1 })
    { s with nextInstr := max s.nextInstr (instr + 1) }

/-- A global store, reduction or decay update without a result (R109, R117, R121 to R126). Its entries enter the side log page by page
as it has room for them; the lanes that find none hold the group (R123). -/
def globalStore (is : Issue) (tm : Team) (gr : Group) (m : MemSpec) (g : BitVec 64) (ls : List LaneAcc) (s : State) :
    State :=
  match s.memHold is tm gr m false ls with
  | some h => s.holdIssue is h
  | none =>
    let core := tm.coreOf is.grp
    let k := m.op.kind
    let lines := (s.core core).logLines tm.ctx
    let behind := m.rel && s.behindLog tm is.team is.grp m.scope
    let queues (l : LaneAcc) : Bool := behind || lines.contains (l.va.toNat / 128)
    match s.translateAll core (some gr.partition) tm.ctx k ls (fun l => !queues l) with
    | .error s => s.holdIssue is .table
    | .ok (good, bad, s) =>
      let instr := instrNo s gr
      let queued := good.filter (fun x => queues x.1)
      let now := good.filter (fun x => !queues x.1)
      let mk (l : LaneAcc) (op : MemOp) : SideLane := ⟨l.lane, l.va, l.data, op, m.op == .write && coversSector m.w ls l⟩
      let es := pageEntries is tm m instr
        (bad.map (fun f => (mk f.1 ((look gr.laneSnaps f.1.lane).getD m.op), f.2.cause))
          ++ queued.map (fun x => (mk x.1 (s.laneOp gr tm.ctx m.op x.1.lane x.2), 0))) []
      let free := s.logFree core tm.ctx
      let report (s : State) : State :=
        match bad.head? with
        | some f => (s.memFault is.team is.grp is.pc (f.2.info k f.1.lane f.1.va g) .sideLog).1
        | none => s
      if es.length ≤ free then
        let s := ((storeReqs is tm gr m instr ls now s).addLog core es).updGroup is.team is.grp (fun gr => { gr with partInstr := none })
        (report s).retire is m.closes
      else
        match (if tm.ctx != 0 && ((look s.ctxs tm.ctx).getD {}).sideLimit == 0 then bad.head? else none) with
        | some f =>
          -- a limit of 0: a faulting store holds its group as a faulting load does (R123)
          ((storeReqs is tm gr m instr ls now s).keepSnaps is gr tm.ctx m.op queued).faultLanes is k instr (now.map (·.1.lane)) f g m.closes
        | none =>
          if free = 0 && now.isEmpty then (s.keepSnaps is gr tm.ctx m.op queued).holdIssue is .sideFull
          else
            let some_ := es.take free
            let done := now.map (·.1.lane) ++ some_.flatMap (fun e => e.lanes.map (·.lane))
            let s := ((storeReqs is tm gr m instr ls now s).addLog core some_).keepSnaps is gr tm.ctx m.op queued
            let s := s.updGroup is.team is.grp (fun gr =>
              { gr with lanesDone := gr.lanesDone ||| maskOf (fun l => done.contains l), partInstr := some instr
                        partCloses := m.closes })
            (if free = 0 then s else report s).holdIssue is .sideFull

/-! ### Local memory (R93 to R95, R107, R109) -/

/-- Granules touched by an access. -/
def granules (off w : Nat) : List Nat := (List.range ((off % 16 + w + 15) / 16)).map (fun j => off / 16 + j)

/-- A local load: performed at issue, or, with a waiting qualifier, when its granules are full. Its requests name aperture 1, which no
global target has. An acquire at device scope or wider empties L1 (R357). -/
def localLoad (is : Issue) (tm : Team) (gr : Group) (m : MemSpec) (wait clear : Bool) (ls : List LaneAcc)
    (dst : LaneAcc → Nat → List LaneDst) (s : State) : State :=
  if s.acquiring is.team is.grp then s.holdIssue is .acquire
  else if decide (32 ≤ gr.loads) then s.holdIssue is .loads
  else
    let instr := s.nextInstr
    let s := { (s.destine is true (ls.flatMap (fun l => (dst l 0).flatMap LaneDst.regs))) with nextInstr := instr + 1 }
    let s := if ls.isEmpty then s else s.updGroup is.team is.grp (fun gr => gr.startLoad m.counts)
    let reqs := ls.map (fun l =>
      let second := onSecond tm is.grp l.va
      let off := bits l.va 22 0
      let lm := if second then tm.lm1 else tm.lm0
      let r := mkReq is tm m instr l { ap := 1, pa := off } (dst l 0)
      { r with
        partner := second, clear := clear, noFill := true,
        state := if wait then .waitFull else .done (Memory.read lm.bytes off m.w) })
    let s := if m.acq && decide (3 ≤ m.scope) && !wait then s.flushFor is.team (tm.coreOf is.grp) else s
    ({ s with reqs := s.reqs ++ reqs }).retire is clear

/-- A local store: its lanes are performed in increasing order; `.sf` then sets the granules full (R94, R109). -/
def localStore (is : Issue) (tm : Team) (m : MemSpec) (setFull : Bool) (ls : List LaneAcc) (s : State) : State :=
  if s.acquiring is.team is.grp then s.holdIssue is .acquire
  else if m.rel && s.covered tm is.team is.grp m.scope then s.holdIssue is (.sideEmpty (m.scope != 1))
  else if m.rel && decide (2 ≤ m.scope) && s.loadsWaiting is.team is.grp then s.holdIssue is .loadsDone
  else if m.rel && !s.storesAtScope tm is.team is.grp m.scope then s.holdIssue is (.fence m.scope)
  else
    let one (tm : Team) (l : LaneAcc) : Team :=
      let off := bits l.va 22 0
      let upd (lm : LocalMem) : LocalMem :=
        { bytes := Memory.write lm.bytes off m.w l.data,
          full := if setFull then (granules off m.w).foldl (fun f x => Sparse.set false f x true) lm.full else lm.full }
      if onSecond tm is.grp l.va then { tm with lm1 := upd tm.lm1 } else { tm with lm0 := upd tm.lm0 }
    (s.updTeam is.team (fun tm => ls.foldl one tm)).retire is false

/-! ### Effective addresses (R99) -/

/-- How a memory instruction forms its addresses. -/
structure EaSpec where
  /-- The base: a pair in global space, one register in local space. -/
  base : Src
  /-- A byte displacement. -/
  disp : DWord := 0
  /-- The index register of LR with X = 1, scaled by the width. -/
  index : Option Nat := none
  w : Nat
deriving DecidableEq, Repr

/-- The effective address of a lane. -/
def EaSpec.addr (e : EaSpec) (k : Snap) (l : Nat) : DWord :=
  let idx : DWord :=
    match e.index with
    | some n => ((k.vec l n).signExtend 64) * BitVec.ofNat 64 e.w
    | none => 0
  e.base.read k l + e.disp + idx

/-- Whether the registers of an address lie in the reservation. -/
def EaSpec.inRange (e : EaSpec) (tm : Team) : Bool :=
  e.base.inRange tm.nv tm.ns && (match e.index with | some n => decide (n < tm.nv) | none => true)

/-- Whether one address serves the whole group (R105). -/
def EaSpec.uniform (e : EaSpec) : Bool :=
  (match e.base with | .s _ | .sp _ => true | _ => false) && e.index.isNone

/-- Width in bytes and signedness of a load type, T1 codes 0 to 7 (Table 3.4). -/
def memType (t1 : Nat) : Nat × Bool := (2 ^ (t1 % 4), decide (t1 < 4))

/-- What a load needs beyond its address (Table 6.2). -/
structure LoadSpec where
  w : Nat
  signed : Bool := false
  isLocal : Bool := false
  /-- 0 none, 1 `.fw`, 2 `.fwc`. -/
  fe : Nat := 0
  scope : Nat := 0
deriving DecidableEq, Repr

/-- `ld` (R105 to R108): one access a lane, or one for the group when the address is one for the group or the destination
is scalar. -/
def execLoad (g : Nat) (d : Dst) (e : EaSpec) (p : LoadSpec) (s : State) : Out :=
  withIssue s fun is tm gr =>
    let m := is.guarded g
    if !(d.inRange tm.nv tm.ns && e.inRange tm) then .next (s.trap is { regRange with lmask := m })
    else
      let lanes := lanesOf m
      let one := d.isScalar || e.uniform
      let accs := (if one then lanes.take 1 else lanesOf (gr.remaining m)).map (fun l =>
        ({ lane := l, va := e.addr is.snap l } : LaneAcc))
      match misaligned p.w accs with
      | some l => .next (s.trap is (laneTrap 0x02 .load l m))
      | none =>
        let reg := match d with | .v n | .s n | .vp n | .sp n => n
        let dst (l : LaneAcc) (off : Nat) : List LaneDst :=
          if d.isScalar then [⟨none, off, p.w, reg, p.signed⟩]
          else if e.uniform then lanes.map (fun x => ⟨some x, off, p.w, reg, p.signed⟩)
          else [⟨some l.lane, off, p.w, reg, p.signed⟩]
        let ms : MemSpec := { w := p.w, op := .read, scope := p.scope, acq := p.scope != 0, counts := true, guard := m, one := one }
        if p.isLocal then
          match accs.find? (fun l => !localOk tm p.w l.va) with
          | some l => .next (s.trap is (laneTrap 0x03 .load l m))
          | none => .next (localLoad is tm gr ms (p.fe != 0) (p.fe == 2) accs dst s)
        else .next (globalLoad is tm gr ms true m accs dst s)

/-- `st` (R109): any combination of scalar and vector data and address. -/
def execStore (g : Nat) (data : Src) (e : EaSpec) (p : LoadSpec) (setFull : Bool) (s : State) : Out :=
  withIssue s fun is tm gr =>
    let m := is.guarded g
    if !(data.inRange tm.nv tm.ns && e.inRange tm) then .next (s.trap is { regRange with lmask := m })
    else
      let accs := (lanesOf (gr.remaining m)).map (fun l =>
        ({ lane := l, va := e.addr is.snap l, data := (data.read is.snap l).toNat % 256 ^ p.w } : LaneAcc))
      match misaligned p.w accs with
      | some l => .next (s.trap is (laneTrap 0x02 .store l m))
      | none =>
        let ms : MemSpec := { w := p.w, op := .write, scope := p.scope, rel := p.scope != 0, guard := m }
        if p.isLocal then
          match accs.find? (fun l => !localOk tm p.w l.va) with
          | some l => .next (s.trap is (laneTrap 0x03 .store l m))
          | none => .next (localStore is tm ms setFull accs s)
        else .next (globalStore is tm gr ms m accs s)

/-- The line of a prefetch (R110): one of a peer region is fetched into its L2 slice, and what memory or the slice holds goes into L1
unless the prefetch is for the slice alone. A line that a recall, a migration, an uncorrectable sector or a store on its way keeps
from being read now is not brought in. -/
def State.prefetch (s : State) (core ctx : Nat) (l2 : Bool) (t : Target) : State :=
  let line := { t with pa := t.pa / 128 * 128 }
  if !t.cacheable then s
  else if t.ap != 0 && (look s.peerLines (peerKey t.ap t.pa / 128)).isNone then
    if (s.peerCause ctx t.ap).isSome then s else s.fetch ctx t.ap line.pa
  else if l2 || (t.ap == 0 && (s.away t.pa != .here || s.poisoned line.pa 128))
      || s.reqs.any (fun r => r.core == core && !r.readOnly && r.tgt.meets t && decide (r.tgt.pa / 128 = t.pa / 128)) then s
  else
    (List.range 4).foldl (fun s j =>
      let key := sectorKey t.ap (line.pa + 32 * j)
      if (look (s.core core).l1 key).isSome then s
      else s.fillL1 core key (BitVec.ofNat 256 (s.rdAt t (line.pa + 32 * j) 32))) s

/-- `pref` (R110): a lane whose address is misaligned to 4 bytes traps; a lane that fails translation is dropped; the line
of the others is brought into L1, or with level 1 into the home slice only. -/
def execPref (g level : Nat) (e : EaSpec) (s : State) : Out :=
  withIssue s fun is tm gr =>
    let m := is.guarded g
    if !e.inRange tm then .next (s.trap is { regRange with lmask := m })
    else
      let accs := (lanesOf m).map (fun l => ({ lane := l, va := e.addr is.snap l } : LaneAcc))
      match misaligned 4 accs with
      | some l => .next (s.trap is (laneTrap 0x02 .load l m))
      | none =>
        match s.translateAll (tm.coreOf is.grp) (some gr.partition) tm.ctx .load accs with
        | .error s => .next (s.retire is)
        | .ok (good, _, s) => .next ((good.foldl (fun s x => s.prefetch (tm.coreOf is.grp) tm.ctx (level != 0) x.2) s).retire is)

/-! ### Meanings of `ld`, `st` and `pref` -/

/-- The address of an SI form: reg64(a) + sext(imm6) · 4 (R99). -/
def eaSI (a i : BitVec 6) (scale : Nat) (w : Nat) : EaSpec :=
  { base := .vp a.toNat, disp := (i.signExtend 64) * BitVec.ofNat 64 scale, w := w }

/-- The address of an LI form: reg64(a) + sext(imm32). -/
def eaLI (o : LI) : EaSpec := { base := srcOf o.k true o.a.toNat, disp := o.imm.signExtend 64, w := 4 }

/-- The address of an LR form: a displacement of c · w, or an index register (R99). -/
def eaLR (o : LR) (isLocal : Bool) (w : Nat) : EaSpec :=
  { base := srcOf o.ka (!isLocal) o.a.toNat,
    disp := if o.x then 0 else BitVec.ofNat 64 (o.c.toNat * w),
    index := if o.x then some o.c.toNat else none, w := w }

/-- `ld` SI: global `.z32` (R103). -/
def execLdSi (g : BitVec 2) (d a i : BitVec 6) (s : State) : Out :=
  execLoad g.toNat (.v d.toNat) (eaSI a i 4 4) { w := 4 } s

/-- `ld` LR and LI (R103 to R107). -/
def execLdL (o : Long) (s : State) : Out :=
  match o with
  | .li o => execLoad o.g.toNat (dstOf o.k false o.d.toNat) (eaLI o) { w := 4 } s
  | .lr o =>
    let (w, sg) := memType o.t1.toNat
    let loc := o.t2.getLsbD 3
    execLoad o.g.toNat (dstOf o.kd (w == 8) o.d.toNat) (eaLR o loc w)
      { w := w, signed := sg, isLocal := loc, fe := o.t2.toNat % 8, scope := o.rm.toNat } s

/-- `st` SI: global `.z32` (R103). -/
def execStSi (g : BitVec 2) (d a i : BitVec 6) (s : State) : Out :=
  execStore g.toNat (.v d.toNat) (eaSI a i 4 4) { w := 4 } false s

/-- `st` LR and LI (R103, R109). -/
def execStL (o : Long) (s : State) : Out :=
  match o with
  | .li o => execStore o.g.toNat (srcOf o.k false o.d.toNat) (eaLI o) { w := 4 } false s
  | .lr o =>
    let (w, _) := memType o.t1.toNat
    let loc := o.t2.getLsbD 3
    execStore o.g.toNat (srcOf o.kd (w == 8) o.d.toNat) (eaLR o loc w)
      { w := w, isLocal := loc, scope := o.rm.toNat } (o.t2.toNat % 8 == 1) s

/-- `pref` SI (R103, R110). -/
def execPrefSi (g : BitVec 2) (l a i : BitVec 6) (s : State) : Out :=
  execPref g.toNat l.toNat (eaSI a i 4 4) s

/-- `pref` LR and LI (R103, R110). -/
def execPrefL (o : Long) (s : State) : Out :=
  match o with
  | .li o => execPref o.g.toNat o.d.toNat (eaLI o) s
  | .lr o => execPref o.g.toNat o.d.toNat (eaLR o false 4) s

/-! ### The atomic family (R115 to R120) -/

/-- Kind of an atomic: acquire and release (Table 6.5). -/
def kindAcq (c : BitVec 8) : Bool := c.getLsbD 0
def kindRel (c : BitVec 8) : Bool := c.getLsbD 1

/-- The value of `n` consecutive registers as one number, the first lowest. -/
def regRunVal (k : Snap) (l : Nat) (scalar : Bool) (r : Nat) : Nat → Nat
  | 0 => 0
  | n + 1 => ((if scalar then k.sca r else k.vec l r).toNat) + 2 ^ 32 * regRunVal k l scalar (r + 1) n

/-- Whether registers r to r + n − 1 lie in the reservation. -/
def runOk (tm : Team) (scalar : Bool) (r n : Nat) : Bool := decide (r + n ≤ if scalar then tm.ns else tm.nv)

/-- An instruction of the atomic family with a result (`regs` registers at d) or without (R116 to R118). -/
def execAtomic (o : LR) (w : Nat) (op : MemOp) (ret : Bool) (s : State) : Out :=
  withIssue s fun is tm gr =>
    let m := is.guarded o.g.toNat
    let n := max 1 (w / 4)
    let base := srcOf o.ka true o.a.toNat
    if !(base.inRange tm.nv tm.ns && runOk tm o.kb o.b.toNat n && (!ret || runOk tm false o.d.toNat n)) then
      .next (s.trap is { regRange with lmask := m })
    else
      let accs := (lanesOf (gr.remaining m)).map (fun l =>
        ({ lane := l, va := base.read is.snap l, data := regRunVal is.snap l o.kb o.b.toNat n % 256 ^ w,
           cmp := if ret then regRunVal is.snap l false o.d.toNat n % 256 ^ w else 0 } : LaneAcc))
      let bad (l : LaneAcc) : Bool := l.va.toNat % w != 0 || (op == .bfp && l.va.toNat % 128 / 4 == 0)
      match accs.find? bad with
      | some l => .next (s.trap is (laneTrap 0x02 op.kind l m))
      | none =>
        let ms : MemSpec :=
          { w := w, op := op, scope := o.rm.toNat, acq := kindAcq o.c, rel := kindRel o.c, counts := ret, closes := true, guard := m }
        let dst (l : LaneAcc) (off : Nat) : List LaneDst := [⟨some l.lane, off, w, o.d.toNat, false⟩]
        if ret then .next (globalLoad is tm gr ms false m accs dst s)
        else .next (globalStore is tm gr ms m accs s)

/-- `atom` (R116). -/
def execAtomL (o : LR) (s : State) : Out :=
  execAtomic o (atomWidth o.t1.toNat) (.atom o.t2.toNat o.t1.toNat o.x true) true s

/-- `red`, and with X = 1 the BFP32 add (R117). -/
def execRedL (o : LR) (s : State) : Out :=
  if o.x then execAtomic o 4 .bfp false s
  else execAtomic o (atomWidth o.t1.toNat) (.atom o.t2.toNat o.t1.toNat false false) false s

/-- `cas` (R118). -/
def execCasL (o : LR) (s : State) : Out := execAtomic o 4 .cas true s
/-- `cas64` (R118). -/
def execCas64L (o : LR) (s : State) : Out := execAtomic o 8 .cas true s
/-- `cas128` (R118). -/
def execCas128L (o : LR) (s : State) : Out := execAtomic o 16 .cas true s

/-! ### Decay instructions (R137 to R141) -/

/-- The step and format that a decay instruction of a team carries; the class is taken when a lane translates (R131). -/
def decaySnap (s : State) (tm : Team) (de64 : Bool) : DecaySnap :=
  { de64 := de64, step := ((s.gridOf tm).map (·.odo)).getD 0 }

/-- `dld` (R138): one read a lane, or one for the group; `.ws` also returns the stamp. -/
def execDld (g : Nat) (d : Dst) (base : EaSpec) (de64 ws : Bool) (scope : Nat) (acq : Bool) (s : State) : Out :=
  withIssue s fun is tm gr =>
    let m := is.guarded g
    if !(d.inRange tm.nv tm.ns && base.inRange tm) then .next (s.trap is { regRange with lmask := m })
    else
      let lanes := lanesOf m
      let one := d.isScalar || base.uniform
      let w := if de64 then 8 else 4
      let accs := (if one then lanes.take 1 else lanesOf (gr.remaining m)).map (fun l =>
        ({ lane := l, va := base.addr is.snap l } : LaneAcc))
      match misaligned w accs with
      | some l => .next (s.trap is (laneTrap 0x02 .decay l m))
      | none =>
        let reg := match d with | .v n | .s n | .vp n | .sp n => n
        let rw := if ws then 8 else 4
        let dst (l : LaneAcc) (off : Nat) : List LaneDst :=
          if d.isScalar then [⟨none, off, rw, reg, false⟩]
          else if base.uniform then lanes.map (fun x => ⟨some x, off, rw, reg, false⟩)
          else [⟨some l.lane, off, rw, reg, false⟩]
        let ms : MemSpec :=
          { w := w, op := .decay .dld (decaySnap s tm de64), scope := scope, acq := acq, counts := true, guard := m, one := one }
        .next (globalLoad is tm gr ms false m accs dst s)

/-- `dst`, `dadd`, `dema` and `dmrg` (R138): the data of each lane, and its update. -/
def execDecayUpd (g : Nat) (op : DecayOp) (data : Src) (base : EaSpec) (de64 : Bool) (scope : Nat) (rel closes : Bool)
    (s : State) : Out :=
  withIssue s fun is tm gr =>
    let m := is.guarded g
    if !(data.inRange tm.nv tm.ns && base.inRange tm) then .next (s.trap is { regRange with lmask := m })
    else
      let w := if de64 then 8 else 4
      let accs := (lanesOf (gr.remaining m)).map (fun l =>
        ({ lane := l, va := base.addr is.snap l, data := (data.read is.snap l).toNat } : LaneAcc))
      match misaligned w accs with
      | some l => .next (s.trap is (laneTrap 0x02 .decay l m))
      | none =>
        let ms : MemSpec :=
          { w := w, op := .decay op (decaySnap s tm de64), scope := scope, rel := rel, closes := closes, guard := m }
        .next (globalStore is tm gr ms m accs s)

/-- The address of a decay LR form: reg64(a), no displacement (R137). -/
def eaDecay (o : LR) : EaSpec := { base := srcOf o.ka true o.a.toNat, w := 8 }

/-- `dld` SI: DE64 at reg64(a) + sext(imm6) · 8 (R137). -/
def execDldSi (g : BitVec 2) (d a i : BitVec 6) (s : State) : Out :=
  execDld g.toNat (.v d.toNat) (eaSI a i 8 8) true false 0 false s
/-- `dld` LR; X = 1 is `.ws` (R138). -/
def execDldL (o : LR) (s : State) : Out :=
  execDld o.g.toNat (dstOf o.kd o.x o.d.toNat) (eaDecay o) (o.t2 == 1) o.x o.rm.toNat (kindAcq o.c) s
/-- `dst` SI: DE64 (R137). -/
def execDstSi (g : BitVec 2) (d a i : BitVec 6) (s : State) : Out :=
  execDecayUpd g.toNat .dst (.v d.toNat) (eaSI a i 8 8) true 0 false false s
/-- `dst` LR (R138). -/
def execDstL (o : LR) (s : State) : Out :=
  execDecayUpd o.g.toNat .dst (srcOf o.kd false o.d.toNat) (eaDecay o) (o.t2 == 1) o.rm.toNat (kindRel o.c) false s
/-- `dadd` (R138). -/
def execDaddL (o : LR) (s : State) : Out :=
  execDecayUpd o.g.toNat .dadd (srcOf o.kb false o.b.toNat) (eaDecay o) (o.t2 == 1) o.rm.toNat (kindRel o.c) true s
/-- `dema` (R138). -/
def execDemaL (o : LR) (s : State) : Out :=
  execDecayUpd o.g.toNat .dema (srcOf o.kb false o.b.toNat) (eaDecay o) (o.t2 == 1) o.rm.toNat (kindRel o.c) true s
/-- `dmrg`: the operand is one register for DE32, a pair for DE64 (R138). -/
def execDmrgL (o : LR) (s : State) : Out :=
  execDecayUpd o.g.toNat .dmrg (srcOf o.kb (o.t2 == 1) o.b.toNat) (eaDecay o) (o.t2 == 1) o.rm.toNat (kindRel o.c) true s

/-- Teams of a grid (Table 19.1). -/
def LRec.teams (d : List DWord) : Nat := dwBits d 1 39 20 + 1

/-- A grid runs until its last team has ended (R132). -/
def Grid.running (gd : Grid) : Bool := decide (gd.ended < LRec.teams gd.dws)

/-- Whether an advance of a tenant's odometer to `new` is refused (R133): some sweep range or running grid would fall too
far behind. -/
def State.advanceRefused (s : State) (ctx : Nat) (new : Word) : Bool :=
  let rs := (s.sweeps.filter (fun x => bit x.2 0 && bits x.2 12 7 == ctx)).map (·.2)
  let width (e : BitVec 128) : Nat :=
    if bit e 2 && bit (Sparse.get (0 : BitVec 128) ((look s.ctxs ctx).getD {}).classes (bits e 6 3)) 1 then 16 else 8
  let wmin := rs.foldl (fun w e => min w (width e)) 16
  rs.any (fun e => decide (2 ^ (width e - 3) < (new - BitVec.ofNat 32 (bits e 127 96)).toNat)) ||
  s.grids.any (fun g => g.2.ctx == ctx && g.2.running && decide (2 ^ (wmin - 3) < (new - g.2.odo).toNat))

/-- `odo.rd`: the tenant's odometer, long class (R141). -/
def execOdoRd (g : BitVec 2) (d : BitVec 6) (s : State) : Out :=
  execLanesOp (fun is => is.guarded g.toNat) true (.s d.toNat) []
    (fun s _ tm _ _ => ⟨(s.ctx tm.ctx).odometer.setWidth 64, []⟩) s

/-- `odo.adv`: 0 done or 1 busy; the advance is made at the hub as one step, and the region closes either way (R133,
R141). -/
def execOdoAdv (g : BitVec 2) (d n : BitVec 6) (s : State) : Out :=
  withIssue s fun is tm _ =>
    let m := is.guarded g.toNat
    if !(Dst.s d.toNat).inRange tm.nv tm.ns then .next (s.trap is { regRange with lmask := m })
    else if m = 0 then .next (s.retire is)
    else
      let new := (s.ctx tm.ctx).odometer + BitVec.ofNat 32 (n.toNat + 1)
      let busy := s.advanceRefused tm.ctx new
      let s := if busy then s else (s.updCtx tm.ctx (fun c => { c with odometer := new })).jlStep tm.ctx
      let s := s.giveResults is true [[(.s d.toNat, if busy then 1 else 0)]] true
      .next (s.retire is true)

end Sys2Proof.Machine
end

