-- ==== Sys2Proof/Machine/Engine.lean ====
section
/-!
DEFINITION. What the engines share: reads and writes of an engine in its context, engine faults, completion records,
barrier slots and local memory as an engine writes it (R148, R149, R150, R341, R342, R386).
-/

namespace Sys2Proof.Machine

/-- The number under which the hub keeps its own translations, beside those of the cores. -/
def hubCore : Nat := Config.cores

/-! ### Accesses of engines (R148) -/

/-- The address of an engine's access translated, in the core's TLB or the hub's. -/
def State.engTarget (s : State) (core ctx : Nat) (k : AKind) (va : DWord) : Except EStop (Target × State) :=
  match s.translate core none ctx k va with
  | .error (.wait s) => .error (.wait s)
  | .error (.fault f) => .error (.fault f.cause f.stage k va)
  | .ok x => .ok x

/-- An engine's read of `n` bytes of one line in a context (R148). -/
def State.engLoad (s : State) (w : Who) (core ctx : Nat) (va : DWord) (n : Nat) : Except EStop (Nat × State) :=
  match s.engTarget core ctx .engRead va with
  | .error e => .error e
  | .ok (t, s) =>
    if t.nowhere then .ok (0, s.log (.nonexistent ctx t.pa))
    else if t.ap = 0 then
      match s.away t.pa with
      | .recall m r => .error (.wait (s.recallToken m r))
      | .locked => .error (.wait s)
      | .moved ap pa => s.farRead w ctx ap pa n va
      | .here => if s.poisoned t.pa n then .error (.fault 0x21 0 .engRead va) else .ok (s.rd t.pa n, s)
    else if t.c then
      if (look s.peerLines (peerKey t.ap t.pa / 128)).isSome then .ok (s.rdAt t t.pa n, s)
      else
        match s.peerCause ctx t.ap with
        | some c => .error (.fault c 2 .engRead va)
        | none => .error (.wait (s.fetch ctx t.ap (t.pa / 128 * 128)))
    else s.farRead w ctx t.ap t.pa n va

/-- The line that an engine has written leaves L1 of its core and of the core's partner, so that what is ordered after the write at
core scope sees it (R150, R162, R295). The hub has none. -/
def State.engDrop (s : State) (core : Nat) (t : Target) : State :=
  if Config.cores ≤ core then s else (s.dropLine (core / 2 * 2) t).dropLine (core / 2 * 2 + 1) t

/-- An engine's write of `n` bytes of one line at a translated target: the address written in main memory, if it is there. A write to
a peer or to the host is sent. -/
def State.engPut (s : State) (w : Who) (core ctx : Nat) (t : Target) (va : DWord) (n v : Nat) : Except EStop (Option Nat × State) :=
  match (match t.kv with | some ea => s.kvWrite ctx ea t.pa | none => .ok (t.pa, s)) with
  | .error (.fault c stage k _) => .error (.fault c stage k va)
  | .error e => .error e
  | .ok (a, s) =>
  let t := { t with pa := a }
  let far (ap pa : Nat) : Except EStop (Option Nat × State) :=
    (s.farWrite ctx ap va (.engineWrite (w.at va) ctx ap pa n v)).map (fun s => (none, s))
  if t.nowhere then .ok (none, s.log (.nonexistent ctx t.pa))
  else if t.ap = 0 then
    match s.away t.pa with
    | .recall m r => .error (.wait (s.recallToken m r))
    | .locked => .error (.wait s)
    | .moved ap a => (far ap a).map (fun r => (r.1, r.2.engDrop core t))
    | .here => .ok (some t.pa, (s.wr t.pa n v).engDrop core t)
  else if t.c then
    if (look s.peerLines (peerKey t.ap t.pa / 128)).isSome then .ok (none, (s.wrAt t t.pa n v).engDrop core t)
    else
      match s.peerCause ctx t.ap with
      | some c => .error (.fault c 2 .engWrite va)
      | none => .error (.wait (s.fetch ctx t.ap (t.pa / 128 * 128)))
  else far t.ap t.pa

/-- One write of an engine that is ready to be made: where it goes, its address, width and value. -/
structure EngWrite where
  t : Target
  va : DWord
  n : Nat
  v : Nat
deriving DecidableEq, Repr

/-- A write translated, and what it needs brought here: a token that is out, a line of a peer region, a route (R79, R87, R172). -/
def State.engReady (s : State) (core ctx : Nat) (va : DWord) (n v : Nat) : Except EStop (EngWrite × State) :=
  match s.engTarget core ctx .engWrite va with
  | .error e => .error e
  | .ok (t, s) =>
    let ok (ap : Nat) : Except EStop (EngWrite × State) :=
      match s.peerCause ctx ap with
      | some c => .error (.fault c 2 .engWrite va)
      | none => .ok (⟨t, va, n, v⟩, s)
    if t.nowhere then .ok (⟨t, va, n, v⟩, s)
    else if t.ap = 0 then
      match s.away t.pa with
      | .recall m r => .error (.wait (s.recallToken m r))
      | .locked => .error (.wait s)
      | .moved ap _ => ok ap
      | .here => .ok (⟨t, va, n, v⟩, s)
    else if t.c then
      if (look s.peerLines (peerKey t.ap t.pa / 128)).isSome then .ok (⟨t, va, n, v⟩, s)
      else
        match s.peerCause ctx t.ap with
        | some c => .error (.fault c 2 .engWrite va)
        | none => .error (.wait (s.fetch ctx t.ap (t.pa / 128 * 128)))
    else ok t.ap

/-- The writes of a piece made ready, each cut where it crosses a 128-byte line; nothing is written while one waits. -/
def State.engPlan (s : State) (core ctx : Nat) : List (DWord × Nat × Nat) → Except EStop (List EngWrite × State)
  | [] => .ok ([], s)
  | (va, n, v) :: r =>
    let n1 := min n (128 - va.toNat % 128)
    match s.engReady core ctx va n1 (v % 256 ^ n1) with
    | .error e => .error e
    | .ok (x, s) =>
      match (if n1 = n then .ok ([], s)
        else (s.engReady core ctx (va + BitVec.ofNat 64 n1) (n - n1) (v / 256 ^ n1)).map (fun y => ([y.1], y.2)) :
          Except EStop (List EngWrite × State)) with
      | .error e => .error e
      | .ok (y, s) => (State.engPlan s core ctx r).map (fun z => (x :: y ++ z.1, z.2))

/-- Writes that are ready made in order: the ranges of main memory that they wrote. -/
def State.engPutAll (s : State) (w : Who) (core ctx : Nat) : List EngWrite → Except EStop (List (Nat × Nat) × State)
  | [] => .ok ([], s)
  | x :: r =>
    match s.engPut w core ctx x.t x.va x.n x.v with
    | .error e => .error e
    | .ok (a, s) => (State.engPutAll s w core ctx r).map (fun z => ((a.map (fun a => (a, x.n))).toList ++ z.1, z.2))

/-- The poison marks of the sectors that one command's or packet's writes touch (R86): cleared where the writes cover the sector, else
kept and logged for the context, once for each sector. -/
def State.settlePoison (s : State) (ctx : Nat) (ws : List (Nat × Nat)) : State :=
  let at_ (p i : Nat) : Bool := ws.any (fun w => decide (w.1 ≤ 32 * p + i) && decide (32 * p + i < w.1 + w.2))
  let hit := s.poison.filter (fun p => (List.range 32).any (at_ p))
  let whole (p : Nat) : Bool := (List.range 32).all (at_ p)
  { s with
    poison := s.poison.filter (fun p => !(hit.contains p && whole p))
    errLog := s.errLog ++ (hit.filter (fun p => !whole p)).map (fun p => .poisonWrite ctx (32 * p) .write) }

/-- Writes of an engine in a context (R148), as address, width and value. -/
def State.engStoreAll (s : State) (w : Who) (core ctx : Nat) (ws : List (DWord × Nat × Nat)) : Except EStop State :=
  match s.engPlan core ctx ws with
  | .error e => .error e
  | .ok (xs, s) => (s.engPutAll w core ctx xs).map (fun r => r.2.settlePoison ctx r.1)

/-- Several doublewords read by an engine. -/
def State.engLoadDws (s : State) (w : Who) (core ctx : Nat) (va : DWord) : Nat → Except EStop (List DWord × State)
  | 0 => .ok ([], s)
  | n + 1 =>
    match s.engLoad w core ctx va 8 with
    | .error e => .error e
    | .ok (v, s) => (State.engLoadDws s w core ctx (va + 8) n).map (fun r => (BitVec.ofNat 64 v :: r.1, r.2))

/-- An engine record on the module kernel's queue (R386), with its number. `kind`: 1 copy, 2 drain, 3 flow, 4 collective,
5 record read or DONE write of the hub. -/
def State.engineFault (s : State) (ctx core team grp kind id : Nat) (record : DWord) (cause stage : Nat) (k : AKind)
    (va : DWord) : State × Nat :=
  s.report
    { ctx := ctx, core := core, team := team, grp := grp,
      info := ({ cls := 0x30, detail := cause, stage := stage, kind := k.code } : TrapInfo).word 0 false 0, addr := va,
      mask := 0, what := .engine kind id, record := record }

/-- Whether the release that a completion write is may be performed (R149, R357): its core's older stores are performed where its scope asks
it, and a promotion that it clears or replaces is made. The hub, which has no core, puts no tag (DEDUCED, log entry 92). -/
def State.releaseReady (s : State) (core scope before : Nat) (t : Target) : Bool :=
  (decide (scope < 3) || !s.storesBefore core before) &&
    (match look s.promote (promoteKey t) with
     | none => true
     | some p =>
       !(decide (3 ≤ scope) || (scope == 2 && decide (core < Config.cores) && !(p.mod == s.modId.toNat && p.core == core))) || s.tagMade p)

/-- What that release does to the line's promote tag (R357). -/
def State.releaseTag (s : State) (core scope : Nat) (t : Target) : State :=
  let k := promoteKey t
  if 3 ≤ scope then { s with promote := del s.promote k }
  else if scope = 2 && decide (core < Config.cores) then
    { s with promote := put s.promote k { mod := s.modId.toNat, core := core, before := s.nextInstr } }
  else s

/-- A completion record updated (R149): BYTES, STATUS and RMASK written and 1 added to COUNT, as one operation at its home, which is
awaited where it is a peer or the host: a release at `scope`, of a core that issued instructions up to `before`. A record that is not
16-byte-aligned is not written. -/
def State.writeCompletion (s : State) (w : Who) (core ctx scope before : Nat) (addr : DWord) (status nbytes rmask : Nat) :
    Except EStop State :=
  let far (s : State) (ap pa : Nat) : Except EStop State :=
    match s.farWrite ctx ap addr (.completion (w.at addr) ctx ap pa status nbytes rmask) with
    | .ok s => .error (.wait s)
    | .error e => .error e
  if addr.toNat % 16 != 0 then .ok s
  else
    match s.sent w with
    | .waiting => .error (.wait s)
    | .refused c va => .error (refusal c .engWrite va)
    | .done => .ok (s.forget w)
    | .nothing =>
      match s.engTarget core ctx .engWrite addr with
      | .error e => .error e
      | .ok (t, s) =>
        let hi := nbytes % 2 ^ 32 + status % 256 * 2 ^ 40 + rmask % 2 ^ 16 * 2 ^ 48
        if !s.releaseReady core scope before t then .error (.wait s)
        else if t.ap != 0 && !t.c then far s t.ap t.pa
        else
          match (if t.ap = 0 && !t.nowhere then s.away t.pa else .here) with
          | .moved ap pa => far s ap pa
          | _ =>
            match s.engPut w core ctx t addr 16 ((s.rdAt t t.pa 8 + 1) % 2 ^ 64 + hi * 2 ^ 64) with
            | .error e => .error e
            | .ok (a, s) => .ok ((s.settlePoison ctx ((a.map (fun a => (a, 16))).toList)).releaseTag core scope t)

/-! ### Local memory and barrier slots as an engine reaches them -/

/-- Local memory of a team: the first core's, or the second core's of a tandem. -/
def Team.lm (tm : Team) (second : Bool) : LocalMem := if second then tm.lm1 else tm.lm0

/-- Local memory of a team, replaced. -/
def Team.setLm (tm : Team) (second : Bool) (x : LocalMem) : Team :=
  if second then { tm with lm1 := x } else { tm with lm0 := x }

/-- Whether reserved bits of a barrier slot are set (Table 17.1): such a slot is malformed, and is treated as one that is not
initialised (R7). -/
def slotReserved (v : Nat) : Bool := v / 2 ^ 100 % 2 ^ 28 != 0 || v / 2 ^ 56 % 2 ^ 8 != 0 || v / 2 % 2 ^ 31 != 0

/-- A slot step on the slot at an offset (R342), with whether the phase completed; none where it raises. An engine's step
never traps: it is discarded on a slot that is not initialised, and PEND wraps. -/
def slotStep (lm : LocalMem) (off da : Nat) (dp : Int) (engine : Bool) : Option (LocalMem × Bool) :=
  let v := Memory.read lm.bytes off 16
  let init := v / 2 ^ 44 % 2 ^ 12
  let arrc := v / 2 ^ 32 % 2 ^ 12
  let pend := intVal true 36 (v / 2 ^ 64 % 2 ^ 36) + dp
  if init = 0 || slotReserved v then (if engine then some (lm, false) else none)
  else if arrc < da then none
  else if !inRange true 36 pend && !engine then none
  else
    let p := wrapNat 36 pend
    let done := arrc - da == 0 && p == 0
    let rest := v - arrc * 2 ^ 32 - v / 2 ^ 64 % 2 ^ 36 * 2 ^ 64
    let v' := rest + (if done then init else arrc - da) * 2 ^ 32 + p * 2 ^ 64
    let v' := if done then (if v % 2 = 1 then v' - 1 else v' + 1) else v'
    some ({ lm with bytes := Memory.write lm.bytes off 16 v' }, done)

/-- A slot step of a team: a completed phase ends the waits of the groups held for it (R344). -/
def Team.slotOp (tm : Team) (second : Bool) (off da : Nat) (dp : Int) (engine : Bool) : Option Team :=
  match slotStep (tm.lm second) off da dp engine with
  | none => none
  | some (lm, flipped) =>
    let tm := tm.setLm second lm
    let ph := Memory.read lm.bytes off 1 % 2 == 1
    let wake (gr : Group) : Group :=
      match gr.hold with
      | some (.barrier sc a p) => if sc == second && a == off && p != ph then { gr with hold := some (.answered 0) } else gr
      | _ => gr
    some (if flipped then { tm with groups := tm.groups.map wake } else tm)

/-- An engine's count-down of a slot in a team's first local memory (R150). -/
def Team.countDown (tm : Team) (off n : Nat) : Team := (tm.slotOp false off 0 (-(n : Int)) true).getD tm

/-- Bytes written into a team's local memory. -/
def Team.putLocal (tm : Team) (second : Bool) (off n v : Nat) : Team :=
  let lm := tm.lm second
  tm.setLm second { lm with bytes := Memory.write lm.bytes off n v }

/-- Granules of a team's local memory set full (R94). -/
def Team.fill (tm : Team) (second : Bool) (gs : List Nat) : Team :=
  let lm := tm.lm second
  tm.setLm second { lm with full := gs.foldl (fun f g => Sparse.set false f g true) lm.full }

/-- The accesses that a group made before instruction `n` are all performed, its stores acknowledged and none of them in a side log, and so
are the stores that its core's buffer held then, which may be ordered before the instruction at core scope (R151, R358, R362, R363). -/
def State.earlierDone (s : State) (core team grp n : Nat) : Bool :=
  !s.storesBefore core n &&
  s.reqs.all (fun r => !(r.team == team && r.grp == grp && decide (r.instr < n)) || (r.performed && !r.isStore)) &&
  s.cores.all (fun c => c.2.slog.all (fun e => !(e.team == team && e.grp == grp && decide (e.instr < n))))

/-- The accesses before the instruction that started a command are performed; what no instruction started waits for none (R362). -/
def State.issuerDone (s : State) (o : Option Issuer) : Bool :=
  match o with
  | some i => s.earlierDone i.core i.team i.grp i.instr
  | none => true

/-- The word at issue as the one that starts a command. -/
def State.issuer (s : State) (is : Issue) (tm : Team) : Issuer :=
  { core := tm.coreOf is.grp, team := is.team, grp := is.grp, instr := s.nextInstr }

end Sys2Proof.Machine
end

