-- ==== Sys2Proof/Machine/Copy.lean ====
section
/-!
DEFINITION. The copy engine (08_copy_engine.md): issue of commands, the shape record, the start of a command, its pieces,
the quantising copy, multicast fills, panniers, and the end of a command.
-/

namespace Sys2Proof.Machine

/-! ### The shape record (Table 8.1) -/

namespace Shape

variable (d : List DWord)

def esz : Nat := dwBits d 2 55 53
def e : Nat := 2 ^ esz d
def zn : Nat := dwBits d 2 52 37
def yn : Nat := dwBits d 2 36 21
def xn : Nat := dwBits d 2 20 0
def ssz : Nat := dwBits d 3 63 32
def ssy : Nat := dwBits d 3 31 0
def dsz : Nat := dwBits d 4 63 32
def dsy : Nat := dwBits d 4 31 0
def rmask : Nat := dwBits d 5 57 42
def rcvbase : Nat := dwBits d 5 41 22
def pan : Nat := dwBits d 5 21 16
def rnd : Bool := dwBits d 5 15 15 == 1
def rot : Nat := dwBits d 5 14 13
def qsrc : Nat := dwBits d 5 12 12
def qfmt : Nat := dwBits d 5 11 9
def cscope : Nat := dwBits d 5 8 6
def ck : Nat := dwBits d 5 5 4
def dsp : Nat := dwBits d 5 3 2
def ssp : Nat := dwBits d 5 1 0
def src : DWord := d.getD 0 0
def dst : DWord := d.getD 1 0
def comp : DWord := d.getD 6 0
def scale : DWord := d.getD 7 0
def seed : DWord := d.getD 8 0
def step : Nat := dwBits d 9 31 0

/-- Elements of the tile. -/
def elems : Nat := xn d * yn d * zn d

/-- Elements of a rotation group (R157); 1 without rotation. -/
def rotLen : Nat := if rot d = 0 then 1 else 8 * 2 ^ rot d

/-- Elements moved as one unit: one, or for `cpy.q` a scale block or a rotation group. -/
def unit (kind : Nat) : Nat := if kind = 1 then max 32 (rotLen d) else 1

/-- Bytes of `n` destination elements. -/
def dbytes (kind n : Nat) : Nat := if kind = 1 then (if qfmt d = 3 then n / 2 else n) else n * e d

/-- Destination bytes of a unit, scales included (R155). -/
def unitBytes (kind : Nat) : Nat := dbytes d kind (unit d kind) + if kind = 1 then unit d kind / 32 else 0

/-- Destination bytes of the tile. -/
def tileBytes (kind : Nat) : Nat := elems d / unit d kind * unitBytes d kind

/-- The coordinates of an element. -/
def coords (i : Nat) : Nat × Nat × Nat := (i % xn d, i / xn d % yn d, i / (xn d * yn d))

/-- The source address of an element (R146). -/
def srcAddr (i : Nat) : DWord :=
  let (x, y, z) := coords d i
  src d + BitVec.ofNat 64 (z * ssz d + y * ssy d + x * e d)

/-- The destination address of an element. -/
def dstAddr (kind i : Nat) : DWord :=
  let (x, y, z) := coords d i
  dst d + BitVec.ofNat 64 (z * dsz d + y * dsy d + dbytes d kind x)

/-- The address of the scale of the block that holds an element (R155). -/
def scaleAddr (i : Nat) : DWord :=
  let (x, y, z) := coords d i
  scale d + BitVec.ofNat 64 ((z * yn d + y) * (xn d / 32) + x / 32)

/-- The extent of the source and of the destination from their first bytes. -/
def srcExtent : Nat := (zn d - 1) * ssz d + (yn d - 1) * ssy d + xn d * e d
def dstExtent (kind : Nat) : Nat := (zn d - 1) * dsz d + (yn d - 1) * dsy d + dbytes d kind (xn d)

/-- A malformed record (R147, R155, Table 8.3). So is one with an XN above 2^20: Table 8.1 gives the field 21 bits and the range 1 to 2^20,
and names no outcome of a value past it (DESIGN CHOICE, log entry 107). -/
def malformed (kind : Nat) : Bool :=
  let m := e d
  dwBits d 2 63 56 != 0 || dwBits d 5 63 58 != 0 || dwBits d 9 63 32 != 0
    || (List.range 6).any (fun i => d.getD (10 + i) 0 != 0)
    || decide (4 ≤ esz d) || xn d == 0 || decide (2 ^ 20 < xn d) || yn d == 0 || zn d == 0
    || ck d == 3 || dsp d == 3 || ssp d == 3
    || (ck d != 0 && (cscope d == 0 || decide (5 < cscope d)))
    || decide (2 ^ 32 ≤ m * elems d)
    || (src d).toNat % m != 0 || (dst d).toNat % m != 0
    || ssy d % m != 0 || ssz d % m != 0 || dsy d % m != 0 || dsz d % m != 0
    || (kind != 1 && (rnd d || rot d != 0 || qsrc d != 0 || qfmt d != 0 || scale d != 0 || seed d != 0 || step d != 0))
    || (kind != 2 && (rmask d != 0 || rcvbase d != 0))
    || (ssp d == 2 && dsp d == 2) || ((ssp d == 2 || dsp d == 2) && ck d != 1)
    || (kind == 1 && (qfmt d == 0 || decide (4 ≤ qfmt d) || xn d % 32 != 0 || xn d % rotLen d != 0
        || esz d != (if qsrc d = 0 then 2 else 1) || ssp d == 2 || dsp d == 2))
    || (kind == 2 && (dsp d != 1 || ssp d != 0 || bit (dst d) 23))

end Shape

/-! ### Issue (R154) -/

/-- Whether a command is with a core's engine: a save takes it out with its team, and it comes back with it (R152, R392). -/
def State.atEngine (s : State) (c : CopyCmd) : Bool := !c.saved || (s.team? c.team).any (fun tm => !tm.saved)

/-- Commands in a core's engine queue. -/
def State.copyQueue (s : State) (core : Nat) : Nat := (s.copies.filter (fun c => c.2.core == core && s.atEngine c.2)).length

/-- `cpy`, `cpy.q` and `cpy.mc` (R154): the record's pair, and the pairs that replace SRC and DST. -/
def execCopy (kind g : Nat) (a : Nat) (ov : Option (Nat × Nat)) (s : State) : Out :=
  withIssue s fun is tm gr =>
    let m := is.guarded g
    let regs := (Src.sp a) :: (match ov with | some (b, d) => [.sp b, .sp d] | none => [])
    let rec_ := (Src.sp a).read is.snap 0
    let core := tm.coreOf is.grp
    if !regs.all (Src.inRange tm.nv tm.ns) then .next (s.trap is { regRange with lmask := m })
    else if m = 0 then .next (s.retire is)
    else if tm.role is.grp != .copy then .next (s.trap is { cls := 0x05, lmask := m })
    else if rec_.toNat % 128 != 0 then .next (s.trap is { cls := 0x02, addr := rec_, lane := lowLane m, lmask := m })
    else if s.logHas core is.team (some is.grp) then .next (s.holdIssue is (.sideEmpty false))
    else if decide (16 ≤ gr.copyCnt) then .next (s.holdIssue is (.copyAtMost 15))
    else if decide (64 ≤ s.copyQueue core) then .next (s.holdIssue is .copyQueue)
    else
      let c : CopyCmd :=
        { core := core, ctx := tm.ctx, team := is.team, grp := is.grp, kind := kind, instr := s.nextInstr, recAddr := rec_,
          src := ov.map (fun o => (Src.sp o.1).read is.snap 0), dst := ov.map (fun o => (Src.sp o.2).read is.snap 0) }
      let s := s.updGroup is.team is.grp (fun gr => { gr with copyCnt := gr.copyCnt + 1 })
      .next ({ s with copies := s.copies ++ [(s.nextId, c)], nextId := s.nextId + 1, nextInstr := s.nextInstr + 1 }.retire is true)

/-- The LR form: X = 1 names pairs b and d that replace SRC and DST. -/
def execCopyL (kind : Nat) (o : LR) (s : State) : Out :=
  execCopy kind o.g.toNat o.a.toNat (if o.x then some (o.b.toNat, o.d.toNat) else none) s

/-- `cpy` SF. -/
def execCpySf (g : BitVec 2) (a : BitVec 6) (s : State) : Out := execCopy 0 g.toNat a.toNat none s
/-- `cpy` LR. -/
def execCpyL (o : LR) (s : State) : Out := execCopyL 0 o s
/-- `cpy.q` SF (R155). -/
def execCpyQSf (g : BitVec 2) (a : BitVec 6) (s : State) : Out := execCopy 1 g.toNat a.toNat none s
/-- `cpy.q` LR. -/
def execCpyQL (o : LR) (s : State) : Out := execCopyL 1 o s
/-- `cpy.mc` SF (R158). -/
def execCpyMcSf (g : BitVec 2) (a : BitVec 6) (s : State) : Out := execCopy 2 g.toNat a.toNat none s
/-- `cpy.mc` LR. -/
def execCpyMcL (o : LR) (s : State) : Out := execCopyL 2 o s

/-- `cpy.wait n` (R162). -/
def execCpyWait (g : BitVec 2) (n : BitVec 6) (s : State) : Out :=
  withIssue s fun is _ gr =>
    if is.guarded g.toNat = 0 then .next (s.retire is)
    else if decide (gr.copyCnt ≤ n.toNat) then .next (s.retire is)
    else .next (s.holdIssue is (.copyAtMost n.toNat))

/-- `cpy.poll` (R163): status and counter, long class, and the status cleared. -/
def execCpyPoll (g : BitVec 2) (d : BitVec 6) (s : State) : Out :=
  withIssue s fun is tm gr =>
    let m := is.guarded g.toNat
    if !(Dst.s d.toNat).inRange tm.nv tm.ns then .next (s.trap is { regRange with lmask := m })
    else if m = 0 then .next (s.retire is)
    else
      let v : Word := BitVec.ofNat 32 (gr.copyStatus.toNat * 256 + gr.copyCnt)
      let s := s.updGroup is.team is.grp (fun gr => { gr with copyStatus := 0 })
      .next ((s.giveResults is true [[(.s d.toNat, v)]] true).retire is true)

/-! ### The end of a command (R149, R150, R152) -/

/-- Fields of a pannier entry (Table 8.5). -/
def panV (e : BitVec 256) : Bool := bit e 0
def panTap (e : BitVec 256) : Nat := bits e 96 88
def panBase (e : BitVec 256) : Nat := bits e 135 97 * 2 ^ 12
def panLen (e : BitVec 256) : Nat := bits e 175 136
def panQuota (e : BitVec 256) : Nat := bits e 215 176
def panUsed (e : BitVec 256) : Nat := bits e 255 216

/-- A pannier entry with its USED replaced. -/
def panSetUsed (e : BitVec 256) (n : Nat) : BitVec 256 := BitVec.ofNat 256 (e.toNat % 2 ^ 216 + n % 2 ^ 40 * 2 ^ 216)

/-- A command replaced. -/
def State.setCopy (s : State) (id : Nat) (c : CopyCmd) : State :=
  { s with copies := s.copies.map (fun x => if x.1 = id then (id, c) else x) }

/-- Bytes written so far. -/
def CopyCmd.written (c : CopyCmd) : Nat :=
  let n := c.done.foldl (fun a r => a + r.2) 0 * Shape.unitBytes c.dws c.kind
  if Shape.dsp c.dws = 2 then min n c.limit else n

/-- A command taken off the engine: the group's counter falls, and the first status other than OK stays (R152). -/
def State.copyGone (s : State) (id : Nat) (c : CopyCmd) (status : Nat) : State :=
  let s := s.updGroup c.team c.grp (fun gr =>
    { gr with
      copyCnt := gr.copyCnt - 1,
      copyStatus := if gr.copyStatus = 0 then BitVec.ofNat 8 status else gr.copyStatus })
  { s with copies := s.copies.filter (fun x => x.1 != id) }

/-- The pieces of work of a copy command: the read of its record, its completion record, and the piece at a unit. -/
def copyRec (id : Nat) : Who := { kind := 1, id := id, part := 0 }
def copyComp (id : Nat) : Who := { kind := 1, id := id, part := 1 }
def copyWho (id first : Nat) : Who := { kind := 1, id := id, part := first + 2 }

/-- The completion record of a command written, and the command ended; or an engine fault that holds it (R149). -/
def State.copyComplete (s : State) (id : Nat) (c : CopyCmd) (status : Nat) : State :=
  if Shape.ck c.dws = 1 then
    match s.writeCompletion (copyComp id) c.core c.ctx (Shape.cscope c.dws) c.relAt (Shape.comp c.dws) status c.bytes c.excluded with
    | .ok s => s.copyGone id c status
    | .error (.wait s) => s.setCopy id { c with ending := some status, fault := none }
    | .error (.fault cause stage k va) =>
      let (s, rid) := (s.forget (copyComp id)).engineFault c.ctx c.core c.team c.grp 1 id c.recAddr cause stage k va
      s.setCopy id { c with ending := some status, fault := some rid }
  else s.copyGone id c status

/-- The teams whose slot a command counts down. The receivers that a `cpy.mc` excludes are not written, and their slots stay: R150 does not
say that they are counted down (DESIGN CHOICE, log entry 93). -/
def CopyCmd.slotTeams (c : CopyCmd) : List Nat := if c.kind = 2 then c.recv else [c.team]

/-- A command ends with a status (R149, R150, R240): its events are delivered, the slot receives what was not counted, then the completion object. -/
def State.copyEnd (s : State) (id : Nat) (c : CopyCmd) (status : Nat) : State :=
  let w := c.written
  let bytes :=
    if Shape.dsp c.dws = 2 then
      -- the longest row-major prefix written (R161)
      min (c.done.foldl (fun a r => if r.1 = a then a + r.2 else a) 0 * Shape.unitBytes c.dws c.kind) c.limit
    else w
  let s := (s.forgetAll (fun w => w.kind == 1 && w.id == id)).countEvents c.ctx none (c.evs.flatMap (·.2))
  let c := { c with bytes := bytes, stalled := [], started := true, evs := [], relAt := s.nextInstr }
  let left := if Shape.dsp c.dws = 1 then Shape.tileBytes c.dws c.kind - w else Shape.tileBytes c.dws c.kind
  let s :=
    if Shape.ck c.dws = 2 && decide (0 < left) && (Shape.comp c.dws).toNat % 16 == 0 then
      c.slotTeams.foldl (fun (s : State) t =>
        s.updTeam t (fun tm => if localOk tm 16 (Shape.comp c.dws) then tm.countDown (bits (Shape.comp c.dws) 22 0) left else tm)) s
    else s
  let s :=
    if Shape.dsp c.dws = 2 && decide (w < c.limit) then
      -- reserved bytes that were not written return to USED (R161)
      s.updCtx c.ctx (fun x =>
        let e := Sparse.get (0 : BitVec 256) x.panniers (Shape.pan c.dws)
        { x with panniers := Sparse.set (0 : BitVec 256) x.panniers (Shape.pan c.dws) (panSetUsed e (panUsed e - (c.limit - w))) })
    else s
  s.copyComplete id c status

/-- The status of a command all of whose bytes are written: the lower non-zero code of those that apply (Table 8.4). -/
def CopyCmd.finalStatus (c : CopyCmd) : Nat :=
  if Shape.dsp c.dws = 2 && decide (c.limit < Shape.tileBytes c.dws c.kind) then 2
  else if c.excluded != 0 then 5 else 0

/-! ### The start of a command (R146, R147, R152, R159, R161) -/

/-- Whether a local extent of a command lies in the issuing team's reservation (R148). -/
def extentOk (tm : Team) (a : DWord) (n : Nat) : Bool := localOk tm n a

/-- The receivers of `cpy.mc` (R158, R159): the teams written, and the mask of those excluded. -/
def State.receivers (s : State) (c : CopyCmd) (tm : Team) : List Nat × Nat :=
  let d := c.dws
  (List.range 16).foldl (fun (acc : List Nat × Nat) i =>
    if Shape.rmask d / 2 ^ i % 2 = 0 then acc
    else
      match s.teams.find? (fun t => t.2.ctx == tm.ctx && t.2.grid == tm.grid && t.2.index == Shape.rcvbase d + i) with
      | some (id, t) =>
        if t.core / 48 == c.core / 48 && extentOk t (Shape.dst d) (Shape.dstExtent d 2) then (acc.1 ++ [id], acc.2)
        else (acc.1, acc.2 + 2 ^ i)
      | none => (acc.1, acc.2 + 2 ^ i)) ([], 0)

/-- A command whose record has been read: its receivers, its checks, the local and pannier extents and the reservation. A multicast that
no receiver is left of reads no source and ends with BYTES 0, OK where its RMASK named none and PARTIAL where all are excluded
(DESIGN CHOICE, log entry 107). -/
def State.copyBegin (s : State) (id : Nat) (c : CopyCmd) (tm : Team) : State :=
  let d := c.dws
  let (recv, ex) := if c.kind = 2 then s.receivers c tm else ([], 0)
  let c := { c with recv := recv, excluded := ex }
  if Shape.malformed d c.kind then s.copyEnd id c 1
  else
    let srcOk := Shape.ssp d != 1 || extentOk tm (Shape.src d) (Shape.srcExtent d)
    let dstOk := Shape.dsp d != 1 || c.kind == 2 || extentOk tm (Shape.dst d) (Shape.dstExtent d c.kind)
    let sclOk := c.kind != 1 || Shape.dsp d != 1 ||
      extentOk tm (Shape.scale d) (Shape.yn d * Shape.zn d * (Shape.xn d / 32))
    let pan := Sparse.get (0 : BitVec 256) (s.ctx c.ctx).panniers (Shape.pan d)
    let side (a : DWord) (n : Nat) : Bool := panV pan && decide (a.toNat + n ≤ panLen pan)
    let panOk := (Shape.ssp d != 2 || side (Shape.src d) (Shape.srcExtent d)) &&
      (Shape.dsp d != 2 || side (Shape.dst d) (Shape.dstExtent d c.kind))
    if !(srcOk && dstOk && sclOk && panOk) then s.copyEnd id c 6
    else
      let size := Shape.tileBytes d c.kind
      let r := if Shape.dsp d = 2 then min size (panQuota pan - panUsed pan) else size
      let s :=
        if Shape.dsp d = 2 then
          s.updCtx c.ctx (fun x =>
            { x with
              panniers := Sparse.set (0 : BitVec 256) x.panniers (Shape.pan d) (panSetUsed pan (panUsed pan + r)) })
        else s
      let c := { c with limit := r }
      if r = 0 || (c.kind == 2 && recv.isEmpty) then s.copyEnd id c c.finalStatus else s.setCopy id c

/-- The oldest command of a core that has not started, or that waits to go on. -/
def State.nextCopy (s : State) (core : Nat) : Option (Nat × CopyCmd) :=
  s.copies.find? (fun c => c.2.core == core && (!c.2.started || c.2.parked) && c.2.fault.isNone && !c.2.saved)

/-- Commands of a core in progress. -/
def State.copiesRunning (s : State) (core : Nat) : Nat :=
  (s.copies.filter (fun c => c.2.core == core && c.2.started && !c.2.saved && !c.2.parked)).length

/-- The commands of a resumed context with their engines again: at most 8 of a core are in progress at once (R152). -/
def State.resumeCopies (s : State) (ctx : Nat) : State :=
  (s.copies.map (·.1)).foldl (fun (s : State) id =>
    match look s.copies id with
    | none => s
    | some c =>
      if c.ctx != ctx then s
      else s.setCopy id { c with saved := false, parked := c.started && c.ending.isNone && decide (8 ≤ s.copiesRunning c.core) }) s

/-- The copy engine of a core starts its next command and reads its shape record (R146, R152), from a
peer or the host by a READ of its own: nothing is taken from `_data`. -/
def execCopyStart (core : Nat) (_data : List Byte) (s : State) : Out :=
  match s.nextCopy core with
  | none => .next s
  | some (id, c) =>
    match s.team? c.team with
    | none => .next s
    | some tm =>
      if decide (8 ≤ s.copiesRunning core) || !s.earlierDone c.core c.team c.grp c.instr then .next s
      else if c.parked then .next (s.setCopy id { c with parked := false })
      else
        match s.engLoadDws (copyRec id) c.core c.ctx c.recAddr 16 with
        | .error (.wait s) => .next s
        | .error (.fault cause stage k va) =>
          let (s, rid) := (s.forget (copyRec id)).engineFault c.ctx c.core c.team c.grp 1 id c.recAddr cause stage k va
          .next (s.setCopy id { c with fault := some rid })
        | .ok (d, s) =>
          let s := s.forget (copyRec id)
          let d := match c.src with | some a => setAt d 0 a | none => d
          let d := match c.dst with | some a => setAt d 1 a | none => d
          let c := { c with dws := d, started := true }
          .next ((s.setCopy id c).copyBegin id c tm)

/-! ### The quantising copy (R155 to R157) -/

/-- The element format of `cpy.q`, its emax (R156). -/
def Shape.fmt (d : List DWord) : FFmt × Int :=
  match Shape.qfmt d with
  | 1 => (e4m3, 8)
  | 2 => (e5m2, 15)
  | _ => (e2m1, 2)

/-- One stage of the rotation: sums and differences at distance 2^s (R157), each element with the events of its arithmetic so far. -/
def rotStage (x : List (Nat × List Ev)) (s : Nat) : List (Nat × List Ev) :=
  x.mapIdx (fun i v =>
    let y (j : Nat) : Nat := (x.getD j (0, [])).1
    let neg (c : Nat) : Nat := Nat.xor c 0x80000000
    let r := if i / 2 ^ s % 2 = 0 then f32add (y i) (y (i + 2 ^ s)) else f32add (y (i - 2 ^ s)) (neg (y i))
    (r.code, v.2 ++ r.ev))

/-- A group of n = 16, 32 or 64 FP32 codes rotated (R157), each element with the events of its arithmetic (R238). -/
def rotate (n : Nat) (x : List Nat) : List (Nat × List Ev) :=
  let f := if n = 16 then 0x3E800000 else if n = 32 then 0x3E3504F3 else 0x3E000000
  ((List.range (Nat.log2 n)).foldl rotStage (x.map (fun c => (c, [])))).map (fun y =>
    let r := f32mul y.1 f
    (r.code, y.2 ++ r.ev))

/-- A list cut into runs of `n`. -/
def chunks {α : Type} (n : Nat) : Nat → List α → List (List α)
  | 0, _ => []
  | k + 1, x => if x.isEmpty then [] else x.take n :: chunks n k (x.drop n)

/-- floor(log2) of a finite non-zero value. -/
def FV.exponent : FV → Int
  | .fin _ m e => (Nat.log2 m : Int) + e
  | _ => 0

/-- A block of 32 FP32 codes converted (R156): scale code, the codes of the elements with the events of each, and the events of the block.
`draw i` is the random word of element `i`. -/
def quantBlock (fmt : FFmt) (emax : Int) (rs : Bool) (draw : Nat → Word) (x : List Nat) : Nat × List (Nat × List Ev) × List Ev :=
  let vs := x.map fp32.decode
  if vs.any (fun v => v.isNaN || v.isInf) then (0xFF, x.map (fun _ => (0, [])), [.invalid])
  else
    let amax := vs.foldl (fun a v => if a.cmp v.abs < 0 then v.abs else a) (FV.fin false 0 0)
    let k0 : Int := if amax.isZero then 0 else amax.exponent - emax
    let k := min 127 (max (-127) k0)
    let q := vs.zipIdx.map (fun v => fmt.round (if rs then .rs (draw v.2) else .rn) true (v.1.scale (-k)))
    (((k + 127).toNat), q.map (fun r => (r.code, r.ev)), if 127 < k0 then [.scale] else [])

/-! ### Pieces (R151) -/

/-- Whether a range of units overlaps another. -/
def rangesMeet (a b : Nat × Nat) : Bool := decide (a.1 < b.1 + b.2) && decide (b.1 < a.1 + a.2)

/-- A read of a command's source element: global, local or pannier. -/
def State.copyRead (s : State) (w : Who) (c : CopyCmd) (a : DWord) (n : Nat) : Except EStop (Nat × State) :=
  match Shape.ssp c.dws with
  | 0 => s.engLoad w c.core c.ctx a n
  | 1 =>
    match s.team? c.team with
    | some tm => .ok (Memory.read (tm.lm (onSecond tm c.grp a)).bytes (bits a 22 0) n, s)
    | none => .error (.wait s)
  | _ =>
    let pan := Sparse.get (0 : BitVec 256) (s.ctx c.ctx).panniers (Shape.pan c.dws)
    s.farRead w c.ctx (panTap pan) (panBase pan + a.toNat) n a

/-- Source elements read one by one. -/
def State.copyReadAll (s : State) (w : Who) (c : CopyCmd) : List Nat → Except EStop (List Nat × State)
  | [] => .ok ([], s)
  | i :: r =>
    match s.copyRead w c (Shape.srcAddr c.dws i) (Shape.e c.dws) with
    | .error e => .error e
    | .ok (v, s) => (State.copyReadAll s w c r).map (fun x => (v :: x.1, x.2))

/-- The source elements of a unit: as read before, where some of its bytes are written already (R151), or read now. -/
def State.copySource (s : State) (w : Who) (c : CopyCmd) (u : Nat) : Except EStop (List Nat × State) :=
  match look c.torn u with
  | some vs => .ok (vs, s)
  | none => s.copyReadAll w c ((List.range (Shape.unit c.dws c.kind)).map (fun i => u * Shape.unit c.dws c.kind + i))

/-- The writes of one unit, as address, width and value, and its events: of each element one of a class, and of each block (R156, R238). -/
def CopyCmd.unitWrites (c : CopyCmd) (u : Nat) (vs : List Nat) : List (DWord × Nat × Nat) × List Ev :=
  let d := c.dws
  let n := Shape.unit d c.kind
  if c.kind = 1 then
    let x := vs.map (fun v => if Shape.qsrc d = 1 then v * 2 ^ 16 else v)
    let rs := if Shape.rot d = 0 then x.map (fun v => (v, [])) else (chunks (Shape.rotLen d) n x).flatMap (rotate (Shape.rotLen d))
    let (fmt, emax) := Shape.fmt d
    let one (b : List (Nat × List Ev) × Nat) : List (DWord × Nat × Nat) × List Ev :=
      let first := u * n + 32 * b.2
      let (cx, cy, cz) := Shape.coords d first
      let draw (i : Nat) : Word :=
        gen (Shape.seed d) (BitVec.ofNat 32 (cz * Shape.yn d + cy)) (BitVec.ofNat 32 (cx + i)) (BitVec.ofNat 32 (Shape.step d))
      let (sc, els, ev) := quantBlock fmt emax (Shape.rnd d) draw (b.1.map (·.1))
      let w := if Shape.qfmt d = 3 then 4 else 8
      let v := els.zipIdx.foldl (fun a e => a + e.1.1 % 2 ^ w * 2 ^ (w * e.2)) 0
      ([(Shape.dstAddr d 1 first, 4 * w, v), (Shape.scaleAddr d first, 1, sc)],
        ev ++ (List.zipWith (fun r e => evClasses (r.2 ++ e.2)) b.1 els).flatten)
    let bs := (chunks 32 n rs).zipIdx.map one
    (bs.flatMap (·.1), bs.flatMap (·.2))
  else ([(Shape.dstAddr d c.kind u, Shape.e d, vs.headD 0)], [])

/-- The writes of a range of units, and their events. -/
def State.copyUnits (s : State) (w : Who) (c : CopyCmd) : List Nat → Except EStop ((List (DWord × Nat × Nat) × List Ev) × State)
  | [] => .ok (([], []), s)
  | u :: r =>
    match s.copySource w c u with
    | .error e => .error e
    | .ok (vs, s) =>
      let x := c.unitWrites u vs
      (State.copyUnits s w c r).map (fun y => ((x.1 ++ y.1.1, x.2 ++ y.1.2), y.2))

/-- Which local memory of its team a local address of a command lies in; `cpy.mc` writes that of the receiver's first core. -/
def CopyCmd.second (c : CopyCmd) (tm : Team) (a : DWord) : Bool := c.kind != 2 && onSecond tm c.grp a

/-- The local byte ranges that a unit writes in one of the team's local memories. -/
def CopyCmd.unitRanges (c : CopyCmd) (tm : Team) (second : Bool) (u : Nat) : List (Nat × Nat) :=
  ((c.unitWrites u (List.replicate (Shape.unit c.dws c.kind) 0)).1.filter (fun w => c.second tm w.1 == second)).map
    (fun w => (bits w.1 22 0, w.2.1))

/-- The granules of a local memory that a piece has completed (R151): every unit of the command that writes into the granule is
done. -/
def CopyCmd.filled (c : CopyCmd) (tm : Team) (second : Bool) (ws : List (DWord × Nat × Nat)) : List Nat :=
  let gs := ((ws.filter (fun w => c.second tm w.1 == second)).flatMap (fun w => granules (bits w.1 22 0) w.2.1)).eraseDups
  let units := List.range (Shape.elems c.dws / Shape.unit c.dws c.kind)
  gs.filter (fun g => units.all (fun u =>
    c.done.any (fun r => decide (r.1 ≤ u) && decide (u < r.1 + r.2)) ||
    !(c.unitRanges tm second u).any (fun r => (granules r.1 r.2).contains g)))

/-- Writes into a team's local memory. -/
def CopyCmd.putTeam (c : CopyCmd) (ws : List (DWord × Nat × Nat)) (tm : Team) : Team :=
  ws.foldl (fun tm w => tm.putLocal (c.second tm w.1) (bits w.1 22 0) w.2.1 w.2.2) tm

/-- A piece in a team's local memory: its bytes, the full bits, and the slot counted down (R94, R150). -/
def CopyCmd.intoTeam (c : CopyCmd) (ws : List (DWord × Nat × Nat)) (tm : Team) : Team :=
  let tm := c.putTeam ws tm
  let tm := (tm.fill false (c.filled tm false ws)).fill true (c.filled tm true ws)
  let n := ws.foldl (fun a w => a + w.2.1) 0
  if Shape.ck c.dws = 2 && (Shape.comp c.dws).toNat % 16 == 0 && localOk tm 16 (Shape.comp c.dws) then
    tm.countDown (bits (Shape.comp c.dws) 22 0) n
  else tm

/-- A pannier write cut at the reservation (R161): the bytes below the limit, row-major. -/
def CopyCmd.panWrites (c : CopyCmd) (first : Nat) (ws : List (DWord × Nat × Nat)) : List (DWord × Nat × Nat) :=
  ws.zipIdx.filterMap (fun w =>
    let at_ := (first + w.2) * w.1.2.1
    if c.limit ≤ at_ then none else some (w.1.1, min w.1.2.1 (c.limit - at_), w.1.2.2))

/-- The writes of a piece made at their destination (R148, R150, R158, R161). Writes to peers and to the host are sent, and awaited
afterwards. `c` counts the piece as done. -/
def State.copyWrite (s : State) (w : Who) (c : CopyCmd) (first : Nat) (ws : List (DWord × Nat × Nat)) : Except EStop State :=
  match Shape.dsp c.dws with
  | 0 => s.engStoreAll w c.core c.ctx ws
  | 1 => .ok ((if c.kind = 2 then c.recv else [c.team]).foldl (fun (s : State) t => s.updTeam t (c.intoTeam ws)) s)
  | _ =>
    let pan := Sparse.get (0 : BitVec 256) (s.ctx c.ctx).panniers (Shape.pan c.dws)
    (c.panWrites first ws).foldlM (fun (s : State) (x : DWord × Nat × Nat) =>
      s.farWrite c.ctx (panTap pan) x.1
        (.engineWrite (w.at x.1) c.ctx (panTap pan) (panBase pan + x.1.toNat) x.2.1 x.2.2)) s

/-- The leading units of a pannier piece whose bytes are acknowledged (R161). -/
def State.panAcked (s : State) (w : Who) (c : CopyCmd) (first count : Nat) : Nat :=
  ((List.range count).takeWhile (fun i =>
    s.engAns.any (fun e => e.write && e.status == 0 && e.who == w.at (Shape.dstAddr c.dws c.kind (first + i))))).length

/-- A piece that does not go on: it waits; or the command ends where a pannier's module refuses it or has no route left (R161); or an
engine record stops the piece (R153). -/
def State.copyStop (s : State) (id : Nat) (c : CopyCmd) (first count : Nat) : EStop → State
  | .wait s => s
  | .fault cause stage k va =>
    let w := copyWho id first
    let pannier := (Shape.dsp c.dws == 2 && k == .engWrite) || (Shape.ssp c.dws == 2 && k == .engRead)
    if pannier && (cause == 0x0B || cause == 0x0C) then
      let n := if Shape.dsp c.dws = 2 then s.panAcked w c first count else 0
      let c := if n = 0 then c else { c with done := c.done ++ [(first, n)] }
      let st := if cause = 0x0B then 4 else 3
      s.copyEnd id c (if Shape.dsp c.dws = 2 && decide (c.limit < Shape.tileBytes c.dws c.kind) then min 2 st else st)
    else
      let (s, rid) := (s.forget w).engineFault c.ctx c.core c.team c.grp 1 id c.recAddr cause stage k va
      s.setCopy id { c with stalled := c.stalled ++ [((first, count), rid)] }

/-- Units of a command that are written: all of them, or those of which a pannier has reserved a byte. -/
def CopyCmd.total (c : CopyCmd) : Nat :=
  let n := Shape.elems c.dws / Shape.unit c.dws c.kind
  if Shape.dsp c.dws = 2 then min n ((c.limit + Shape.e c.dws - 1) / Shape.e c.dws) else n

/-- Whether units [first, first + count) of a command may be written now. -/
def CopyCmd.open_ (c : CopyCmd) (first count : Nat) : Bool :=
  c.started && c.ending.isNone && c.fault.isNone && !c.saved && !c.parked && count != 0 && decide (first + count ≤ c.total)
    && !c.done.any (rangesMeet (first, count)) && !c.stalled.any (fun x => rangesMeet (first, count) x.1)
    && (Shape.dsp c.dws != 2 || first == c.done.foldl (fun a r => a + r.2) 0)

/-- The copy engine writes one piece: units [first, first + count) of a command (R151); or goes on with its completion record.
Peers and the host answer with responses (R170): nothing is taken from `_data` and `_answer`. -/
def execCopyPiece (id first count : Nat) (_data : List Byte) (_answer : Nat) (s : State) : Out :=
  match look s.copies id with
  | none => .next s
  | some c =>
    let w := copyWho id first
    let c' := { c with done := c.done ++ [(first, count)] }
    let finish (s : State) (c : CopyCmd) : State :=
      let s := (s.forget w).setCopy id c
      if c.done.foldl (fun a r => a + r.2) 0 = c.total then s.copyEnd id c c.finalStatus else s
    if let some st := (if c.fault.isSome || c.saved then none else c.ending) then .next (s.copyComplete id c st)
    else if !c.open_ first count then .next s
    else
      match s.sent w with
      | .waiting => .next s
      | .done => .next (finish s c')
      | .refused cause va => .next (s.copyStop id c first count (refusal cause .engWrite va))
      | .nothing =>
        match s.copyUnits w c ((List.range count).map (first + ·)) with
        | .error e => .next (s.copyStop id c first count e)
        | .ok (x, s1) =>
          match s1.copyWrite w c' first x.1 with
          | .error e => .next (s.copyStop id c first count e)
          | .ok s2 =>
            let evs := put c.evs first x.2
            if s2.sent w == .nothing then .next (finish s2 { c' with evs := evs })
            else .next (s2.setCopy id { c with evs := evs })

/-- Bytes of a list of writes, those whose position in it a mask selects. -/
def tornBytes (mask : Nat) (ws : List (DWord × Nat × Nat)) : List (DWord × Nat × Nat) :=
  let bs := ws.flatMap (fun w => (List.range w.2.1).map (fun i => (w.1 + BitVec.ofNat 64 i, 1, (byteOf w.2.2 i).toNat)))
  (bs.zipIdx.filter (fun b => mask / 2 ^ b.2 % 2 == 1)).map (·.1)

/-- Some bytes of a unit are written ahead of the rest: a tile has no atomicity (R151). They count as written only with their piece,
which carries the same source bytes. -/
def State.copyTear (s : State) (id u mask : Nat) : State :=
  match look s.copies id with
  | none => s
  | some c =>
    if !c.open_ u 1 || Shape.dsp c.dws == 2 || s.sent (copyWho id u) != .nothing then s
    else
      match s.copySource (copyWho id u) c u with
      | .error (.wait s) => s
      | .error _ => s
      | .ok (vs, s) =>
        let ws := tornBytes mask (c.unitWrites u vs).1
        let s := s.setCopy id { c with torn := put c.torn u vs }
        if Shape.dsp c.dws = 1 then
          (if c.kind = 2 then c.recv else [c.team]).foldl (fun (s : State) t => s.updTeam t (c.putTeam ws)) s
        else
          match s.engStoreAll {} c.core c.ctx ws with
          | .ok s => s
          | .error _ => s

end Sys2Proof.Machine
end

