-- ==== Sys2Proof/Machine/Queues.lean ====
section
/-!
DEFINITION. Launch queues and DONE records (R149, R370, R372): submitting a record, and the records that the hub writes when
a grid ends.
-/

namespace Sys2Proof.Machine

/-- A launch queue of a tenant. -/
def Ctx.queue (c : Ctx) (q : Nat) : Queue := (look c.queues q).getD {}

/-- A launch queue, updated. -/
def State.updQueue (s : State) (ctx q : Nat) (f : Queue → Queue) : State :=
  s.updCtx ctx (fun c => { c with queues := put c.queues q (f (c.queue q)) })

/-- A DONE job replaced, or removed. -/
def State.setDone (s : State) (id : Nat) (j : Option DoneJob) : State :=
  { s with
    doneJobs := s.doneJobs.filterMap (fun x => if x.1 = id then j.map (fun y => (id, y)) else some x) }

/-- The pieces of work of a DONE record: the read of its address, and its write. -/
def doneRead (id : Nat) : Who := { kind := 5, id := id, part := 0 }
def doneWrite (id : Nat) : Who := { kind := 5, id := id, part := 1 }

/-- DONE and DSCOPE of a launch record, where the hub reads them apart from the rest of it (R370). Where DONE can be read and DSCOPE cannot,
the release is at the widest scope, which is one at every other (DESIGN CHOICE, log entry 102). -/
def State.doneField (s : State) (w : Who) (ctx : Nat) (record : DWord) : Except EStop (Nat × Nat × State) :=
  match s.engLoad w hubCore ctx (record + 56) 8 with
  | .error e => .error e
  | .ok (v, s) =>
    match s.engLoad w hubCore ctx (record + 24) 8 with
    | .ok (d, s) => .ok (v, d / 2 ^ 18 % 8, s)
    | .error (.wait s) => .error (.wait s)
    | .error _ => .ok (v, 5, s)

/-- A DONE or collective record written by the hub (R149, R372): at once, or later where an engine fault, an answer or a recall holds
it. For a record submitted to a disabled queue the DONE field is read first (R370). -/
def State.tryDone (s : State) (id : Nat) (j : DoneJob) : State :=
  let stop (s : State) (e : EStop) (j : DoneJob) : State :=
    match e with
    | .wait s => s.setDone id (some j)
    | .fault cause stage k va =>
      let s := s.forgetAll (fun w => w.kind == 5 && w.id == id)
      let (s, rid) := s.engineFault j.ctx hubCore 0 0 5 id j.addr cause stage k va
      s.setDone id (some { j with fault := some rid })
  let write (s : State) (j : DoneJob) : State :=
    match s.writeCompletion (doneWrite id) hubCore j.ctx j.scope 0 j.addr j.status j.bytes j.rmask with
    | .error e => stop s e j
    | .ok s => s.setDone id none
  if j.viaRecord then
    match s.doneField (doneRead id) j.ctx j.addr with
    | .error e => stop s e j
    | .ok (v, sc, s) =>
      let s := s.forget (doneRead id)
      if v = 0 then s.setDone id none else write s { j with addr := BitVec.ofNat 64 v, scope := sc, viaRecord := false }
  else write s j

/-- A DONE record to be written. -/
def State.postDone (s : State) (j : DoneJob) : State :=
  { s with doneJobs := s.doneJobs ++ [(s.nextId, j)], nextId := s.nextId + 1 }.tryDone s.nextId j

/-- The DONE records that wait for no answer of the module kernel are tried again. -/
def State.retryDone (s : State) : State :=
  s.doneJobs.foldl (fun (s : State) x =>
    match look s.doneJobs x.1 with
    | some j => if j.fault.isNone then s.tryDone x.1 j else s
    | none => s) s

/-- A record submitted to a queue that is not full (R370): appended, or ended at once with QUEUE_OFF. -/
def State.submit (s : State) (ctx q : Nat) (addr : DWord) (counter : Option (Word × Word)) : State :=
  if ((s.ctx ctx).queue q).en then
    s.updQueue ctx q (fun x => { x with recs := x.recs ++ [{ addr := addr, counter := counter }] })
  else
    (s.updQueue ctx q (fun x => { x with err := 3 })).postDone { ctx := ctx, addr := addr, viaRecord := true, status := 3 }

/-- Whether a queue has a free place (R370). -/
def State.queueRoom (s : State) (ctx q : Nat) : Bool := decide (((s.ctx ctx).queue q).recs.length < 64)

/-- A fault of a read that the hub makes at issue: it holds the group, as a load's does (R108); its KIND is that of a walk where the
failing access is one of the walk (Table 20.2). -/
def State.hubReadFault (s : State) (ctx : Nat) (m : BitVec 64) (cause stage : Nat) (fa : DWord) : TrapInfo :=
  let walk : Bool :=
    match s.translate hubCore none ctx .engRead fa with
    | .error (.fault f) => f.cause == cause && f.walk
    | _ => false
  { cls := if cause = 0x21 then 0x21 else 0x20, detail := if cause = 0x21 then 0 else cause, stage := stage
    kind := if walk then 7 else 1, lane := lowLane m, addr := fa, lmask := m }

end Sys2Proof.Machine
end

