-- ==== Sys2Proof/Machine/Control.lean ====
section
/-!
DEFINITION. Control transfers, meeting addresses, `exit`, `regroup`, regions, `rep`, barriers, fences, tokens, traps, system
registers, `launch`, `tstamp` and counters (17_control_and_synchronization.md, R377 to R382).
-/

namespace Sys2Proof.Machine

/-! ### Control transfers (R333 to R338) -/

/-- Where a transferring lane goes: the target's segment offset, or the class and detail of the trap. -/
abbrev Goes := Except (Nat × Nat) (BitVec 24)

/-- The packet at a displacement from the packet of a segment offset (R334). -/
def packetAt (pc : BitVec 24) (disp : Int) : Option Nat :=
  let p : Int := ((pc.toNat / 12 : Nat) : Int) + disp
  if 0 ≤ p && decide (p < 2 ^ 20) then some p.toNat else none

/-- The segment offset of a packet. -/
def packetPc (p : Nat) : BitVec 24 := BitVec.ofNat 24 (12 * p)

/-- A direct target (R333). -/
def direct (pc : BitVec 24) (disp : Int) : Goes :=
  match packetAt pc disp with
  | some p => .ok (packetPc p)
  | none => .error (0x07, 0)

/-- What a lane of the active set does: nothing, or a transfer to a target. -/
def outcomes (m g : BitVec 64) (f : Nat → Goes) : List (Option (Option Nat)) :=
  (lanesOf m).map (fun l =>
    if g.getLsbD l then
      some (match f l with | .ok t => some t.toNat | .error _ => none)
    else none)

/-- Whether all elements of a list are the same. -/
def allSame {α : Type} [DecidableEq α] : List α → Bool
  | [] => true
  | x :: r => r.all (· == x)

/-- The trap that lanes' outcomes come to (R378): the class of the lowest order among them, BRANCH_TARGET before CALL_DEPTH, and its lowest
lane. -/
def firstBad (f : Nat → Goes) (lanes : List Nat) : Option (Nat × Nat × Nat) :=
  let bad (call : Bool) : Option (Nat × Nat × Nat) :=
    lanes.findSome? (fun l => match f l with | .error c => if (c.1 == 0x08) == call then some (l, c) else none | .ok _ => none)
  (bad false).or (bad true)

/-- A control transfer (R333): the bound-divergence check (R220), then the first bad target traps for all of them, then every guarded lane
transfers and its thread is updated by `upd`. -/
def controlTransfer (g : Nat) (closes : Bool) (f : Issue → Team → Nat → Goes)
    (upd : Issue → Team → Nat → Thread → Thread) (s : State) : Out :=
  withIssue s fun is tm gr =>
    let m := is.guarded g
    if gr.lcount != 0 && !allSame (outcomes is.mask m (f is tm)) then .next (s.trap is { cls := 0x06, lmask := m })
    else
      match firstBad (f is tm) (lanesOf m) with
      | some (l, c) => .next (s.trap is { cls := c.1, detail := c.2, lane := l, lmask := m })
      | none =>
        let s := s.updTeam is.team (fun tm =>
          tm.updLanes is.grp (fun l x => if m.getLsbD l then upd is tm l x else x))
        .next (s.retireTo is (closes && m != 0) (fun l =>
          if m.getLsbD l then (match f is tm l with | .ok t => some t | .error _ => none) else none))

/-- `bra` (R334). -/
def execBra (g : Nat) (disp : Int) (s : State) : Out :=
  controlTransfer g false (fun is _ _ => direct is.pc disp) (fun _ _ _ x => x) s

/-- `bra` SB. -/
def execBraSb (g : BitVec 2) (d : BitVec 18) (s : State) : Out := execBra g.toNat d.toInt s
/-- `bra` LI. -/
def execBraLi (o : LI) (s : State) : Out := execBra o.g.toNat o.imm.toInt s

/-- `brx` (R335): a byte offset from the segment base. -/
def execBrx (g : Nat) (a : Src) (s : State) : Out :=
  withIssue s fun is tm _ =>
    if !a.inRange tm.nv tm.ns then .next (s.trap is { regRange with lmask := is.guarded g })
    else
      controlTransfer g false (fun is _ l =>
        let o := ((a.read is.snap l).toNat) % 2 ^ 32
        if o % 12 != 0 || decide (12 * 2 ^ 20 ≤ o) then .error (0x07, 0) else .ok (BitVec.ofNat 24 o))
        (fun _ _ _ x => x) s

/-- `brx` SF. -/
def execBrxSf (g : BitVec 2) (a : BitVec 6) (s : State) : Out := execBrx g.toNat (.v a.toNat) s
/-- `brx` LR. -/
def execBrxL (o : LR) (s : State) : Out := execBrx o.g.toNat (srcOf o.ka false o.a.toNat) s

/-- The spill area entry `k` of a thread (R204): its offset in the first local memory of the team. -/
def Team.spillAt (tm : Team) (tid k : Nat) : Nat := tm.lmem - 8 * tm.d * tm.t + 8 * tm.d * tid + 8 * k

/-- A push (R203, R204): a full hardware stack moves its oldest entry to the spill area. -/
def Team.push (tm : Team) (tid : Nat) (e : RetEntry) : Team :=
  let x := tm.thread tid
  let tm :=
    if decide (16 ≤ x.stack.length) then
      match x.stack.getLast? with
      | some o => tm.putLocal false (tm.spillAt tid (x.depth - 16)) 8 (o.packet.toNat + o.meet.toNat * 2 ^ 32)
      | none => tm
    else tm
  tm.updThread tid (fun x => { x with stack := e :: x.stack.take 15, depth := x.depth + 1, meet := 0xFFFFFFFF#32 })

/-- A pop (R203, R204): the stack is refilled from the spill area. -/
def Team.pop (tm : Team) (tid : Nat) : Team :=
  let x := tm.thread tid
  match x.stack with
  | [] => tm
  | e :: r =>
    let r :=
      if decide (16 < x.depth) then
        let v := Memory.read tm.lm0.bytes (tm.spillAt tid (x.depth - 17)) 8
        r ++ [⟨BitVec.ofNat 32 v, BitVec.ofNat 32 (v / 2 ^ 32)⟩]
      else r
    tm.updThread tid (fun x => { x with stack := r, depth := x.depth - 1, meet := e.meet })

/-- A push or pop of every guarded lane, before it goes to its target. -/
def stackAll (m : BitVec 64) (f : Team → Nat → Team) (grp : Nat) (tm : Team) : Team :=
  (lanesOf m).foldl (fun tm l => f tm (tm.tid grp l)) tm

/-- `call` (R336). -/
def execCall (g : Nat) (disp : Int) (s : State) : Out :=
  let goes (is : Issue) (tm : Team) (l : Nat) : Goes :=
    match direct is.pc disp with
    | .error e => .error e
    | .ok t => if (tm.thread (tm.tid is.grp l)).depth = 16 + tm.d then .error (0x08, 0) else .ok t
  withIssue s fun is tm gr =>
    let m := is.guarded g
    let ok := (lanesOf m).all (fun l => match goes is tm l with | .ok _ => true | .error _ => false) &&
      (gr.lcount == 0 || allSame (outcomes is.mask m (goes is tm)))
    let e (tid : Nat) : RetEntry := ⟨BitVec.ofNat 32 (is.pc.toNat / 12 + 1), (tm.thread tid).meet⟩
    let s1 := if ok then s.updTeam is.team (stackAll m (fun tm tid => tm.push tid (e tid)) is.grp) else s
    controlTransfer g true (fun is' _ l => goes is' tm l) (fun _ _ _ x => x) s1

/-- `call` SB. -/
def execCallSb (g : BitVec 2) (d : BitVec 18) (s : State) : Out := execCall g.toNat d.toInt s
/-- `call` LI. -/
def execCallLi (o : LI) (s : State) : Out := execCall o.g.toNat o.imm.toInt s

/-- `ret` (R336). A return packet of 2^20 or more, of a call in the last packet or put into the spill area, is a bad target (R333). -/
def execRet (g : BitVec 2) (s : State) : Out :=
  let goes (is : Issue) (tm : Team) (l : Nat) : Goes :=
    match (tm.thread (tm.tid is.grp l)).stack with
    | e :: _ => if 2 ^ 20 ≤ e.packet.toNat then .error (0x07, 0) else .ok (packetPc e.packet.toNat)
    | [] => .error (0x08, 1)
  withIssue s fun is tm gr =>
    let m := is.guarded g.toNat
    let ok := (lanesOf m).all (fun l => match goes is tm l with | .ok _ => true | .error _ => false) &&
      (gr.lcount == 0 || allSame (outcomes is.mask m (goes is tm)))
    let s1 := if ok then s.updTeam is.team (stackAll m Team.pop is.grp) else s
    controlTransfer g.toNat true (fun is' _ l => goes is' tm l) (fun _ _ _ x => x) s1

/-- `meet` (R337): the meeting address set, or cleared by displacement 0. -/
def execMeet (g : Nat) (disp : Int) (s : State) : Out :=
  withIssue s fun is _ gr =>
    let m := is.guarded g
    if gr.lcount != 0 && m != 0 && m != is.mask then .next (s.trap is { cls := 0x06, lmask := m })
    else if m = 0 then .next (s.retire is)
    else
      match (if disp = 0 then some 0xFFFFFFFF else packetAt is.pc disp) with
      | none => .next (s.trap is { cls := 0x07, lane := lowLane m, lmask := m })
      | some p =>
        let s := s.updTeam is.team (fun tm => tm.updLanes is.grp (fun l x =>
          if m.getLsbD l then { x with meet := BitVec.ofNat 32 p } else x))
        .next (s.retire is)

/-- `meet` SB. -/
def execMeetSb (g : BitVec 2) (d : BitVec 18) (s : State) : Out := execMeet g.toNat d.toInt s
/-- `meet` LI. -/
def execMeetLi (o : LI) (s : State) : Out := execMeet o.g.toNat o.imm.toInt s

/-- `exit` (R218, R338): each guarded lane leaves its group for good. -/
def execExit (g : BitVec 2) (s : State) : Out :=
  controlTransfer g.toNat false (fun is _ _ => .ok is.pc) (fun _ _ _ x => { x with exited := true }) s

/-! ### Width, regions and issue order (R339, R340, R210) -/

/-- The width of a width code (R339). -/
def widthOf (c : BitVec 2) : Nat := 8 * 2 ^ c.toNat

/-- The role of a thread: that of the slot it was launched in (R212). -/
def Team.threadRole (tm : Team) (t : Nat) : Role :=
  let slot := t / tm.wLaunch
  if slot < tm.nCopy then .copy else if slot < tm.nCopy + tm.nMat then .matrix else .vector

/-- The first thread of a team that waits at a `regroup`, in thread order, and its width code. Every waiting thread holds
the same code. -/
def Team.waitingCode (tm : Team) : Option (BitVec 2) := tm.threads.findSome? (fun x => if x.exited then none else x.waiting)

/-- Whether a width keeps the role rules of R212. -/
def Team.rolesKept (tm : Team) (w : Nat) : Bool :=
  (List.range (tm.t / w)).all (fun j =>
    allSame ((List.range w).map (fun i => tm.threadRole (j * w + i)))) &&
  (decide (tm.w ≤ w) || (List.range tm.t).all (fun t => tm.threadRole t != .matrix))

/-- `regroup` (R339): the guarded lanes wait and stand aside; the others go on. -/
def execRegroup (g w : BitVec 2) (s : State) : Out :=
  withIssue s fun is tm gr =>
    let m := is.guarded g.toNat
    let ill : TrapInfo := { cls := 0x01, detail := 5, lmask := m }
    if m = 0 then .next (s.retire is)
    else if gr.inh || decide (widthOf w < tm.wmin) || (tm.waitingCode.any (· != w)) then .next (s.trap is ill)
    else if !tm.rolesKept (widthOf w) then .next (s.trap is { cls := 0x05, lmask := m })
    else if gr.lcount != 0 then .next (s.trap is { cls := 0x06, lmask := m })
    else
      let rest := is.mask &&& ~~~m
      let s := s.updTeam is.team (fun tm =>
        let tm := tm.updLanes is.grp (fun l x => if m.getLsbD l then { x with waiting := some w } else x)
        let tm := if is.closed then tm.snapshot is.grp m else tm
        tm.updGroup is.grp (fun gr => { gr with parked := is.s }))
      let s := s.retire { is with mask := rest }
      .next (if rest = 0 then { s with issue := none } else s)

/-- Whether the width change of a team may take effect (R210, R339). -/
def Team.regroupReady (tm : Team) : Bool :=
  tm.waitingCode.isSome && !tm.saved &&
  tm.threads.all (fun x => x.exited || x.waiting.isSome) &&
  tm.groups.all (fun gr => !gr.hasPending && gr.copyCnt == 0 && gr.mmaCnt == 0 && gr.collCnt == 0
    && !gr.inh && gr.lcount == 0 && gr.faults.isEmpty)

/-- The least of the non-zero values of a list, 0 if all are 0. -/
def leastNonzero (l : List (BitVec 8)) : BitVec 8 :=
  l.foldl (fun a x => if x = 0 then a else if a = 0 || decide (x < a) then x else a) 0

/-- The group slot after a width change that holds an old group's lowest non-exited thread (R210); its lowest thread where
all have exited. -/
def Team.heir (tm : Team) (w g : Nat) : Nat :=
  let ts := (List.range tm.w).map (fun l => tm.tid g l)
  ((ts.find? (fun t => !(tm.thread t).exited)).getD (tm.tid g 0)) / w

/-- Threads of a team on its first core (R202). -/
def Team.first (tm : Team) : Nat := if tm.tandem then 64 * ((tm.t + 127) / 128) else tm.t

/-- The hardware slot of group `g` at width `w`, among those reserved: one of its own core, in the partition of its number (R211, R376). -/
def hwSlot (slots : List Nat) (wmin first w g : Nat) : Nat :=
  let second (t : Nat) : Bool := decide (first ≤ t)
  let mine := (slots.zipIdx.filter (fun s => second (s.2 * wmin) == second (g * w) && s.2 % 4 == g % 4)).map (·.1)
  mine.getD ((List.range g).filter (fun i => second (i * w) == second (g * w) && i % 4 == g % 4)).length 0

/-- The team after its width changed (R210, R211, R339). -/
def Team.regrouped (tm : Team) (w : Nat) : Team :=
  let old (t : Nat) : Nat := t / tm.w
  let mk (j : Nat) : Group :=
    let src := tm.group (old (j * w))
    let members := (List.range tm.groups.length).filter (fun g =>
      decide (g * tm.w < (j + 1) * w) && decide (j * w < (g + 1) * tm.w))
    let heirs := (List.range tm.groups.length).filter (fun g =>
      tm.heir w g == j && (List.range tm.w).any (fun l => !(tm.thread (tm.tid g l)).exited))
    { s := src.s, hw := hwSlot tm.slots tm.wmin tm.first w j, copyStatus := leastNonzero (members.map (fun g => (tm.group g).copyStatus)),
      collStatus := src.collStatus, frame := src.frame, skipLen := src.skipLen,
      numTraps := heirs.flatMap (fun g => (tm.group g).numTraps),
      storeTraps := heirs.flatMap (fun g => (tm.group g).storeTraps) }
  let tm' := { tm with
    w := w, groups := (List.range (tm.t / w)).map mk,
    threads := tm.threads.map (fun x =>
      if x.waiting.isSome && !x.exited then { x with waiting := none, pc := packetPc (x.pc.toNat / 12 + 1) } else x) }
  (List.range tm'.groups.length).foldl (fun t g => (t.settle g).snapshot g (t.live g)) tm'

/-- REGROUP_EFFECT: every thread of a team waits and its counters are zero, so the width changes (R210). Accesses and
side-log entries of an old group become those of the group that holds its lowest thread. -/
def execRegroupEffect (team : Nat) (s : State) : Out :=
  match s.team? team with
  | none => .next s
  | some tm =>
    match tm.waitingCode with
    | none => .next s
    | some c =>
      if !tm.regroupReady then .next s
      else
        let w := widthOf c
        let dest (t g : Nat) : Nat := if t = team then tm.heir w g else g
        let s := s.setTeam team (tm.regrouped w)
        .next { s with
          reqs := s.reqs.map (fun r => { r with grp := dest r.team r.grp })
          memEvs := s.memEvs.map (fun m => { m with grp := dest m.team m.grp })
          cores := s.cores.map (fun c => (c.1, { c.2 with slog := c.2.slog.map (fun e => { e with grp := dest e.team e.grp }) }))
          faultQ := s.faultQ.map (fun f => (f.1, { f.2 with grp := dest f.2.team f.2.grp }))
          hostdbs := s.hostdbs.map (fun h => { h with grp := dest h.team h.grp }) }

/-- `rgn` (R340, R387): the region-entry snapshot at this word. -/
def execRgn (g : BitVec 2) (s : State) : Out :=
  withIssue s fun is _ _ =>
    if is.guarded g.toNat = 0 then .next (s.retire is)
    else .next ((s.updTeam is.team (fun tm => tm.snapshot is.grp is.mask)).retire is)

/-- `yield` (R340, R376): the group's wait count becomes 0. -/
def execYield (g : BitVec 2) (s : State) : Out :=
  withIssue s fun is _ _ =>
    let s := if is.guarded g.toNat = 0 then s else s.updGroup is.team is.grp (fun gr => { gr with wait := 0 })
    .next (s.retire is)

/-- `nop` (R340). -/
def execNop (_g : BitVec 2) (s : State) : Out := withIssue s fun is _ _ => .next (s.retire is)

/-- `rep` (R52, R53): the instruction that follows is issued for each repeat, so the issue stays open, armed with the last
repeat index. The step computes the stepped fields. -/
def execRep (n : BitVec 6) (_e : BitVec 1) (_k : BitVec 2) (_f : BitVec 1) (_j : BitVec 2) (_h : BitVec 1) (_m : BitVec 2)
    (s : State) : Out :=
  withIssue s fun is _ _ => .next { s with issue := some { is with rep := some n.toNat, wpc := is.pc + 4, len := is.len } }

/-! ### Barriers (R341 to R345) -/

/-- The checks that a barrier operation makes on its slot's address (R344). -/
def slotTrap (tm : Team) (a : Word) (m : BitVec 64) : Option TrapInfo :=
  if a.toNat % 16 != 0 then some { cls := 0x02, addr := a.setWidth 64, lane := lowLane m, lmask := m }
  else if !localOk tm 16 (a.setWidth 64) then some { cls := 0x03, addr := a.setWidth 64, lane := lowLane m, lmask := m }
  else none

/-- What a uniform instruction of this chapter begins with: its scalar registers in range (R205), and its execution when
some guarded lane is active (R216). -/
def uniformOp (g : Nat) (regs : List Src) (k : Issue → Team → Group → BitVec 64 → Out) (s : State) : Out :=
  withIssue s fun is tm gr =>
    let m := is.guarded g
    if !regs.all (Src.inRange tm.nv tm.ns) then .next (s.trap is { regRange with lmask := m })
    else if m = 0 then .next (s.retire is)
    else k is tm gr m

/-- `bar.arrive` and `bar.exp` (R344, R345): releases at core scope, then one slot step. -/
def execBarStep (g sl : Nat) (regs : List Src) (da : Issue → Nat) (dp : Issue → Int) (bad : Issue → Bool) (s : State) : Out :=
  uniformOp g (.s sl :: regs) (fun is tm _ m =>
    let a := is.snap.sca sl
    match slotTrap tm a m with
    | some k => .next (s.trap is k)
    | none =>
      let second := onSecond tm is.grp (a.setWidth 64)
      let off := bits a 22 0
      if s.covered tm is.team is.grp 2 then .next (s.holdIssue is (.sideEmpty true))
      else if !s.storesAtScope tm is.team is.grp 2 then .next (s.holdIssue is (.fence 2))
      else if s.loadsWaiting is.team is.grp then .next (s.holdIssue is .loadsDone)
      else if bad is then .next (s.trap is { cls := 0x0B, addr := a.setWidth 64, lane := lowLane m, lmask := m })
      else
        match tm.slotOp second off (da is) (dp is) false with
        | none => .next (s.trap is { cls := 0x0B, addr := a.setWidth 64, lane := lowLane m, lmask := m })
        | some tm => .next ((s.setTeam is.team tm).retire is true)) s

/-- `bar.arrive` SF: n − 1 in the word. -/
def execBarArriveSf (g : BitVec 2) (l : BitVec 6) (n : BitVec 12) (s : State) : Out :=
  execBarStep g.toNat l.toNat [] (fun _ => n.toNat + 1) (fun _ => 0) (fun _ => false) s
/-- `bar.arrive` LR: n in a register; 0 and values above 4,095 take the barrier trap. -/
def execBarArriveL (o : LR) (s : State) : Out :=
  let n (is : Issue) : Nat := (is.snap.sca o.b.toNat).toNat
  execBarStep o.g.toNat o.a.toNat [.s o.b.toNat] n (fun _ => 0) (fun is => n is == 0 || decide (4095 < n is)) s
/-- `bar.exp` SF. -/
def execBarExpSf (g : BitVec 2) (l b : BitVec 6) (v : BitVec 1) (s : State) : Out :=
  execBarStep g.toNat l.toNat [.s b.toNat] (fun _ => v.toNat) (fun is => ((is.snap.sca b.toNat).toNat : Int)) (fun _ => false) s
/-- `bar.exp` LR. -/
def execBarExpL (o : LR) (s : State) : Out :=
  execBarStep o.g.toNat o.a.toNat [.s o.b.toNat] (fun _ => if o.x then 1 else 0)
    (fun is => ((is.snap.sca o.b.toNat).toNat : Int)) (fun _ => false) s

/-- `bar.wait` (R344): the group is held until the slot's phase bit differs from `ph`. -/
def execBarWait (g sl : Nat) (regs : List Src) (ph : Issue → Bool) (s : State) : Out :=
  uniformOp g (.s sl :: regs) (fun is tm gr m =>
    let a := is.snap.sca sl
    match slotTrap tm a m with
    | some k => .next (s.trap is k)
    | none =>
      let second := onSecond tm is.grp (a.setWidth 64)
      let off := bits a 22 0
      let v := Memory.read (tm.lm second).bytes off 16
      if gr.hold = some (.answered 0) then .next (s.retire is)
      else if v / 2 ^ 44 % 2 ^ 12 = 0 || slotReserved v then
        .next (s.trap is { cls := 0x0B, addr := a.setWidth 64, lane := lowLane m, lmask := m })
      else if (v % 2 == 1) != ph is then .next (s.retire is)
      else .next (s.holdIssue is (.barrier second off (ph is)))) s

/-- `bar.wait` SF. -/
def execBarWaitSf (g : BitVec 2) (l : BitVec 6) (h : BitVec 1) (s : State) : Out :=
  execBarWait g.toNat l.toNat [] (fun _ => h == 1) s
/-- `bar.wait` LR. -/
def execBarWaitL (o : LR) (s : State) : Out :=
  execBarWait o.g.toNat o.a.toNat [.s o.b.toNat] (fun is => (is.snap.sca o.b.toNat).getLsbD 0) s

/-! ### fence (R346) -/

/-- Every long-class result of a group is written and its load counter is 0 (R291, R346). -/
def State.resultsIn (s : State) (team grp : Nat) : Bool :=
  match s.team? team with
  | some tm => (tm.group grp).pend.isEmpty && (tm.group grp).loads == 0
  | none => true

/-- The side-log entries that a fence waits for (R126). -/
def State.fenceLog (s : State) (tm : Team) (team grp scope : Nat) : Bool :=
  if scope ≤ 1 then !s.logHas (tm.coreOf grp) team (some grp)
  else !s.logHas tm.core team none && !(tm.tandem && s.logHas (tm.core + 1) team none)

/-- Whether a fence of a group may complete. -/
def State.fenceMet (s : State) (tm : Team) (team grp scope : Nat) : Bool :=
  s.resultsIn team grp && s.storesAtScope tm team grp scope && s.fenceLog tm team grp scope

/-- `fence` (R346, R357): it ends the pending state of every register of the group. -/
def execFence (g : BitVec 2) (e : BitVec 3) (s : State) : Out :=
  uniformOp g.toNat [] (fun is tm _ _ =>
    if s.fenceMet tm is.team is.grp e.toNat then
      let s := s.updGroup is.team is.grp (fun gr => { gr with pendRegs := [] })
      .next ((if decide (3 ≤ e.toNat) then s.flushFor is.team (tm.coreOf is.grp) else s).retire is)
    else .next (s.holdIssue is (.fence e.toNat))) s

/-! ### Tokens (R78, R347) -/

/-- The key of a peer's region in the held-token table. -/
def regionKey (mod region : Nat) : Nat := mod * 2 ^ 30 + region

/-- The bytes of a dirty line of a peer region sent home, for the context that acquired its token (R78, R172). -/
def State.writeLine (s : State) (key : Nat) : State :=
  let a := key * 128
  let (ap, pa) := (0x100 + a / 2 ^ 51, a % 2 ^ 51)
  s.send (.writeBack ((look s.heldTokens (regionKey (ap - 0x100) (pa / 2 ^ 21))).getD 0) ap pa
    ((List.range 128).map (fun i => (i, Memory.byte s.peerMem (a + i)))))

/-- A message that fetches a line of a region, as one whose answer nothing takes up. -/
def Msg.staleFetch (mod region : Nat) : Msg → Msg
  | .fetchLine c ap pa => if ap = 0x100 + mod && pa / 2 ^ 21 = region then .engineRead {} c ap pa 128 else .fetchLine c ap pa
  | m => m

/-- Lines and bytes of a region cached under token given up: dirty lines are written back for the context that acquired the token
(R78, R172). A line still on its way was asked for under this token, and is not kept under a later one (R365). -/
def State.giveUp (s : State) (mod region : Nat) : State :=
  let ap := 0x100 + mod
  let k0 := peerKey ap (region * 2 ^ 21) / 128
  let mine (line : Nat) : Bool := decide (k0 ≤ line) && decide (line < k0 + 2 ^ 14)
  let dirty := s.peerLines.filter (fun l => mine l.1 && l.2)
  let s := dirty.foldl (fun (s : State) l => s.writeLine l.1) s
  let s : State := { s with
    peerMem := s.peerMem.filter (fun c => !mine (c.1 / 128))
    peerLines := s.peerLines.filter (fun l => !mine l.1)
    heldTokens := del s.heldTokens (regionKey mod region)
    outst := s.outst.map (fun o => { o with msg := o.msg.staleFetch mod region })
    waitQ := s.waitQ.map (fun w => { w with msg := w.msg.staleFetch mod region }) }
  let sec (k : Nat) : Bool :=
    decide (sectorKey ap (region * 2 ^ 21) ≤ k) && decide (k < sectorKey ap (region * 2 ^ 21) + 2 ^ 16)
  let s : State := { s with cores := s.cores.map (fun c => (c.1, c.2.keepL1 (fun k => !sec k))) }
  { s with
    reqs := s.reqs.map (fun (r : Req) =>
      if r.performed && r.op == .read && sec (sectorKey r.tgt.ap r.tgt.pa) then { r with noFill := true } else r) }

/-- Whether write-backs of a region are still unanswered. -/
def State.writingBack (s : State) (mod region : Nat) : Bool :=
  s.awaits (fun m => match m with | .writeBack _ ap pa _ => ap == 0x100 + mod && pa / 2 ^ 21 == region | _ => false)

/-- The first token instruction that waits for the home of a region, and the others. -/
def takeTokenOp (release : Bool) (mod region : Nat) : List TokenOp → Option TokenOp × List TokenOp
  | [] => (none, [])
  | o :: r =>
    if o.release == release && o.mod == mod && o.region == region then (some o, r)
    else
      let x := takeTokenOp release mod region r
      (x.1, o :: x.2)

/-- The fault of a token instruction that its home does not answer, or refuses (R108, R172, R174). In `doubt` it still waits for the answer,
which its RESOLVE then finds. -/
def State.tokenFault (s : State) (o : TokenOp) (cause : Nat) (doubt : Bool := false) : State :=
  match s.team? o.team with
  | none => s
  | some tm =>
    let gr := tm.group o.grp
    let m := (gr.held.map (·.mask)).getD 0
    let epc := (gr.held.map (·.pc)).getD 0
    let (s, rid) := s.memFault o.team o.grp epc
      { cls := 0x20, detail := cause, stage := 2, kind := 1, lane := lowLane m, addr := o.va, lmask := m } .retry
    (s.holdFor o.team o.grp rid).updGroup o.team o.grp (fun gr => if doubt then gr else { gr with hold := none })

/-- A release that is not sent, because of `cause`: the token stays here, and its instruction holds its group (R172, R174). -/
def State.releaseFails (s : State) (ctx mod region cause : Nat) : State :=
  let (o, rest) := takeTokenOp true mod region s.tokenOps
  let s : State := { s with heldTokens := put s.heldTokens (regionKey mod region) ctx, tokenOps := rest }
  match o with
  | some o => s.tokenFault o cause
  | none => s

/-- The releases, and the answers to recalls, whose write-backs have all been performed are sent (R78). -/
def State.settleReleases (s : State) : State :=
  s.relPend.foldl (fun (s : State) (x : Nat × Nat × Nat × Option Nat) =>
    if s.writingBack x.2.1 x.2.2.1 then { s with relPend := s.relPend ++ [x] }
    else
      match x.2.2.2 with
      | none =>
        match s.peerCause x.1 (0x100 + x.2.1) with
        | some c => s.releaseFails x.1 x.2.1 x.2.2.1 c
        | none => s.send (.tokenRelease x.1 x.2.1 x.2.2.1)
      | some tid => s.answer x.2.1 tid 0 []) { s with relPend := [] }

/-- A region given up: the token is returned, or the recall answered, once its dirty lines are home (R78). -/
def State.givenUp (s : State) (ctx mod region : Nat) (tid : Option Nat) : State :=
  { s with relPend := s.relPend ++ [(ctx, mod, region, tid)] }.settleReleases

/-- Whether requests for a region are still in the module's buffers. -/
def State.regionBusy (s : State) (mod region : Nat) : Bool :=
  s.reqs.any (fun r => r.tgt.c && r.tgt.ap == 0x100 + mod && r.tgt.pa / 2 ^ 21 == region && !r.performed)

/-- `tok.acq` and `tok.rel` (R347). The group is held until the home answers; the answer is then in its hold. A `tok.acq` that finds the
token held returns 0, "granted", and is an acquire as one that the home grants (DEDUCED, log entry 62). -/
def execTok (release : Bool) (g d a : Nat) (s : State) : Out :=
  uniformOp g [.s d, .sp a] (fun is tm gr m =>
    let core := tm.coreOf is.grp
    let va := (Src.sp a).read is.snap 0
    let done (s : State) (v : Nat) : State :=
      (s.giveResults is false [[(.s d, BitVec.ofNat 32 v)]]).retire is release
    match gr.hold with
    | some (.answered v) =>
      .next (done (if v = 0 && !release then s.flushFor is.team core else s) v)
    | some .token => .next (s.holdIssue is .token)
    | _ =>
      if s.acquiring is.team is.grp then .next (s.holdIssue is .acquire)
      else
        -- the translation checks of a load (R67); TOKEN is what the instruction itself resolves
        let bad (s : State) (cause stage : Nat) (walk : Bool) : Out :=
          .next (s.faultIssue is ((⟨cause, stage, walk⟩ : TFault).info .load (lowLane m) va m))
        match s.translate core (some gr.partition) tm.ctx .load va with
        | .error (.wait s) => .next (s.holdIssue is .table)
        | .error (.fault f) =>
          if f.cause != 0x0A then bad s f.cause f.stage f.walk
          else
            match s.lookup core (some gr.partition) tm.ctx .load va with
            | .error (.wait s) => .next (s.holdIssue is .table)
            | .error (.fault f) => bad s f.cause f.stage f.walk
            | .ok (e, s) =>
              let region := (e.pa + va.toNat % 2 ^ e.bits) / 2 ^ 21
              if release then .next (done s 5)
              else
                match s.peerCause tm.ctx e.ap with
                | some c => bad s c 2 false
                | none =>
                  if decide (1024 ≤ s.heldTokens.length + (s.tokenOps.filter (fun o => !o.release)).length) then .next (done s 2)
                  else
                    let s := s.send (.tokenAcquire tm.ctx (e.ap - 0x100) region)
                    let s := { s with tokenOps := s.tokenOps ++ ([⟨is.team, is.grp, false, e.ap - 0x100, region, va⟩] : List TokenOp) }
                    .next (s.holdIssue is .token)
        | .ok (t, s) =>
          if !t.c then .next (done s 4)
          else if !release then .next (done (s.flushFor is.team core) 0)
          else
            match s.peerCause tm.ctx t.ap with
            | some c => bad s c 2 false
            | none =>
              let (md, region) := (t.ap - 0x100, t.pa / 2 ^ 21)
              if !s.fenceMet tm is.team is.grp 4 then .next (s.holdIssue is (.fence 4))
              else if s.regionBusy md region then .next (s.holdIssue is (.region md region))
              else
                let s := (s.giveUp md region).givenUp tm.ctx md region none
                let s := { s with tokenOps := s.tokenOps ++ ([⟨is.team, is.grp, true, md, region, va⟩] : List TokenOp) }
                .next (s.holdIssue is .token)) s

/-- `tok.acq` SF. -/
def execTokAcqSf (g : BitVec 2) (d a : BitVec 6) (s : State) : Out := execTok false g.toNat d.toNat a.toNat s
/-- `tok.acq` LR. -/
def execTokAcqL (o : LR) (s : State) : Out := execTok false o.g.toNat o.d.toNat o.a.toNat s
/-- `tok.rel` SF. -/
def execTokRelSf (g : BitVec 2) (d a : BitVec 6) (s : State) : Out := execTok true g.toNat d.toNat a.toNat s
/-- `tok.rel` LR. -/
def execTokRelL (o : LR) (s : State) : Out := execTok true o.g.toNat o.d.toNat o.a.toNat s

/-! ### Traps and handler endings (R348, R379 to R382) -/

/-- `trap` and `brk` (R348). -/
def execTrapOp (cls : Nat) (g : BitVec 2) (n : BitVec 8) (s : State) : Out :=
  withIssue s fun is _ _ =>
    let m := is.guarded g.toNat
    if m = 0 then .next (s.retire is)
    else .next (s.trap is { cls := cls, detail := n.toNat, lane := lowLane m, lmask := m })

/-- `trap`. -/
def execTrap (g : BitVec 2) (n : BitVec 8) (s : State) : Out := execTrapOp 0x0E g n s
/-- `brk`. -/
def execBrk (g : BitVec 2) (n : BitVec 8) (s : State) : Out := execTrapOp 0x11 g n s

/-- How a handler ends (R381). -/
inductive Ending where
  | retry | skip | end_
deriving DecidableEq, Repr

/-- The program counter that a frame names. -/
def Frame.epc (f : Frame) : BitVec 24 := f.info.setWidth 24

/-- `%repidx` of the failing repeat (Table 20.2). -/
def Frame.repidx (f : Frame) : Nat := bits f.info 35 30

/-- The end of a group's handler (R381): its threads resume or exit, the held siblings are released, and a region begins. -/
def Team.endHandler (tm : Team) (g : Nat) (k : Ending) : Team :=
  let gr := tm.group g
  let mine := tm.lanesWhere g (fun _ x => !x.held && !x.exited)
  let tm := tm.updLanes g (fun _ x =>
    let x' :=
      if x.held || x.exited then x
      else
        match k with
        | .retry => { x with pc := gr.frame.epc }
        | .skip => { x with pc := gr.frame.epc + BitVec.ofNat 24 gr.skipLen }
        | .end_ => { x with exited := true }
    { x' with held := false })
  let tm := tm.updGroup g (fun gr =>
    { gr with
      inh := false, held := none, hold := none
      repidx := if k = .retry then gr.frame.repidx else 0
      repMask := if k = .retry && gr.frame.repidx != 0 then mine else 0 })
  let tm := tm.settle g
  tm.snapshot g (tm.live g)

/-- The ending of a group's handler as a step of its own; nothing outside a handler. -/
def State.handlerEnding (s : State) (team grp : Nat) (k : Ending) : State :=
  match s.team? team with
  | some tm => if (tm.group grp).inh then s.setTeam team (tm.endHandler grp k) else s
  | none => s

/-- TFACT write 0: the handler's threads reissue the trapped word (R381). -/
def execHandlerRetry (team grp : Nat) (s : State) : Out := .next (s.handlerEnding team grp .retry)
/-- TFACT write 1: they resume after the trapped word (R381). -/
def execHandlerSkip (team grp : Nat) (s : State) : Out := .next (s.handlerEnding team grp .skip)
/-- TFACT write 2: they exit (R381). -/
def execHandlerEnd (team grp : Nat) (s : State) : Out := .next (s.handlerEnding team grp .end_)

/-! ### System registers (R349, R379) -/

/-- The value of a readable tenant system register (Tables 17.2 and 20.2), and whether it is 64 bits wide. -/
def State.sysReg (s : State) (tm : Team) (gr : Group) (n : Nat) : Option (DWord × Bool) :=
  let c := s.ctx tm.ctx
  let gd := s.gridOf tm
  match n with
  | 0x000 => some (BitVec.ofNat 64 tm.ctx, false)
  | 0x001 => some (if c.decode.base = 2 then 1 else 0, false)
  | 0x002 => some ((gd.map (·.segbase)).getD 0, true)
  | 0x003 => some ((gd.map (·.lrec)).getD 0, true)
  | 0x004 => some (BitVec.ofNat 64 c.sideLimit, false)
  | 0x005 => some (c.flowDl.setWidth 64, false)
  | 0x040 => some (if gr.inh then gr.frame.info ||| BitVec.ofNat 64 (2 ^ 29) else gr.frame.info, true)
  | 0x041 => some (gr.frame.addr, true)
  | 0x042 => some (gr.frame.mask, true)
  | n => if 0x20 ≤ n && n ≤ 0x3F then some ((Sparse.get 0 c.mbox (n - 0x20)).setWidth 64, false) else none

/-- The illegal-instruction trap of reason FIELD. -/
def illField (m : BitVec 64) : TrapInfo := { cls := 0x01, detail := 5, lmask := m }

/-- `sys.rd` (R349): sampled at issue, written as a long-class result. -/
def execSysRd (g d : Nat) (regs : List Src) (num : Issue → Nat) (s : State) : Out :=
  withIssue s fun is tm gr =>
    let m := is.guarded g
    let n := num is
    match sysReadable n with
    | none => .next (if m = 0 then s.retire is else s.trap is (illField m))
    | some wide =>
      if wide && d % 2 != 0 then .next (if m = 0 then s.retire is else s.trap is (illField m))
      else
        let dst : Dst := if wide then .sp d else .s d
        if !(dst.inRange tm.nv tm.ns && regs.all (Src.inRange tm.nv tm.ns)) then .next (s.trap is { regRange with lmask := m })
        else if m = 0 then .next (s.retire is)
        else
          let v := ((s.sysReg tm gr n).map (·.1)).getD 0
          .next ((s.giveResults is true [dst.writes 0 v]).retire is)

/-- `sys.rd` SF. -/
def execSysRdSf (g : BitVec 2) (d : BitVec 6) (n : BitVec 12) (s : State) : Out :=
  execSysRd g.toNat d.toNat [] (fun _ => n.toNat) s
/-- `sys.rd` LR. -/
def execSysRdL (o : LR) (s : State) : Out :=
  execSysRd o.g.toNat o.d.toNat [.s o.a.toNat] (fun is => (is.snap.sca o.a.toNat).toNat) s

/-- `sys.wr` (R349, R381): a mailbox word, a doorbell to the host, or the end of the handler. -/
def execSysWr (g d : Nat) (regs : List Src) (num : Issue → Nat) (s : State) : Out :=
  withIssue s fun is tm gr =>
    let m := is.guarded g
    let n := num is
    let v := is.snap.sca d
    if m = 0 then
      .next (if (Src.s d :: regs).all (Src.inRange tm.nv tm.ns) then s.retire is else s.trap is { regRange with lmask := m })
    else if !sysWritable n || (n == 0x43 && (!gr.inh || decide (3 ≤ v.toNat))) then .next (s.trap is (illField m))
    else if !(Src.s d :: regs).all (Src.inRange tm.nv tm.ns) then .next (s.trap is { regRange with lmask := m })
    else if n = 0x43 then
      let k : Ending := if v = 0 then .retry else if v = 1 then .skip else .end_
      let s := s.updTeam is.team (fun tm =>
        (tm.endHandler is.grp k).updGroup is.grp (fun gr => { gr with parked := is.s }))
      .next { s with issue := none }
    else if n = 0x10 then
      let h : HostDb :=
        { ctx := tm.ctx, core := tm.coreOf is.grp, team := is.team, grp := is.grp, instr := s.nextInstr, value := v }
      .next ({ s with hostdbs := s.hostdbs ++ [h], nextInstr := s.nextInstr + 1 }.retire is true)
    else
      .next ((s.updCtx tm.ctx (fun c => { c with mbox := Sparse.set 0 c.mbox (n - 0x20) v })).retire is true)

/-- `sys.wr` SF. -/
def execSysWrSf (g : BitVec 2) (d : BitVec 6) (n : BitVec 12) (s : State) : Out :=
  execSysWr g.toNat d.toNat [] (fun _ => n.toNat) s
/-- `sys.wr` LR. -/
def execSysWrL (o : LR) (s : State) : Out :=
  execSysWr o.g.toNat o.d.toNat [.s o.a.toNat] (fun is => (is.snap.sca o.a.toNat).toNat) s

/-- HOSTDB_WRITE: the oldest pending write to HOSTDB reaches the virtual function as a release at system scope (R349): every
earlier store of its group is performed first. -/
def execHostdbWrite (s : State) : Out :=
  match s.hostdbs with
  | [] => .next s
  | h :: r =>
    let logged :=
      match s.team? h.team with
      | some tm => s.covered tm h.team h.grp 5
      | none => s.logHas h.core h.team none
    if s.storesBefore h.core h.instr || !s.earlierDone h.core h.team h.grp h.instr || logged then .next s
    else
      .next ((({ s with hostdbs := r } : State).updCtx h.ctx (fun c => { c with hostdbVal := h.value })).raiseInt h.ctx 0)

/-! ### launch, tstamp and counters (R350 to R352) -/

/-- `launch` (R350): the record's queue is read, and the record submitted when everything before it is performed. -/
def execLaunch (g a : Nat) (s : State) : Out :=
  uniformOp g [.sp a] (fun is tm _ m =>
    let va := (Src.sp a).read is.snap 0
    let core := tm.coreOf is.grp
    if va.toNat % 128 != 0 then .next (s.trap is { cls := 0x02, addr := va, lane := lowLane m, lmask := m })
    else if s.logHas core is.team (some is.grp) then .next (s.holdIssue is (.sideEmpty false))
    else if !(s.resultsIn is.team is.grp && s.storesAtScope tm is.team is.grp 3) then .next (s.holdIssue is (.stores 3))
    else
      let w : Who := { kind := 8, id := is.team, part := is.grp }
      match s.engLoad w hubCore tm.ctx (va + 24) 8 with
      | .error (.fault cause stage _ fa) =>
        .next ((s.forget w).faultIssue is (s.hubReadFault tm.ctx m cause stage fa))
      | .error (.wait s) => .next (s.holdIssue is .table)
      | .ok (v, s) =>
        let q := v / 2 ^ 42 % 16
        if !s.queueRoom tm.ctx q then .next (s.holdIssue is (.queue q))
        else .next (((s.forget w).submit tm.ctx q va none).retire is true)) s

/-- `launch` SF. -/
def execLaunchSf (g : BitVec 2) (a : BitVec 6) (s : State) : Out := execLaunch g.toNat a.toNat s
/-- `launch` LR. -/
def execLaunchL (o : LR) (s : State) : Out := execLaunch o.g.toNat o.a.toNat s

/-- `tstamp` (R351): the time counter once every earlier result of the group is written. -/
def execTstamp (g : BitVec 2) (d : BitVec 6) (s : State) : Out :=
  uniformOp g.toNat [.sp d.toNat] (fun is _ _ _ =>
    if s.resultsIn is.team is.grp then
      .next ((s.giveResults is true [(Dst.sp d.toNat).writes 0 s.time]).retire is)
    else .next (s.holdIssue is .results)) s

/-- An exception counter register (Table 12.8). -/
def ExcCounter.reg (c : ExcCounter) : DWord :=
  BitVec.ofNat 64 (c.total.toNat * 2 ^ 32 + c.wcnt.toNat * 2 ^ 8 + if c.fired then 1 else 0)

/-- A counter of Table 17.3. -/
def State.counter (s : State) (tm : Team) (grp n : Nat) : Option DWord :=
  let core := s.core (tm.coreOf grp)
  if n ≤ 8 then some (((s.ctx tm.ctx).exc.getD n {}).reg)
  else
    match n with
    | 0x10 => some (core.gateClk.getD ((tm.group grp).hw % 4) 0)
    | 0x11 => some core.regSpill
    | 0x12 => some core.sidelogHold
    | 0x13 => some (s.ctx tm.ctx).fabTx
    | 0x14 => some (s.ctx tm.ctx).fabRx
    | 0x15 => some (tm.group grp).issues
    | _ => none

/-- `cnt.rd` (R352). -/
def execCntRd (g d : Nat) (regs : List Src) (num : Issue → Nat) (s : State) : Out :=
  withIssue s fun is tm _ =>
    let m := is.guarded g
    let n := num is
    if !counterNumber n then .next (if m = 0 then s.retire is else s.trap is (illField m))
    else if !((Dst.sp d).inRange tm.nv tm.ns && regs.all (Src.inRange tm.nv tm.ns)) then
      .next (s.trap is { regRange with lmask := m })
    else if m = 0 then .next (s.retire is)
    else .next ((s.giveResults is true [(Dst.sp d).writes 0 ((s.counter tm is.grp n).getD 0)]).retire is)

/-- `cnt.rd` SF. -/
def execCntRdSf (g : BitVec 2) (d : BitVec 6) (n : BitVec 12) (s : State) : Out :=
  execCntRd g.toNat d.toNat [] (fun _ => n.toNat) s
/-- `cnt.rd` LR. -/
def execCntRdL (o : LR) (s : State) : Out :=
  execCntRd o.g.toNat o.d.toNat [.s o.a.toNat] (fun is => (is.snap.sca o.a.toNat).toNat) s

end Sys2Proof.Machine
end

