-- ==== Sys2Proof/Machine/Desc.lean ====
section
/-!
DEFINITION. The layouts that flow ends and the collective engine share: the collective descriptor (Table 16.2) and the launch counter
(Table 16.4).
-/

namespace Sys2Proof.Machine

/-! ### The collective descriptor (Table 16.2) -/

namespace Cd

variable (d : List DWord)

def src : DWord := d.getD 0 0
def dst : DWord := d.getD 1 0
def count : Nat := dwBits d 2 63 32
def chunk : Nat := dwBits d 2 31 0
def op : Nat := dwBits d 3 63 60
def etype : Nat := dwBits d 3 59 56
def wire : Nat := dwBits d 3 55 54
def confine : Bool := dwBits d 3 53 53 == 1
def abort : Bool := dwBits d 3 52 52 == 1
def retry : Nat := dwBits d 3 51 50
def red : Bool := dwBits d 3 49 49 == 1
def log : Bool := dwBits d 3 48 48 == 1
def root : Nat := dwBits d 3 47 40
def pel : Nat := dwBits d 3 39 36
def cscope : Nat := dwBits d 3 35 33
def ck : Bool := dwBits d 3 32 32 == 1
def flow : Nat := dwBits d 3 31 22
def ktop : Nat := dwBits d 3 11 0
def scales : DWord := d.getD 4 0
def maxout : DWord := d.getD 5 0
def residue : DWord := d.getD 6 0
def comp : DWord := d.getD 7 0
def stage : DWord := d.getD 8 0
def lctr : Nat := dwBits d 9 5 0
/-- Bytes of an element. -/
def e : Nat := if etype d = 10 then 2 else 4
/-- Number of chunks (R310). -/
def chunks : Nat := if chunk d = 0 then 0 else (count d + chunk d - 1) / chunk d
/-- Elements of chunk `c`. -/
def len (c : Nat) : Nat := min (chunk d) (count d - c * chunk d)

/-- A malformed descriptor (R309), for a peloton of `p` members. -/
def malformed (p : Nat) : Bool :=
  dwBits d 3 21 12 != 0 || dwBits d 9 63 6 != 0 || (List.range 6).any (fun i => d.getD (10 + i) 0 != 0)
    || decide (4 < op d) || !(etype d == 6 || etype d == 8 || etype d == 10) || wire d == 3 || retry d == 3
    || decide (1020 < flow d) || (wire d == 2 && (ktop d == 0 || decide (2048 < ktop d)))
    || (wire d != 0 && (decide (1 < op d) || etype d == 6)) || (decide (op d ≤ 1) && etype d == 6)
    || (red d && wire d != 0) || (retry d != 0 && wire d != 1)
    || chunk d == 0 || chunk d % 32 != 0 || (wire d == 2 && chunk d % 4096 != 0)
    || (op d == 4 && (count d % (max 1 (chunk d)) != 0 || count d % (max 1 (p * chunk d)) != 0))
    || (if ck d then cscope d == 0 || decide (5 < cscope d) else cscope d != 0)
    || (src d).toNat % e d != 0 || (dst d).toNat % e d != 0 || (residue d).toNat % 4 != 0 || (stage d).toNat % 4 != 0
    || (comp d).toNat % 128 != 0

end Cd

/-! ### The launch counter (Table 16.4) -/

/-- Fields of a launch counter (Table 16.4). -/
def lcV (x : BitVec 192) : Bool := bit x 0
def lcReload (x : BitVec 192) : Nat := bits x 19 8
def lcCount (x : BitVec 192) : Nat := bits x 31 20
def lcSeq (x : BitVec 192) : Nat := bits x 63 32
def lcLrec (x : BitVec 192) : DWord := BitVec.ofNat 64 (bits x 127 64)
def lcAlist (x : BitVec 192) : DWord := BitVec.ofNat 64 (bits x 191 128)

end Sys2Proof.Machine
end

