-- ==== Sys2Proof/Machine/Flows.lean ====
section
/-!
DEFINITION. Residual flows (10_residual_flows.md): flow ends, predictors, coded blocks and their CRC, the transfers of a send
end and of a receive end, and the flow instructions.
-/

namespace Sys2Proof.Machine

/-! ### Blocks (R183 to R188) -/

/-- Elements of `w` bytes of a little-endian number. -/
def elemsOf (w n v : Nat) : List Nat := (List.range n).map (fun i => v / 2 ^ (8 * w * i) % 2 ^ (8 * w))

/-- The number whose elements of `w` bytes are given. -/
def ofElems (w : Nat) (es : List Nat) : Nat := es.foldr (fun e r => e % 2 ^ (8 * w) + 2 ^ (8 * w) * r) 0

/-- CRC-16/CCITT over bytes, most significant bit first, from 0xFFFF (R188). -/
def crc16 (bs : List Nat) : Nat :=
  bs.foldl (fun c b =>
    (List.range 8).foldl (fun c _ => if c / 2 ^ 15 % 2 = 1 then Nat.xor (c * 2 % 2 ^ 16) 0x1021 else c * 2 % 2 ^ 16)
      (Nat.xor c (b * 256))) 0xFFFF

/-- Element-wise prediction (R184): PRED, element bytes, count, h1 and h2. -/
def predOf (pred w n h1 h2 : Nat) : Nat :=
  if pred = 0 then 0
  else if pred = 3 then
    let m := 2 ^ (8 * w)
    ofElems w (List.zipWith (fun a b => (2 * a + (m - b)) % m) (elemsOf w n h1) (elemsOf w n h2))
  else h1

/-- The residual of data against a prediction (R184). -/
def resOf (pred w n x p : Nat) : Nat :=
  if pred = 2 then Nat.xor x p
  else
    let m := 2 ^ (8 * w)
    ofElems w (List.zipWith (fun a b => (a + (m - b)) % m) (elemsOf w n x) (elemsOf w n p))

/-- The data that a residual and a prediction give (R184). -/
def dataOf (pred w n res p : Nat) : Nat :=
  if pred = 2 then Nat.xor res p
  else
    let m := 2 ^ (8 * w)
    ofElems w (List.zipWith (fun a b => (a + b) % m) (elemsOf w n res) (elemsOf w n p))

/-- Residual bytes in coded order (R185): byte j of element i at position j·n + i. -/
def codedOrder (w n res : Nat) : List Nat :=
  (List.range (w * n)).map (fun p => (byteOf res (w * (p % n) + p / n)).toNat)

/-- The residual whose bytes stand in coded order. -/
def ofCoded (w n : Nat) (bs : List Nat) : Nat :=
  leNat ((List.range (w * n)).map (fun q => BitVec.ofNat 8 (bs.getD (q % w * n + q / w) 0)))

/-- The header of Table 10.4. -/
def blockHeader (kind off gtag crc : Nat) : List Byte :=
  leBytes (kind * 2 ^ 30 + off * 2 ^ 24 + gtag * 2 ^ 16 + crc) 4

/-- The bytes of a CODED block after its header: the map and the non-zero residual bytes (Table 10.3). -/
def codedBody (coded : List Nat) : List Byte :=
  let map := coded.zipIdx.foldl (fun m b => if b.1 = 0 then m else m + 2 ^ b.2) 0
  leBytes map 32 ++ (coded.filter (· != 0)).map (BitVec.ofNat 8)

/-- Number of non-zero bytes. -/
def nnz (coded : List Nat) : Nat := (coded.filter (· != 0)).length

/-- The kind of a block for a receiver (R186). -/
def blockKind (keys : Bool) (coded : List Nat) : Nat :=
  if keys then 3 else if nnz coded = 0 then 0 else if 36 + nnz coded < 4 + coded.length then 1 else 2

/-- The bytes of a block after its header (Table 10.3). -/
def blockBody (kind len x : Nat) (coded : List Nat) : List Byte :=
  match kind with
  | 0 => []
  | 1 => codedBody coded
  | _ => leBytes x len

/-! ### Flow ends (R179 to R183) -/

/-- The table index of a context's flow. -/
def flowKey (ctx f : Nat) : Nat := 1024 * ctx + f

/-- A flow table entry, whatever its V. -/
def State.flow (s : State) (k : Nat) : FlowEnd := (look s.flows k).getD {}

/-- A flow table entry replaced. -/
def State.setFlow (s : State) (k : Nat) (e : FlowEnd) : State := { s with flows := put s.flows k e }

/-- A flow table entry updated. -/
def State.updFlow (s : State) (k : Nat) (f : FlowEnd → FlowEnd) : State := s.setFlow k (f (s.flow k))

/-- A valid flow end of a context (R198). -/
def State.flowEnd (s : State) (ctx : Nat) (f : Word) : Option FlowEnd :=
  if decide (1024 ≤ f.toNat) then none
  else
    let e := s.flow (flowKey ctx f.toNat)
    if e.v then some e else none

/-- Bytes of an element. -/
def FlowEnd.w (e : FlowEnd) : Nat := 2 ^ e.ew

/-- The address of history `h` of an end (Table 10.1). -/
def FlowEnd.hist (e : FlowEnd) (h : Nat) : Nat := 2 ^ 12 * (if h = 0 then e.hbase0 else e.hbase1)

/-- The history that takes the data of a transfer from generation `g` (R183). -/
def FlowEnd.target (e : FlowEnd) (g : Word) : Nat := if e.pred = 3 then (g.toNat + 1) % 2 else 0

/-! ### Histories in memory (R181, R183) -/

/-- An end of a flow as the one that reads a block's histories, and as the one that writes them. -/
def histWho (k off : Nat) : Who := { kind := 3, id := k, part := 2 + off }
def histWrites (k : Nat) : Who := { kind := 3, id := k, part := 1 }

/-- Whether bytes that an end has still to write meet a range. -/
def SectorWrite.meets (x : SectorWrite) (pa n : Nat) : Bool := x.parts.any (fun p => decide (p.1 < pa + n) && decide (pa < p.1 + p.2.1))

/-- A range of bytes cut into the sectors that it is written in. -/
def sectorsOf (pa n v : Nat) : List SectorWrite :=
  (List.range ((n + 31) / 32)).map (fun i => { parts := [(pa + 32 * i, min 32 (n - 32 * i), v / 2 ^ (256 * i) % 2 ^ (8 * min 32 (n - 32 * i)))] })

/-- The bytes of a sector write one by one. -/
def SectorWrite.bytes (x : SectorWrite) : List (Nat × Nat × Nat) :=
  x.parts.flatMap (fun p => (List.range p.2.1).map (fun i => (p.1 + i, 1, (byteOf p.2.2 i).toNat)))

/-- The sector write at a position, where it may be made now: no record holds it, and none before it goes to its sector. -/
def writable (q : List SectorWrite) (i : Nat) : Option SectorWrite :=
  match q[i]? with
  | none => none
  | some x =>
    let at_ := (x.parts.head?.map (·.1)).getD 0 / 32
    if x.fault.isSome || (q.take i).any (·.meets (32 * at_) 32) then none else some x

/-- The first one that may be made. -/
def firstWritable (q : List SectorWrite) : Option (Nat × SectorWrite) :=
  (List.range q.length).findSome? (fun i => (writable q i).map (fun x => (i, x)))

/-- A sector write after the bytes under a mask have been written ahead of the rest, and those bytes. -/
def SectorWrite.tear (x : SectorWrite) (mask : Nat) : SectorWrite × List (Nat × Nat × Nat) :=
  let bs := x.bytes.zipIdx
  ({ x with parts := (bs.filter (fun b => mask / 2 ^ b.2 % 2 == 0)).map (·.1) }, (bs.filter (fun b => mask / 2 ^ b.2 % 2 == 1)).map (·.1))

/-- The prediction of `n` elements at an offset (R183, R184), from histories read as any memory of the module is (R79, R82, R86, R181). -/
def State.prediction (s : State) (k : Nat) (e : FlowEnd) (g : Word) (off n : Nat) : Except EStop (Nat × State) :=
  if e.pred = 0 then .ok (0, s)
  else
    let len := e.w * n
    let hs := if e.pred = 3 then [g.toNat % 2, (g.toNat + 1) % 2] else [0]
    let ps := hs.flatMap (fun h => linePieces 3 (e.hist h + off) len)
    if ps.any (fun x => e.wq.any (·.meets x.1 x.2)) then .error (.wait s)
    else
      match s.physReads (histWho k off) (k / 1024) true ps with
      | .error x => .error x
      | .ok (vs, s) =>
        let bs := (List.zipWith (fun x v => leBytes v x.2) ps vs).flatten
        .ok (predOf e.pred e.w n (leNat (bs.take len)) (leNat (bs.drop len)), s.forget (histWho k off))

/-- Data put on its way to where a block of a transfer goes: the target history, and for a KEY block under KBOTH both (R190, R191). -/
def FlowEnd.queueBlockData (e : FlowEnd) (g : Word) (both : Bool) (off n v : Nat) : FlowEnd :=
  { e with wq := e.wq ++ (if both then [0, 1] else [e.target g]).flatMap (fun h => sectorsOf (e.hist h + off) n v) }

/-- Bytes of one sector of a history written (R79, R82, R86, R181). -/
def State.histPut (s : State) (k : Nat) (ps : List (Nat × Nat × Nat)) : Except EStop State :=
  match s.physHold (k / 1024) (ps.map (·.1)) with
  | some x => .error x
  | none =>
    let here := ps.filter (fun p => s.away p.1 == .here)
    .ok ((ps.foldl (fun (s : State) p => s.physWrite (histWrites k) (k / 1024) p.1 p.2.1 p.2.2) s).settlePoison (k / 1024)
      (here.map (fun p => (p.1, p.2.1))))

/-- A fault of an engine's access at a flow end (R386). -/
def State.flowFault (s : State) (k cause stage : Nat) (kd : AKind) (va : DWord) : State × Nat :=
  s.engineFault (k / 1024) hubCore 0 0 3 k (((s.flow k).run.map (·.x.src)).getD 0) cause stage kd va

/-- The sector write at a position of an end made, or under a mask some of its bytes (R361). -/
def State.flowWrite (s : State) (k i : Nat) (mask : Option Nat) : State :=
  let e := s.flow k
  match writable e.wq i with
  | none => s
  | some x =>
    let (rest, now) := match mask with | some m => x.tear m | none => ({ x with parts := [] }, x.parts)
    if mask.isSome && now.any (fun p => s.poisoned p.1 1) then s
    else
      match s.histPut k now with
      | .error (.wait s) => s
      | .error (.fault c st kd va) =>
        let (s, rid) := s.flowFault k c st kd va
        s.updFlow k (fun e => { e with wq := updAt e.wq i (fun x => { x with fault := some rid }) })
      | .ok s => s.updFlow k (fun e => { e with wq := if rest.parts.isEmpty then e.wq.eraseIdx i else updAt e.wq i (fun _ => rest) })

/-- Number of blocks of a transfer (R185). -/
def blocksOf (len : Nat) : Nat := (len + 255) / 256

/-- Bytes of block `b` of a transfer (R185). -/
def blockLen (len b : Nat) : Nat := min 256 (len - 256 * b)

/-- Counter `i` of an end (R200, sel − 2) advanced. -/
def FlowEnd.count (e : FlowEnd) (i n : Nat) : FlowEnd := { e with stats := updAt e.stats i (· + BitVec.ofNat 64 n) }

/-! ### Messages (R189, R420) -/

/-- The 8-byte header of a flow message (R189): its type, the destination end's slot, and the first block and the count. -/
def flowHdr (kind slot base cnt : Nat) : DWord :=
  BitVec.ofNat 64 (kind % 16 * 2 ^ 60 + slot % 2 ^ 14 * 2 ^ 46 + base % 2 ^ 24 * 2 ^ 22 + (cnt - 1) % 64 * 2 ^ 16)

/-- TYPE, the destination slot, BASE and CNT of a header (R189), and whether the bits that are zero are. -/
def hdrKind (h : DWord) : Nat := (bits h 63 60)
def hdrSlot (h : DWord) : Nat := (bits h 59 46)
def hdrBase (h : DWord) : Nat := (bits h 45 22)
def hdrCnt (h : DWord) : Nat := bits h 21 16 + 1
def hdrOk (kind : Nat) (h : DWord) : Bool := hdrKind h == kind && bits h 15 0 == 0

/-- A flow message sent by an end (R189): counted at the end, and in the collective whose chunk it carries. -/
def State.flowMsg (s : State) (k : Nat) (mod slot kind base cnt : Nat) (body : List Byte) (chunk : Option ChunkMeta) :
    State :=
  let ctx := k / 1024
  if ctx != 0 && (s.ctx ctx).dtag == 0 then s
  else
    let e := s.flow k
    let s := s.setFlow k (e.count 1 (8 + body.length))
    let s :=
      match e.run.bind (fun r => r.x.chunk) with
      | some (id, _, _) =>
        if e.dir then s
        else
          match look s.colls id with
          | some c =>
            let s : State := { s with colls := put s.colls id { c with sent := c.sent + 8 + body.length } }
            match look s.pelotons c.pel with
            | some p => { s with pelotons := put s.pelotons c.pel { p with bytes := p.bytes + BitVec.ofNat 64 (8 + body.length) } }
            | none => s
          | none => s
      | none => s
    s.send (.flow ctx mod (flowHdr kind slot base cnt) body chunk)

/-- The blocks collected for a receiver sent as one BLOCKS message. -/
def State.flushRecv (s : State) (k : Nat) (r : FlowRecv) : State × FlowRecv :=
  if r.cnt = 0 || r.excl != 0 then (s, { r with cnt := 0, buf := [] })
  else (s.flowMsg k r.mod r.slot 0 r.base r.cnt r.buf none, { r with cnt := 0, buf := [] })

/-- One block for a receiver, put behind the blocks that wait (R189: consecutive indices, at most 64 blocks and 4,096 bytes
a message). -/
def State.queueBlock (s : State) (k : Nat) (r : FlowRecv) (b kind gtag crc : Nat) (body : List Byte) : State × FlowRecv :=
  if r.excl != 0 then (s, r)
  else
    let full := r.cnt != 0 && (b != r.base + r.cnt || r.cnt == 64 || decide (4096 < r.buf.length + 4 + body.length))
    let (s, r) := if full then s.flushRecv k r else (s, r)
    let r := if r.cnt = 0 then { r with base := b } else r
    let bytes := blockHeader kind (b - r.base) gtag crc ++ body
    (s.updFlow k (fun e => e.count (2 + kind) 1),
      { r with cnt := r.cnt + 1, buf := r.buf ++ bytes, gotKey := r.gotKey || kind == 3 })

/-- A step made for each receiver of a transfer. -/
def eachRecv (f : State → FlowRecv → State × FlowRecv) (s : State) : List FlowRecv → State × List FlowRecv
  | [] => (s, [])
  | r :: rs =>
    let (s, r) := f s r
    let (s, rs) := eachRecv f s rs
    (s, r :: rs)

/-! ### The end of a transfer (R190 step 5, R199) -/

/-- Whether a wait of a group is over (R199): 1 where the generation is reached. -/
def FlowEnd.waitOver (e : FlowEnd) (g : Word) : Option Nat :=
  if (e.gen - g).toNat < 2 ^ 31 then some 1
  else if !e.dir && e.run.isNone && e.queue.isEmpty then some 0 else none

/-- The groups that wait on an end are released where their wait is over, or where the end is gone (R199). -/
def State.wakeFlow (s : State) (k : Nat) : State :=
  let e := s.flow k
  let wake (gr : Group) : Group :=
    match gr.hold with
    | some (.flow f g) =>
      if f = k % 1024 then
        if !e.v then { gr with hold := some (.answered 0) }
        else
          match e.waitOver g with
          | some v => { gr with hold := some (.answered v) }
          | none => gr
      else gr
    | _ => gr
  { s with
    teams := s.teams.map (fun t => if t.2.ctx = k / 1024 then (t.1, { t.2 with groups := t.2.groups.map wake }) else t) }

/-- The least non-zero code, 0 if there is none. -/
def leastCode (cs : List Nat) : Nat := cs.foldl (fun a c => if c = 0 then a else if a = 0 then c else min a c) 0

/-- A collective updated. -/
def State.updColl (s : State) (id : Nat) (f : Coll → Coll) : State :=
  match look s.colls id with
  | some c => { s with colls := put s.colls id (f c) }
  | none => s

/-- A transfer ends at its send end (R190, step 5). A chunk that it carried of an epoch or attempt before a restart fails nothing (R328). -/
def State.flowFinish (s : State) (k : Nat) (fault : Bool) : State :=
  let e := s.flow k
  match e.run with
  | none => s
  | some r =>
    let g1 := r.g + 1
    let err := if fault then 1 else leastCode (r.recvs.map (·.excl))
    let s :=
      if e.mc then
        r.recvs.foldl (fun (s : State) (x : FlowRecv) =>
          let i := 64 * e.mgrp + x.idx
          match look s.mcast i with
          | some m =>
            let ok := x.acked && !fault
            let m : McSlot := { m with ackgen := if ok then g1 else m.ackgen, lag := !ok, kmark := e.pred == 3 && x.gotKey }
            { s with mcast := put s.mcast i m }
          | none => s) s
      else s
    let acked := !e.mc && !fault && r.recvs.any (·.acked)
    let s := s.setFlow k
      { e with gen := g1, err := err, busy := false, run := none, ackgen := if acked then g1 else e.ackgen }
    let s :=
      match r.x.chunk with
      | some (id, m, _) =>
        s.updColl id (fun c =>
          { c with sending := c.sending - 1, since := s.time, status := if err = 0 || m.epoch != c.epoch || m.attempt != c.attempt then c.status else leastCode [c.status, 4] })
      | none => s
    s.wakeFlow k

/-- The transfer ends when every receiver has acknowledged or been excluded after TAIL (R190, step 4). -/
def State.flowSettle (s : State) (k : Nat) : State :=
  match (s.flow k).run with
  | some r =>
    if r.tailAt.isSome && r.recvs.all (fun x => x.acked || x.excl != 0) then s.flowFinish k false else s
  | none => s

/-- What waits for each receiver and TAIL are sent when every block has been (R190, step 3). -/
def State.flowTail (s : State) (k : Nat) : State :=
  match (s.flow k).run with
  | some r =>
    if r.tailAt.isSome || decide (r.next < blocksOf r.x.len) then s
    else
      let tail := leBytes r.g.toNat 4 ++ leBytes (blocksOf r.x.len) 4
      let (s, rs) := eachRecv (fun (s : State) x =>
        let (s, x) := s.flushRecv k x
        (if x.excl != 0 then s else s.flowMsg k x.mod x.slot 2 0 1 tail none, x)) s r.recvs
      (s.updFlow k (fun e => { e with run := some { r with recvs := rs, tailAt := some s.time } })).flowSettle k
  | none => s

/-! ### Steps of a send end (R190, R192 to R194) -/

/-- Whether a context's sending goes on (R196). -/
def State.sends (s : State) (ctx : Nat) : Bool := (s.ctx ctx).res == .running || (s.ctx ctx).res == .resuming

/-- LAG of a receiver slot (Table 10.2): its ACKGEN differs from the send end's GEN, or it has acknowledged nothing since the slot
was written or since it was left out of a transfer (R182, R190 step 5). -/
def McSlot.lagging (m : McSlot) (gen : Word) : Bool := m.lag || m.ackgen != gen

/-- The receivers of a transfer (R190 step 1, R192, R194). -/
def State.flowTargets (s : State) (k : Nat) (e : FlowEnd) (key : Bool) : List FlowRecv :=
  let noTag := k / 1024 != 0 && (s.ctx (k / 1024)).dtag == 0
  let excl (m : Nat) : Nat := if noTag then 3 else if (s.routes m).isEmpty then 2 else 0
  if e.mc then
    (List.range 64).filterMap (fun i =>
      match look s.mcast (64 * e.mgrp + i) with
      | some m =>
        if m.v then
          some { idx := i, mod := m.mod, slot := m.pflow, keys := key || m.lagging e.gen || m.kmark, excl := excl m.mod }
        else none
      | none => none)
  else [{ idx := 0, mod := e.peer, slot := e.pflow, keys := key || e.ackgen != e.gen, excl := excl e.peer }]

/-- The body of THDR (R420). -/
def thdrBody (g : Word) (len pred ew : Nat) (keyall kboth : Bool) : List Byte :=
  leBytes (g.toNat + len * 2 ^ 32 + pred * 2 ^ 64 + ew * 2 ^ 66 + (if keyall then 2 ^ 68 else 0) + (if kboth then 2 ^ 69 else 0)) 12

/-- The next queued transfer of an end begins, after the earlier accesses of the group that issued it (R190 step 1, R198, R362). -/
def State.flowStart (s : State) (k : Nat) : State :=
  let e := s.flow k
  match e.queue with
  | [] => s
  | x :: q =>
    if !e.v || e.zeroing || e.dir || e.run.isSome || !s.sends (k / 1024) || !s.issuerDone x.by_ then s
    else
      let rs := s.flowTargets k e x.key
      let kboth := e.pred == 3 && !e.mc
      let s := s.setFlow k { e with queue := q, busy := true, run := some { x := x, g := e.gen, recvs := rs } }
      if k / 1024 != 0 && (s.ctx (k / 1024)).dtag == 0 then s.flowFinish k false
      else
        let s := rs.foldl (fun (s : State) r =>
          if r.excl != 0 then s
          else s.flowMsg k r.mod r.slot 1 0 1 (thdrBody e.gen x.len e.pred e.ew r.keys kboth) (x.chunk.map (·.2.1))) s
        s.flowTail k

/-- FLOW_TRANSFER_START: an end begins its next queued transfer. -/
def execFlowTransferStart (ctx flow : Nat) (s : State) : Out := .next (s.flowStart (flowKey ctx flow))

/-- An engine's read of `n` bytes, line by line (R148, R151). -/
def State.engLoadSpan (s : State) (w : Who) (core ctx : Nat) : Nat → DWord → Nat → Except EStop (List Byte × State)
  | 0, _, _ => .ok ([], s)
  | fuel + 1, va, n =>
    if n = 0 then .ok ([], s)
    else
      let m := min n (128 - va.toNat % 128)
      match s.engLoad w core ctx va m with
      | .error e => .error e
      | .ok (v, s) => (State.engLoadSpan s w core ctx fuel (va + BitVec.ofNat 64 m) (n - m)).map (fun r => (leBytes v m ++ r.1, r.2))

/-- A source block that has been read, with its prediction `p`, is coded, written to history and sent to each receiver (R190, step 2). -/
def State.flowBlock (s : State) (k : Nat) (r : FlowRun) (bytes : List Byte) (p : Nat) : State :=
  let e := s.flow k
  let b := r.next
  let off := 256 * b
  let len := blockLen r.x.len b
  let n := len / e.w
  let x := leNat bytes
  let coded := codedOrder e.w n (resOf e.pred e.w n x p)
  let crc := crc16 ((leBytes p len).map (·.toNat))
  let both := e.pred == 3 && !e.mc && r.recvs.any (·.keys)
  let s := s.setFlow k (e.queueBlockData r.g both off len x)
  let live := (r.recvs.filter (fun y => y.excl == 0)).length
  let s := s.updFlow k (fun e => e.count 0 (len * live))
  let (s, rs) := eachRecv (fun (s : State) y =>
    let kind := blockKind y.keys coded
    s.queueBlock k y b kind (r.g.toNat % 256) crc (blockBody kind len x coded)) s r.recvs
  (s.updFlow k (fun e => { e with run := some { r with next := b + 1, crcs := r.crcs ++ [crc], recvs := rs } })).flowTail k

/-- The send end of a flow, as the one that reads its source. -/
def flowWho (k : Nat) : Who := { kind := 3, id := k }

/-- What holds a send end (R386): its source, or a history, cannot be read. -/
def State.runFault (s : State) (k cause stage : Nat) (kd : AKind) (va : DWord) : State :=
  let (s, rid) := (s.forget (flowWho k)).flowFault k cause stage kd va
  s.updFlow k (fun e => { e with run := e.run.map (fun r => { r with fault := some rid }) })

/-- FLOW_SOURCE_BLOCK_READ: a send end's read of one source block is tried, and completes where its bytes and those of its histories are
here (R190, step 2): those of a peer or the host with the response to its READ, none from `_data`. -/
def execFlowSourceBlockRead (ctx flow : Nat) (_data : List Byte) (s : State) : Out :=
  let k := flowKey ctx flow
  match (s.flow k).run with
  | none => .next s
  | some r =>
    if !s.sends ctx || r.fault.isSome || decide (blocksOf r.x.len ≤ r.next) then .next s
    else
      let len := blockLen r.x.len r.next
      let source : Except EStop (List Byte × State) :=
        match r.x.chunk with
        | some (_, _, bytes) => .ok ((bytes.drop (256 * r.next)).take len, s)
        | none => s.engLoadSpan (flowWho k) hubCore ctx 4 (r.x.src + BitVec.ofNat 64 (256 * r.next)) len
      match source with
      | .error (.wait s) => .next s
      | .error (.fault c st kd va) => .next (s.runFault k c st kd va)
      | .ok (bytes, s) =>
        match s.prediction k (s.flow k) r.g (256 * r.next) (len / (s.flow k).w) with
        | .error (.wait s) => .next s
        | .error (.fault c st kd va) => .next (s.runFault k c st kd va)
        | .ok (p, s) => .next ((s.forget (flowWho k)).flowBlock k r bytes p)

/-- The blocks of a range sent again as KEY, from history (R193). A KEY block of a unicast send end under LIN also writes the other
history (R190). -/
def State.flowResend (s : State) (k : Nat) (r : FlowRun) (y : FlowRecv) (first cnt : Nat) : Except EStop (State × FlowRecv) :=
  let e := s.flow k
  let idx := ((List.range r.next).drop first).take cnt
  let ps (b : Nat) : List (Nat × Nat) := linePieces 3 (e.hist (e.target r.g) + 256 * b) (blockLen r.x.len b)
  match s.physReads (histWho k (2 ^ 32)) (k / 1024) true (idx.flatMap ps) with
  | .error x => .error x
  | .ok (vs, s) =>
    let bs := (List.zipWith (fun x v => leBytes v x.2) (idx.flatMap ps) vs).flatten
    let (s, z) := idx.zipIdx.foldl (fun (a : State × FlowRecv) b =>
      let len := blockLen r.x.len b.1
      let x := leNat ((bs.drop (256 * b.2)).take len)
      let s := if e.pred == 3 && !e.mc then a.1.updFlow k (fun e => e.queueBlockData r.g true (256 * b.1) len x) else a.1
      s.queueBlock k a.2 b.1 3 (r.g.toNat % 256) (r.crcs.getD b.1 0) (leBytes x len)) (s.forget (histWho k (2 ^ 32)), { y with cnt := 0, buf := [] })
    let (s, z) := s.flushRecv k z
    .ok (s, { y with gotKey := y.gotKey || z.gotKey })

/-- The outstanding resync ranges of an end served in order (R193), once the data that it has sent stands in its history. -/
def State.flowServe : Nat → State → Nat → State
  | 0, s, _ => s
  | n + 1, s, k =>
    let e := s.flow k
    match e.run with
    | none => s
    | some r =>
      match r.resync with
      | [] => s
      | q :: rest =>
        if r.fault.isSome || !e.wq.isEmpty || !s.sends (k / 1024) then s
        else
          match r.recvs.find? (fun y => y.idx == q.1 && y.excl == 0 && !y.acked) with
          | none => State.flowServe n (s.setFlow k { e with run := some { r with resync := rest } }) k
          | some y =>
            match s.flowResend k r y q.2.1 q.2.2 with
            | .error (.wait s) => s
            | .error (.fault c st kd va) => s.runFault k c st kd va
            | .ok (s, y) =>
              State.flowServe n (s.updFlow k (fun e => { e with
                run := some { r with resync := rest, recvs := r.recvs.map (fun z => if z.idx = y.idx then y else z) } })) k

/-! ### Arrival of flow messages (R171, R172, R187, R191, R420) -/

/-- A flow message reaches the end that it names (R171, R172): performed once, dropped and counted where its tag is not that
of the end's context. One whose header is not of the message's type is discarded, TYPE 6 to 15 among them (R189). -/
def State.flowArrive (s : State) (src tid tag kind : Nat) (hdr : DWord) (size : Nat) (f : State → Nat → State) : State :=
  match s.answeredTo src tid with
  | some a => s.send (.response src tid a.status a.data)
  | none =>
    match s.flows.find? (fun x => x.2.v && x.2.slot == hdrSlot hdr) with
    | none => s.answer src tid 0x0B []
    | some (k, e) =>
      if (s.ctx (k / 1024)).dtag != tag then ({ s with domainDrop := s.domainDrop + 1 } : State).answer src tid 0x0B []
      else
        let s := (s.setFlow k (e.count 1 size)).countRx (k / 1024) size
        (if hdrOk kind hdr then f s k else s).answer src tid 0 []

/-- A RESYNC sent by a receive end (R191, R420). -/
def State.sendResync (s : State) (k : Nat) (g : Word) (first cnt : Nat) : State :=
  let e := s.flow k
  (s.setFlow k (e.count 6 1)).flowMsg k e.peer e.pflow 3 0 1 (leBytes (g.toNat + first * 2 ^ 32 + cnt * 2 ^ 64) 12) none

/-- A receive end completes its transfer (R191): generation, BUSY and ACK; a chunk goes to the collective engine, with its data as it
was applied. -/
def State.flowComplete (s : State) (k : Nat) (rx : FlowRx) : State :=
  let e := s.flow k
  let s := (s.forget (histWrites k)).setFlow k { e with gen := rx.g + 1, busy := false, rx := none }
  let s := s.flowMsg k e.peer e.pflow 4 0 1 (leBytes (rx.g + 1).toNat 4) none
  let bytes := (List.range (blocksOf rx.len)).flatMap (fun b => leBytes ((look rx.applied b).getD 0) (blockLen rx.len b))
  let s : State := match rx.chunk with
    | some m => { s with early := s.early ++ [(k, { m := m, bytes := bytes })] }
    | none => s
  s.wakeFlow k

/-- The blocks of a message body (R187, R420); none where the body does not have its size. -/
def parseBlocks (len base cnt : Nat) : Nat → List Byte → Option (List Block)
  | 0, [] => some []
  | 0, _ => none
  | n + 1, body =>
    if body.length < 4 then none
    else
      let h := leNat (body.take 4)
      let rest := body.drop 4
      let off := h / 2 ^ 24 % 2 ^ 6
      let kind := h / 2 ^ 30 % 4
      let blen := blockLen len (base + off)
      let map := leNat (rest.take 32)
      let size :=
        match kind with
        | 0 => 0
        | 1 => 32 + ((List.range 256).filter (fun i => map.testBit i)).length
        | _ => blen
      if rest.length < size then none
      else
        let ok := decide (off < cnt) && (kind != 1 || map / 2 ^ blen == 0)
        match parseBlocks len base cnt n (rest.drop size) with
        | none => none
        | some bs =>
          some ({ idx := base + off, kind := kind, gtag := h / 2 ^ 16 % 2 ^ 8, crc := h % 2 ^ 16, ok := ok, bytes := rest.take size } :: bs)

/-- The data of a block that is no KEY, against a prediction. -/
def Block.data (b : Block) (e : FlowEnd) (n p : Nat) : Nat :=
  match b.kind with
  | 0 => p
  | 1 =>
    let map := leNat (b.bytes.take 32)
    let place (a : List Nat × List Byte) (i : Nat) : List Nat × List Byte :=
      if map.testBit i then (a.1 ++ [(a.2.headD 0).toNat], a.2.drop 1) else (a.1 ++ [0], a.2)
    let coded := ((List.range (e.w * n)).foldl place ([], b.bytes.drop 32)).1
    dataOf e.pred e.w n (ofCoded e.w n coded) p
  | _ => leNat b.bytes

/-- A block checked and applied at a receive end (R191). -/
def State.takeBlock (s : State) (k : Nat) (b : Block) : Except EStop State :=
  let e := s.flow k
  match e.rx with
  | none => .ok s
  | some rx =>
    let len := blockLen rx.len b.idx
    let n := len / e.w
    let rx := { rx with todo := rx.todo.erase b }
    let gone (s : State) : State := s.updFlow k (fun e => { e.count (2 + b.kind) 1 with rx := some rx })
    let done (s : State) (both : Bool) (x : Nat) : State :=
      s.updFlow k (fun e =>
        { ((e.count (2 + b.kind) 1).count 0 len).queueBlockData rx.g both (256 * b.idx) len x with
          rx := some { rx with applied := (b.idx, if rx.chunk.isSome then x else 0) :: rx.applied } })
    if !b.ok || decide (blocksOf rx.len ≤ b.idx) || (look rx.applied b.idx).isSome || b.gtag != rx.g.toNat % 256
        || (rx.lag && b.kind != 3) then .ok (gone s)
    else if b.kind = 3 then .ok (done s (e.pred == 3 && rx.kboth) (leNat b.bytes))
    else
      match s.prediction k e rx.g (256 * b.idx) n with
      | .error x => .error x
      | .ok (p, s) =>
        if crc16 ((leBytes p len).map (·.toNat)) != b.crc then .ok ((gone s).sendResync k rx.g b.idx 1)
        else .ok (done s false (b.data e n p))

/-- How far the arrivals at a launch counter have outrun their reduce teams (R320): the age of the oldest staged arrival of the tenant's
collectives whose team has not ended. -/
def State.outrun (s : State) (ctx i : Nat) : Nat :=
  let seq := lcSeq (Sparse.get (0 : BitVec 192) (s.ctx ctx).lctrs i)
  (s.colls.filter (fun c => c.2.ctx == ctx && Cd.red c.2.dws && Cd.lctr c.2.dws == i)).foldl (fun a c =>
    c.2.staged.foldl (fun a q => if c.2.ready.any (fun r => r.1 == q.1) then a else max a ((seq + 2 ^ 32 - q.1) % 2 ^ 32)) a) 0

/-- Whether a chunk would outrun the reduce teams of its collective's launch counter: its receive end is held (R320). -/
def State.redFull (s : State) (k : Nat) (m : ChunkMeta) : Bool :=
  decide (m.phase ≤ 1) && s.colls.any (fun c =>
    let f := Cd.flow c.2.dws
    c.2.ctx == k / 1024 && c.2.ended.isNone && c.2.ord == m.ord && Cd.red c.2.dws
      && (flowKey c.2.ctx (f + 1) == k || flowKey c.2.ctx (f + 3) == k)
      && decide (4096 ≤ s.outrun c.2.ctx (Cd.lctr c.2.dws)
        + ((s.early.filter (fun x => x.1 == k)).length + (c.2.arr.filter (fun a => decide (a.m.phase ≤ 1))).length)))

/-- The end completes when every index is applied and written (R191), and its collective can take the chunk (R320). -/
def State.rxSettle (s : State) (k : Nat) : State :=
  let e := s.flow k
  match e.rx with
  | some rx =>
    if !rx.refused && rx.fault.isNone && rx.len != 0 && rx.applied.length == blocksOf rx.len && e.wq.isEmpty
        && s.sent (histWrites k) != .waiting && !(rx.chunk.any (s.redFull k)) then s.flowComplete k rx else s
  | none => s

/-- How a list of tries came out. -/
inductive Tried where
  /-- One was made. -/
  | went
  /-- All have to wait. -/
  | stuck
  /-- The first that does not wait faults; `key` is its piece of work. -/
  | fault (key cause stage : Nat) (k : AKind) (va : DWord)
deriving DecidableEq, Repr

/-- The first of some tries that does not have to wait; what those that wait have asked for stays asked for. -/
def firstGo : List (Nat × (State → Except EStop State)) → State → State × Tried
  | [], s => (s, .stuck)
  | f :: fs, s =>
    match f.2 s with
    | .ok s => (s, .went)
    | .error (.wait s) => firstGo fs s
    | .error (.fault cause stage k va) => (s, .fault f.1 cause stage k va)

/-- The blocks that wait at a receive end are checked as far as their histories can be read; one whose histories cannot is first, under
an engine record (R86, R386). -/
def State.flowTake : Nat → State → Nat → State
  | 0, s, _ => s
  | n + 1, s, k =>
    match (s.flow k).rx with
    | none => s
    | some rx =>
      if rx.fault.isSome then s
      else
        match firstGo (rx.todo.map (fun b => (b.idx, fun (s : State) => s.takeBlock k b))) s with
        | (s, .went) => State.flowTake n s k
        | (s, .stuck) => s
        | (s, .fault i c st kd va) =>
          let (s, rid) := s.flowFault k c st kd va
          let top (rx : FlowRx) : FlowRx :=
            { rx with todo := rx.todo.filter (fun b => b.idx == i) ++ rx.todo.filter (fun b => b.idx != i), fault := some rid }
          s.updFlow k (fun e => { e with rx := e.rx.map top })

/-- A flow end goes on as far as it can without writing. -/
def State.flowPump (s : State) (k : Nat) : State :=
  let s := s.flowTake ((((s.flow k).rx.map (fun r => r.todo.length)).getD 0) + 1) k
  (s.rxSettle k).flowServe ((((s.flow k).run.map (fun r => r.resync.length)).getD 0) + 1) k

/-- A flow end's next write is made, and it goes on. -/
def State.flowGo (s : State) (k : Nat) : State :=
  ((match firstWritable (s.flow k).wq with | some x => s.flowWrite k x.1 none | none => s) : State).flowPump k

/-- Runs of consecutive missing indices: first and count. -/
def missingRuns (applied : List Nat) (n : Nat) : List (Nat × Nat) :=
  (List.range n).foldl (fun (rs : List (Nat × Nat)) i =>
    if applied.contains i then rs
    else
      match rs.reverse with
      | (a, c) :: t => if a + c = i then (t.reverse ++ [(a, c + 1)]) else rs ++ [(i, 1)]
      | [] => [(i, 1)]) []

/-- A BLOCKS or TAIL message, or ABORT, at a receive end whose header has arrived (R191, R196). -/
def State.rxMessage (s : State) (k : Nat) (m : EarlyMsg) : State :=
  match (s.flow k).rx with
  | none => s
  | some rx =>
    if rx.src != m.src then s
    else if m.kind = 0 then
      if rx.refused then s
      else
        match parseBlocks rx.len m.base m.cnt m.cnt m.body with
        | none => s
        | some bs => s.updFlow k (fun e => { e with rx := some { rx with todo := rx.todo ++ bs } })
    else
      let g := leNat (m.body.take 4)
      if g != rx.g.toNat then s
      else if m.kind = 5 then s.updFlow k (fun e => { e with rx := none, busy := false })
      else if rx.refused then s
      else if rx.len = 0 then s.flowComplete k rx
      else (missingRuns (rx.applied.map (·.1)) (blocksOf rx.len)).foldl (fun (s : State) q => s.sendResync k rx.g q.1 q.2) s

/-- A message for a receive end: kept until the header it belongs to has arrived (R169, R195). -/
def State.rxTake (s : State) (k : Nat) (m : EarlyMsg) : State :=
  let e := s.flow k
  let other := match e.rx with
    | none => true
    | some rx => m.kind != 0 && leNat (m.body.take 4) != rx.g.toNat
  if !e.dir || e.zeroing || e.peer != m.src then s
  else if other then s.updFlow k (fun e => { e with early := e.early ++ [m] })
  else s.rxMessage k m

/-- BLOCKS arrive at a receive end (R191). -/
def State.onBlocks (s : State) (src tid tag : Nat) (hdr : DWord) (body : List Byte) : State :=
  s.flowArrive src tid tag 0 hdr (8 + body.length) (fun s k =>
    (s.rxTake k { kind := 0, src := src, base := hdrBase hdr, cnt := hdrCnt hdr, body := body }).flowPump k)

/-- THDR arrives at a receive end (R191). -/
def State.onThdr (s : State) (src tid tag : Nat) (hdr : DWord) (body : List Byte) (chunk : Option ChunkMeta) : State :=
  s.flowArrive src tid tag 1 hdr (8 + body.length) (fun s k =>
    let e := s.flow k
    let v := leNat body
    let g : Word := BitVec.ofNat 32 v
    let len := v / 2 ^ 32 % 2 ^ 32
    if !e.dir || e.zeroing || e.peer != src || body.length != 12 || v / 2 ^ 70 != 0 then s
    else
      let refused := v / 2 ^ 64 % 4 != e.pred || v / 2 ^ 66 % 4 != e.ew || decide (e.maxlen < len)
      let rx : FlowRx :=
        { g := g, len := len, src := src, lag := g != e.gen, kboth := v / 2 ^ 69 % 2 == 1, refused := refused, chunk := chunk }
      let s := s.setFlow k { e with rx := some rx, busy := !refused, early := [] }
      let s := if !refused && rx.lag && v / 2 ^ 68 % 2 == 0 then s.sendResync k g 0 0xFFFFFFFF else s
      (e.early.foldl (fun (s : State) m => (s.rxMessage k m).flowPump k) s))

/-- TAIL arrives at a receive end (R191). -/
def State.onTail (s : State) (src tid tag : Nat) (hdr : DWord) (body : List Byte) : State :=
  s.flowArrive src tid tag 2 hdr (8 + body.length) (fun s k =>
    if body.length != 8 then s else s.rxTake k { kind := 2, src := src, base := 0, cnt := 1, body := body })

/-- RESYNC arrives at a send end (R193): the range is sent again as KEY; at a stopped sender it joins the saved list, and
where the list is full it is taken as RESYNC ALL. -/
def execResync (src tid tag : Nat) (hdr : DWord) (body : List Byte) (s : State) : Out :=
  .next (s.flowArrive src tid tag 3 hdr (8 + body.length) (fun s k =>
    let e := if (s.flow k).dir then s.flow k else (s.flow k).count 6 1
    let s := s.setFlow k e
    match e.run with
    | none => s
    | some r =>
      let v := leNat body
      if e.dir || body.length != 12 || v % 2 ^ 32 != r.g.toNat then s
      else
        match r.recvs.find? (fun y => y.mod == src && y.excl == 0 && !y.acked) with
        | none => s
        | some y =>
          let all := v / 2 ^ 64 == 0xFFFFFFFF || decide (64 ≤ r.resync.length)
          let range := if all then (y.idx, 0, r.next) else (y.idx, v / 2 ^ 32 % 2 ^ 32, v / 2 ^ 64)
          let rs := r.recvs.map (fun z => if z.idx = y.idx then { z with keys := z.keys || all } else z)
          let kept := if all then r.resync.filter (fun q => q.1 != y.idx) else r.resync
          let s := s.setFlow k { e with run := some { r with recvs := rs, resync := kept ++ [range] } }
          s.flowPump k))

/-- ACK arrives at a send end (R190); the transfer may end. -/
def State.onAck (s : State) (src tid tag : Nat) (hdr : DWord) (body : List Byte) : State :=
  s.flowArrive src tid tag 4 hdr (8 + body.length) (fun s k =>
    let e := s.flow k
    match e.run with
    | none => s
    | some r =>
      if e.dir || body.length != 4 || leNat body != (r.g + 1).toNat then s
      else
        let rs := r.recvs.map (fun y => if y.mod = src && y.excl == 0 then { y with acked := true } else y)
        (s.setFlow k { e with run := some { r with recvs := rs } }).flowSettle k)

/-- ABORT arrives at a receive end, which clears BUSY and keeps its GEN (R196). -/
def execAbort (src tid tag : Nat) (hdr : DWord) (body : List Byte) (s : State) : Out :=
  .next (s.flowArrive src tid tag 5 hdr (8 + body.length) (fun s k =>
    if body.length != 4 then s else s.rxTake k { kind := 5, src := src, base := 0, cnt := 1, body := body }))

/-- The tenant's flow deadline in ns (R192). -/
def State.deadline (s : State) (ctx : Nat) : Nat := 1000 * (s.ctx ctx).flowDl.toNat

/-- FLOW_DEADLINE: the deadline after TAIL has passed, and the receivers that have not acknowledged are excluded with PEER
(R192). -/
def State.onFlowDeadline (s : State) (k : Nat) : State :=
  match (s.flow k).run with
  | none => s
  | some r =>
    match r.tailAt with
    | none => s
    | some t =>
      if !s.sends (k / 1024) || decide ((s.time - t).toNat < s.deadline (k / 1024)) then s
      else
        let rs := r.recvs.map (fun y => if y.acked || y.excl != 0 then y else { y with excl := 3 })
        (s.updFlow k (fun e => { e with run := some { r with recvs := rs } })).flowSettle k

/-- The receivers at a module to which no route is left are excluded with LINK (R192). -/
def State.flowLost (s : State) (mod : Nat) : State :=
  s.flows.foldl (fun (s : State) x =>
    match (s.flow x.1).run with
    | none => s
    | some r =>
      let rs := r.recvs.map (fun y => if y.mod = mod && !y.acked && y.excl == 0 then { y with excl := 2, cnt := 0, buf := [] } else y)
      (s.updFlow x.1 (fun e => { e with run := some { r with recvs := rs } })).flowSettle x.1) s

/-- A record of a flow end taken up: what it held goes on (R386). -/
def State.flowResolve (s : State) (k rid : Nat) : State :=
  let free (f : Option Nat) : Option Nat := if f = some rid then none else f
  (s.updFlow k (fun e => { e with
    run := e.run.map (fun r => { r with fault := free r.fault }), rx := e.rx.map (fun r => { r with fault := free r.fault })
    wq := e.wq.map (fun x => { x with fault := free x.fault }) })).flowPump k

/-- A receive end's fault abandoned: the block whose histories could not be read is discarded and asked for again, as one that failed
its check is; a write is given up (DESIGN CHOICE, log entry 99). -/
def State.flowGiveUp (s : State) (k rid : Nat) : State :=
  let e := s.flow k
  let s := s.setFlow k { e with wq := e.wq.filter (fun x => x.fault != some rid) }
  match e.rx with
  | some rx =>
    if rx.fault != some rid then s.flowPump k
    else
      let s := s.updFlow k (fun e => { e with rx := some { rx with todo := rx.todo.drop 1, fault := none } })
      (match rx.todo.head? with | some b => s.sendResync k rx.g b.idx 1 | none => s).flowPump k
  | none => s

/-- A fault of a flow end that the module kernel abandons: where it stopped the send end's transfer, that ends with ABORT (R196). -/
def State.flowAbandon (s : State) (k rid : Nat) : State :=
  match (s.flow k).run with
  | none => s.flowGiveUp k rid
  | some r =>
    if r.fault != some rid then s.flowGiveUp k rid
    else
      let s := r.recvs.foldl (fun (s : State) y =>
        if y.excl != 0 then s else s.flowMsg k y.mod y.slot 5 0 1 (leBytes r.g.toNat 4) none) s
      s.flowFinish k true

/-! ### Table writes (R18, R179 to R182) -/

/-- The writable fields of an entry (Table 10.1). -/
def FlowEnd.write (e : FlowEnd) (slot : Nat) (v : BitVec 256) : FlowEnd :=
  { e with
    slot := slot, maxlen := bits v 223 192, hbase1 := bits v 191 153, hbase0 := bits v 152 114, peer := bits v 113 106,
    pflow := bits v 105 92, mgrp := bits v 91 82, ew := bits v 7 6, pred := bits v 5 4, mc := bit v 3, dir := bit v 2,
    v := bit v 0 }

/-- Whether a written entry is refused (R18, R180). -/
def State.flowRefused (s : State) (k : Nat) (v : BitVec 256) (e : FlowEnd) : Bool :=
  let badHist (h : Nat) : Bool := decide (Config.carveOut < e.hist h + e.maxlen)
  bits v 81 72 != 0 || bits v 31 8 != 0 || e.ew == 3 || e.maxlen % 256 != 0 || decide (e.maxlen < 256)
    || decide (0xFFFFFF00 < e.maxlen) || (e.mc && e.dir) || badHist 0 || (e.pred == 3 && badHist 1)
    || decide (16384 ≤ e.slot) || s.flows.any (fun x => x.1 != k && x.2.v && x.2.slot == e.slot)

/-- FLOW_END_CREATE: context 0 writes an entry with V = 1 (R179, R180). -/
def execFlowEndCreate (ctx flow slot : Nat) (v : BitVec 256) (s : State) : Out :=
  let k := flowKey ctx flow
  let old := s.flow k
  let e := old.write slot v
  if decide (64 ≤ ctx) || decide (1024 ≤ flow) || !e.v then .next s
  else if s.flowRefused k v e then .next (s.raise (.refused 0 k))
  else if old.v then .next (s.setFlow k e)
  else
    .next (s.setFlow k
      { e with
        gen := 0, ackgen := 0, err := 0, busy := true, zeroing := true, queue := [], run := none, rx := none, early := [], wq := [],
        stats := [0, 0, 0, 0, 0, 0, 0] })

/-- Main memory zeroed over a range, but for lines that a migration has copied. -/
def State.zeroRange (s : State) (a n : Nat) : State :=
  let here (x : Nat) : Bool := match s.migrated x with | .moved .. => true | _ => false
  { s with
    mem := s.mem.filter (fun c => decide (c.1 < a) || decide (a + n ≤ c.1) || here c.1)
    poison := s.poison.filter (fun p => decide (32 * p < a) || decide (a + n < 32 * p + 32) || here (32 * p)) }

/-- The lines of a range that migrations have copied or have locked (R82): migration and line address here. -/
def State.movedLines (s : State) (locked : Bool) (a n : Nat) : List (Migration × Nat) :=
  s.migrations.flatMap (fun m =>
    ((if locked then m.2.locked else m.2.copied).map (fun l => (m.2, m.2.page + 128 * l))).filter (fun x =>
      decide (a ≤ x.2) && decide (x.2 < a + n)))

/-- HISTORY_ZEROING_DONE: the histories are zero, BUSY clears and the end accepts transfers (R180). A token that is out for their memory
comes home first, and lines that a migration has copied are zeroed at their new home (R79, R82, R181). -/
def execHistoryZeroingDone (ctx flow : Nat) (s : State) : Out :=
  let k := flowKey ctx flow
  let e := s.flow k
  let spans := if e.pred = 3 then [(e.hist 0, e.maxlen), (e.hist 1, e.maxlen)] else [(e.hist 0, e.maxlen)]
  if !e.v || !e.zeroing then .next s
  else
    match s.tokenDir.find? (fun t => spans.any (fun x => decide (t.1 * 2 ^ 21 < x.1 + x.2) && decide (x.1 < (t.1 + 1) * 2 ^ 21))) with
    | some t => .next (s.recallToken t.2 t.1)
    | none =>
      let far := spans.flatMap (fun x => s.movedLines false x.1 x.2)
      let finish (s : State) : Out := .next ((s.forget (histWrites k)).setFlow k { e with zeroing := false, busy := false })
      match s.sent (histWrites k) with
      | .waiting => .next s
      | .nothing =>
        if !(spans.flatMap (fun x => s.movedLines true x.1 x.2)).isEmpty
            || far.any (fun x => (s.peerCause ctx (0x100 + x.1.dstMod)).isSome) then .next s
        else
          let s := spans.foldl (fun (s : State) x => s.zeroRange x.1 x.2) s
          if far.isEmpty then finish s
          else .next (far.foldl (fun (s : State) x => s.send (.engineWrite (histWrites k) ctx (0x100 + x.1.dstMod) (x.1.dstPa + (x.2 - x.1.page)) 128 0)) s)
      | _ => finish s

/-- An end destroyed (R180, R199): its transfers stop and its waiters are released. A chunk of a collective goes back to the
engine and waits for an end. -/
def State.flowDestroy (s : State) (k : Nat) (e' : FlowEnd) : State :=
  let e := s.flow k
  let xs := (match e.run with | some r => [r.x] | none => []) ++ e.queue
  let s := xs.foldl (fun (s : State) x =>
    match x.chunk with
    | some (id, m, bytes) =>
      s.updColl id (fun c => { c with sending := c.sending - 1, outq := (k % 1024, m, bytes) :: c.outq })
    | none => s) s
  ((s.forgetAll (fun w => w.kind == 3 && w.id == k)).setFlow k { e' with v := false, busy := false, zeroing := false, queue := [], run := none, rx := none, early := [], wq := [] }).wakeFlow k

/-- FLOW_END_DESTROY: context 0 writes an entry with V = 0 (R180), whose other fields it keeps. -/
def execFlowEndDestroy (ctx flow : Nat) (v : BitVec 256) (s : State) : Out :=
  let k := flowKey ctx flow
  let e := s.flow k
  if decide (64 ≤ ctx) || decide (1024 ≤ flow) || bit v 0 then .next s
  else if e.v then .next (s.flowDestroy k (e.write e.slot v))
  else .next (s.setFlow k (e.write e.slot v))

/-- MCAST_SLOT_WRITE: context 0 writes a receiver slot while the group's send end is not BUSY (R182). -/
def execMcastSlotWrite (grp i : Nat) (v : DWord) (s : State) : Out :=
  let busy := s.flows.any (fun x => x.2.v && x.2.mc && x.2.mgrp == grp && x.2.busy)
  if decide (1024 ≤ grp) || decide (64 ≤ i) || busy then .next s
  else
    let old := (look s.mcast (64 * grp + i)).getD {}
    let m : McSlot := { old with pflow := bits v 29 16, mod := bits v 15 8, v := bit v 0 }
    .next { s with mcast := put s.mcast (64 * grp + i) (if bit v 0 then { m with ackgen := 0xFFFFFFFF, lag := true, kmark := false } else m) }

/-! ### The flow instructions (R197 to R200) -/

/-- The flow-reference trap. -/
def flowRef (m : BitVec 64) : TrapInfo := { cls := 0x0C, lmask := m }

/-- `flow.send` and `flow.mcast` (R198). -/
def execFlowSend (mc key : Bool) (g f a l : Nat) (s : State) : Out :=
  uniformOp g [.s f, .sp a, .s l] (fun is tm _ m =>
    let fl := is.snap.sca f
    let src := (Src.sp a).read is.snap 0
    let len := (is.snap.sca l).toNat
    match s.flowEnd tm.ctx fl with
    | none => .next (s.trap is (flowRef m))
    | some e =>
      if e.dir || e.mc != mc || decide (e.maxlen < len) || len % e.w != 0 then .next (s.trap is (flowRef m))
      else if src.toNat % e.w != 0 then .next (s.trap is { cls := 0x02, addr := src, lane := lowLane m, lmask := m })
      else if s.logHas (tm.coreOf is.grp) is.team (some is.grp) then .next (s.holdIssue is (.sideEmpty false))
      else if decide (4 ≤ e.queue.length + (if e.run.isSome then 1 else 0)) then
        .next (s.holdIssue is (.flowFull fl.toNat))
      else
        let x : FlowXfer := { src := src, len := len, key := key, by_ := some (s.issuer is tm) }
        let s : State := { s with nextInstr := s.nextInstr + 1 }
        .next ((s.setFlow (flowKey tm.ctx fl.toNat) { e with queue := e.queue ++ [x] }).retire is true)) s

/-- `flow.send` SF. -/
def execFlowSendSf (g : BitVec 2) (f a l : BitVec 6) (s : State) : Out := execFlowSend false false g.toNat f.toNat a.toNat l.toNat s
/-- `flow.send` LR: X is `.key`. -/
def execFlowSendL (o : LR) (s : State) : Out := execFlowSend false o.x o.g.toNat o.d.toNat o.a.toNat o.b.toNat s
/-- `flow.mcast` SF. -/
def execFlowMcastSf (g : BitVec 2) (f a l : BitVec 6) (s : State) : Out := execFlowSend true false g.toNat f.toNat a.toNat l.toNat s
/-- `flow.mcast` LR. -/
def execFlowMcastL (o : LR) (s : State) : Out := execFlowSend true o.x o.g.toNat o.d.toNat o.a.toNat o.b.toNat s

/-- `flow.wait` (R199). A wait that ends with the generation reached at a receive end acts as an acquire at device scope. -/
def execFlowWait (g f e : Nat) (s : State) : Out :=
  uniformOp g [.s f, .s e] (fun is tm gr m =>
    let fl := is.snap.sca f
    let ended (s : State) (v : Nat) (dir : Bool) : State := (if v = 1 && dir then s.flushFor is.team (tm.coreOf is.grp) else s).retire is
    match gr.hold with
    | some (.answered v) => .next (ended s v ((s.flowEnd tm.ctx fl).elim true (·.dir)))
    | _ =>
      match s.flowEnd tm.ctx fl with
      | none => .next (s.trap is (flowRef m))
      | some x =>
        match x.waitOver (is.snap.sca e) with
        | some v => .next (ended s v x.dir)
        | none => .next (s.holdIssue is (.flow fl.toNat (is.snap.sca e)))) s

/-- `flow.wait` SF. -/
def execFlowWaitSf (g : BitVec 2) (f e : BitVec 6) (s : State) : Out := execFlowWait g.toNat f.toNat e.toNat s
/-- `flow.wait` LR. -/
def execFlowWaitL (o : LR) (s : State) : Out := execFlowWait o.g.toNat o.d.toNat o.a.toNat s

/-- A value of `flow.stat` (R200). -/
def State.flowValue (s : State) (e : FlowEnd) (sel : Nat) : DWord :=
  match sel with
  | 0 => e.gen.setWidth 64
  | 1 =>
    BitVec.ofNat 64 (e.err + (if e.busy then 2 ^ 8 else 0) + (e.queue.length + (if e.run.isSome || e.rx.any (!·.refused) then 1 else 0)) * 2 ^ 16)
  | 9 | 10 =>
    if e.dir || !e.mc then 0
    else
      BitVec.ofNat 64 ((List.range 32).foldl (fun a i =>
        if ((look s.mcast (64 * e.mgrp + 32 * (sel - 9) + i)).map (·.lagging e.gen)).getD false then a + 2 ^ i else a) 0)
  | n => e.stats.getD (n - 2) 0

/-- `flow.stat` (R200): a long-class result. -/
def execFlowStat (g d f sel : Nat) (s : State) : Out :=
  uniformOp g [.sp d, .s f] (fun is tm _ m =>
    match s.flowEnd tm.ctx (is.snap.sca f) with
    | none => .next (s.trap is (flowRef m))
    | some e => .next ((s.giveResults is true [(Dst.sp d).writes 0 (s.flowValue e sel)]).retire is)) s

/-- `flow.stat` SF. -/
def execFlowStatSf (g : BitVec 2) (d f e : BitVec 6) (s : State) : Out := execFlowStat g.toNat d.toNat f.toNat e.toNat s
/-- `flow.stat` LR. -/
def execFlowStatL (o : LR) (s : State) : Out := execFlowStat o.g.toNat o.d.toNat o.a.toNat o.c.toNat s

end Sys2Proof.Machine
end

