-- ==== Sys2Proof/Machine/Collect.lean ====
section
/-!
DEFINITION. The collective engine (16_collectives_and_triggers.md): descriptors, rings, the wire formats, how a chunk goes round,
reduce teams and launch counters, retry, shrinking, and the end of a collective.
-/

namespace Sys2Proof.Machine

/-! ### Members, rings and owners (R306, R310) -/

/-- The members of a set, in increasing id (R306). -/
def membersOf (m : BitVec 256) : List Nat := (List.range 256).filter (fun i => m.getLsbD i)

/-- The two phase rings of a membership: the columns and rows of a full rectangle, or one ring (R306). -/
structure Rings where
  rect : Bool
  ms : List Nat
  cols : List Nat
  rows : List Nat

/-- The rings of a peloton's members. -/
def ringsOf (topo : Bool) (m : BitVec 256) : Rings :=
  let ms := membersOf m
  let cols := (List.range 16).filter (fun c => ms.any (fun x => colOf x == c))
  let rows := (List.range 16).filter (fun r => ms.any (fun x => rowOf x == r))
  { rect := topo && ms.length == rows.length * cols.length, ms := ms, cols := cols, rows := rows }

/-- Lengths of the first and the second ring. -/
def Rings.p1 (r : Rings) : Nat := if r.rect then r.cols.length else r.ms.length
def Rings.p2 (r : Rings) : Nat := if r.rect then r.rows.length else 1

/-- The place of a module on the first ring, and on the second. -/
def Rings.at1 (r : Rings) (m : Nat) : Nat := if r.rect then r.cols.idxOf (colOf m) else r.ms.idxOf m
def Rings.at2 (r : Rings) (m : Nat) : Nat := if r.rect then r.rows.idxOf (rowOf m) else 0

/-- The module at two places. -/
def Rings.mod (r : Rings) (a b : Nat) : Nat :=
  if r.rect then 16 * r.rows.getD (b % max 1 r.p2) 0 + r.cols.getD (a % max 1 r.p1) 0 else r.ms.getD (a % max 1 r.p1) 0

/-- The owning member of chunk `c`: rank c mod P of the start epoch (R310, R328). -/
def Coll.owner (c : Coll) (ch : Nat) : Nat :=
  let ms := membersOf c.members0
  ms.getD (ch % max 1 ms.length) 0

/-- The member with a rank of the start epoch. -/
def Coll.memberAt (c : Coll) (rank : Nat) : Nat := (membersOf c.members0).getD rank 0

/-- The rank of a module in the start epoch. -/
def Coll.rank (c : Coll) (mod : Nat) : Nat := (membersOf c.members0).idxOf mod

/-- The rings in force for a collective. -/
def State.rings (s : State) (c : Coll) : Rings := ringsOf ((look s.pelotons c.pel).elim false (·.topo)) c.members

/-! ### Where a chunk begins and how many arrive (R310, R313) -/

/-- Whether the data moves as whole pieces from an origin: every operation but the summing ones, and the pair sets of
THIN. -/
def Coll.pieces (c : Coll) : Bool := decide (1 < Cd.op c.dws) || Cd.wire c.dws == 2

/-- Whether finished chunks, or what they carry, go round (R310, R312, R315). -/
def Coll.gathers (c : Coll) : Bool := Cd.op c.dws == 0 || Cd.wire c.dws == 1 || Cd.confine c.dws

/-- The chunks that can still be produced: those whose owner is a member (R328). -/
def Coll.live (c : Coll) : List Nat := (List.range (Cd.chunks c.dws)).filter (fun ch => c.members.getLsbD (c.owner ch))

/-- The pieces of an operation: chunk and origin rank. -/
def Coll.pieceList (c : Coll) : List (Nat × Nat) :=
  let ranks := (membersOf c.members).map c.rank
  if Cd.wire c.dws = 2 then c.live.flatMap (fun ch => ranks.map (fun r => (ch, r)))
  else if Cd.op c.dws = 3 then (List.range (Cd.chunks c.dws)).map (fun ch => (ch, c.rank (Cd.root c.dws)))
  else c.live.map (fun ch => (ch, c.rank (c.owner ch)))

/-- What starts at this member `self`. -/
def Coll.begins (c : Coll) (r : Rings) (self : Nat) : List ChunkMeta :=
  let mk (phase ch orig dest : Nat) : ChunkMeta :=
    { ord := c.ord, phase := phase, chunk := ch, orig := orig, dest := dest, epoch := c.epoch, attempt := c.attempt }
  let me := c.rank self
  if Cd.op c.dws = 4 then
    let per := Cd.chunks c.dws / max 1 (membersOf c.members0).length
    ((membersOf c.members).map c.rank).flatMap (fun j => (List.range per).map (fun k => mk 4 (j * per + k) me j))
  else if c.pieces then (c.pieceList.filter (fun x => x.2 == me)).map (fun x => mk 2 x.1 me 0)
  else (c.live.filter (fun ch => (r.at1 (c.owner ch) + 1) % max 1 r.p1 == r.at1 self)).map (fun ch => mk 0 ch 0 0)

/-- Whether place `x` is passed on the way from `a` to `b` on a ring of `p`, the start not counted. -/
def onWay (p a b x : Nat) : Bool :=
  let d (y : Nat) : Nat := (y + p - a) % max 1 p
  decide (0 < d x) && decide (d x ≤ d b)

/-- How many chunks arrive at this member. -/
def Coll.expects (c : Coll) (r : Rings) (self : Nat) : Nat :=
  let m1 := r.at1 self
  let m2 := r.at2 self
  if Cd.op c.dws = 4 then
    let per := Cd.chunks c.dws / max 1 (membersOf c.members0).length
    let pairs := (membersOf c.members).flatMap (fun i => (membersOf c.members).map (fun j => (i, j)))
    per * (pairs.filter (fun x =>
      (m2 == r.at2 x.1 && onWay r.p1 (r.at1 x.1) (r.at1 x.2) m1)
        || (m1 == r.at1 x.2 && onWay r.p2 (r.at2 x.1) (r.at2 x.2) m2))).length
  else if c.pieces then
    (c.pieceList.filter (fun x => c.memberAt x.2 != self)).length
  else
    (c.live.map (fun ch =>
      let o1 := r.at1 (c.owner ch)
      let o2 := r.at2 (c.owner ch)
      (if m1 != (o1 + 1) % max 1 r.p1 then 1 else 0)
        + (if m1 == o1 && m2 != (o2 + 1) % max 1 r.p2 then 1 else 0)
        + (if c.gathers && c.owner ch != self then 1 else 0))).foldl (· + ·) 0

/-! ### Numbers on the wire (R311 to R313, R315) -/

/-- FP32 codes from elements of the descriptor's type (R310: widened exactly). -/
def enterCode (d : List DWord) (v : Nat) : Nat := if Cd.etype d = 10 then v * 2 ^ 16 else v

/-- An FP32 code written under the element type (R311). -/
def leaveCode (d : List DWord) (x : FV) (code : Nat) : Nat × List Ev :=
  if Cd.etype d = 10 then
    let r := bf16.round .rn false x
    (r.code, r.ev)
  else (code, [])

/-- Whether an FP32 code is a NaN or an infinity. -/
def nonFinite (c : Nat) : Bool := c / 2 ^ 23 % 2 ^ 8 == 255

/-- The events of elements put together, element by element (R238). -/
def zipEv (a b : List (List Ev)) : List (List Ev) :=
  (List.range (max a.length b.length)).map (fun i => a.getD i [] ++ b.getD i [])

/-- CONFINE (R315): non-finite values replaced by +0, with the events of each element. -/
def confineCodes (on : Bool) (xs : List Nat) : List Nat × List (List Ev) × Bool :=
  if on then
    (xs.map (fun c => if nonFinite c then 0 else c),
      xs.map (fun c => if nonFinite c then [if (fp32.decode c).isNaN then Ev.nan else Ev.invalid] else []), xs.any nonFinite)
  else (xs, [], false)

/-- CONFINE over elements of the descriptor's type that move without arithmetic (R315): those of an integer type have no non-finite
value. -/
def confineElems (d : List DWord) (vs : List Nat) : List Nat × List (List Ev) × Bool :=
  if Cd.etype d = 6 then (vs, [], false)
  else
    let (xs, ev, dropped) := confineCodes (Cd.confine d) (vs.map (enterCode d))
    (if dropped then xs.map (fun x => if Cd.etype d = 10 then x / 2 ^ 16 else x) else vs, ev, dropped)

/-- The scale exponent of BS8 (R312). -/
def bs8k (g attempt : Nat) : Int := min 127 ((g : Int) - 127 + attempt)

/-- quant(v) of BS8 (R312): E4M3 code, whether the block overflows, and the events: a saturation counts as SCALE, and a NaN and an
underflow as at any element (R238). -/
def quantBs8 (k : Int) (code : Nat) : Nat × Bool × List Ev :=
  let v := fp32.decode code
  if v.isNaN || v.isInf then (0x7F + code / 2 ^ 31 % 2 * 0x80, false, [.nan])
  else
    let r := e4m3.round .rn true (v.scale (-k))
    let ovf := r.ev.contains .saturation
    (r.code, ovf, (if ovf then [.scale] else []) ++ r.ev.filter (· != .saturation))

/-- deq(q) of BS8 (R312), exact. -/
def deqBs8 (k : Int) (q : Nat) : FV := (e4m3.decode q).scale k

/-- hop_add (R311, R312): rn(a + x). -/
def hopAdd (a : FV) (x : Nat) : Nat × List Ev :=
  let p := sumFV .rn false [a, fp32.decode x]
  let r := fp32.round .rn false p.1
  (r.code, p.2 ++ r.ev)

/-- The least code g' with amax ≤ 448·2^(g' − 127) (R312), 0 to 254; 127 for amax = 0. A block with a non-finite value has
none, and the code is a free value. -/
def maxoutCode (fresh : Nat) (xs : List Nat) : Nat :=
  if xs.any nonFinite then Config.freeNat fresh % 255
  else
    let amax := xs.foldl (fun (a : FV) c => if a.cmp (fp32.decode c).abs < 0 then (fp32.decode c).abs else a) (FV.fin false 0 0)
    if amax.isZero then 127
    else ((List.range 255).find? (fun (g : Nat) => decide (amax.cmp (.fin false 448 ((g : Int) - 127)) ≤ 0))).getD 254

/-- Numbers of four little-endian bytes. -/
def words4 (bs : List Byte) : List Nat := elemsOf 4 (bs.length / 4) (leNat bs)

/-! ### Reads and writes of the engine -/

/-- A collective as the engine that writes its results: acknowledgements are awaited before it ends. -/
def collWho (id : Nat) : Who := { kind := 4, id := id }

/-- One piece of work of a collective, as the reader of what it needs. `tag`: 0 to 5 data of that phase that starts here, 8 to 13 an
arrival of that phase. -/
def pieceWho (id tag : Nat) (m : ChunkMeta) : Who :=
  { kind := 4, id := id, part := 16 + ((m.chunk * 256 + m.orig) * 256 + m.dest) * 16 + tag }

/-- Staged data that a reduce team has finished, as what is read (R319). -/
def stagedWho (id seq : Nat) : Who := { kind := 4, id := id, part := 16 + seq * 2 ^ 20 + 15 }

/-- The join log's read of DST, the completion record, and the descriptor's read. -/
def logWho (id : Nat) : Who := { kind := 4, id := id, part := 1 }
def doneWho (id : Nat) : Who := { kind := 4, id := id, part := 2 }
def descWho (id : Nat) : Who := { kind := 4, id := id, part := 3 }

/-- `n` elements of `z` bytes read from an address. -/
def State.collRead (s : State) (w : Who) (ctx z : Nat) (va : DWord) (n : Nat) : Except EStop (List Nat × State) :=
  (s.engLoadSpan w hubCore ctx (n * z / 128 + 2) va (n * z)).map (fun r => (elemsOf z n (leNat r.1), r.2))

/-- The writes of elements of `z` bytes from an address. -/
def elemWrites (z : Nat) (va : DWord) (vs : List Nat) : List (DWord × Nat × Nat) :=
  vs.zipIdx.map (fun v => (va + BitVec.ofNat 64 (z * v.2), z, v.1))

/-- An address advanced by a number of bytes. -/
def advance (a : DWord) (n : Nat) : DWord := a + BitVec.ofNat 64 n

/-- Where this member's contribution of chunk `ch` lies (R310, R318). -/
def Coll.srcAt (c : Coll) (ch : Nat) : DWord :=
  let d := c.dws
  let p := max 1 (membersOf c.members0).length
  match c.bind with
  | some b => advance b.ctbase (ch * Cd.chunk d * Cd.e d)
  | none => advance (Cd.src d) ((if Cd.op d = 2 then ch / p else ch) * Cd.chunk d * Cd.e d)

/-- Where the result of chunk `ch` goes (Table 16.3). -/
def Coll.dstAt (c : Coll) (m : ChunkMeta) : DWord :=
  let d := c.dws
  let p := max 1 (membersOf c.members0).length
  if Cd.op d = 4 then
    let per := Cd.chunks d / p
    advance (Cd.dst d) ((m.orig * per + m.chunk % max 1 per) * Cd.chunk d * Cd.e d)
  else advance (Cd.dst d) ((if Cd.op d = 1 then m.chunk / p else m.chunk) * Cd.chunk d * Cd.e d)

/-- Whether a bound chunk still waits for one of its teams to exit (R318). -/
def Coll.unfired (c : Coll) (ch : Nat) : Bool :=
  match c.bind with
  | none => false
  | some b => (List.range b.teams).any (fun t => b.cfirst + t / max 1 b.tpc == ch && !b.ended.any (fun x => x.1 == t))

/-- Whether every access of a team that has ended is performed (R318, R319, R372). -/
def State.teamQuiet (s : State) (ctx team : Nat) : Bool :=
  s.reqs.all (fun r => r.team != team || (!r.isStore && (r.performed || r.state == .waitFull))) &&
    s.cores.all (fun c => c.2.slog.all (fun e => e.team != team)) && (s.ctx ctx).image.slog.all (fun e => e.2.team != team)

/-- Whether a bound chunk has not fired: its teams' writes are ordered before the engine's reads of it (R318). -/
def State.unfired (s : State) (c : Coll) (ch : Nat) : Bool :=
  c.unfired ch || c.bind.any (fun b => b.ended.any (fun x => b.cfirst + x.1 / max 1 b.tpc == ch && !s.teamQuiet c.ctx x.2))

/-- The contribution of a chunk as FP32 codes (R310, R315), with its events and whether a value was dropped. -/
def State.collX (s : State) (w : Who) (c : Coll) (ch : Nat) : Except EStop (List Nat × List (List Ev) × Bool × State) :=
  if s.unfired c ch then .error (.wait s)
  else
    match s.collRead w c.ctx (Cd.e c.dws) (c.srcAt ch) (Cd.len c.dws ch) with
    | .error e => .error e
    | .ok (vs, s) =>
      let (xs, ev, dropped) := confineCodes (Cd.confine c.dws) (vs.map (enterCode c.dws))
      .ok (xs, ev, dropped, s)

/-! ### Steps of a collective -/

/-- A collective replaced, its clock of R307 set. -/
def State.setColl (s : State) (id : Nat) (c : Coll) : State := { s with colls := put s.colls id { c with since := s.time } }

/-- The bit of a module. -/
def modBit (m : Nat) : BitVec 256 := BitVec.ofNat 256 (2 ^ m)

/-- Chunks put in the send queue of a collective: `ring` is 0 for flow F and 2 for flow F + 2. -/
def Coll.put (c : Coll) (ring : Nat) (m : ChunkMeta) (bytes : List Byte) : Coll :=
  { c with outq := c.outq ++ [(Cd.flow c.dws + ring, { m with epoch := c.epoch, attempt := c.attempt }, bytes)] }

/-- What finished data does at a member: it goes on along the second ring where it came from there or starts here, and
along the first ring until it has been everywhere (R310). -/
def Coll.spread (c : Coll) (r : Rings) (self from1 : Nat) (phase : Nat) (start : Bool) (m : ChunkMeta) (bytes : List Byte) : Coll :=
  let o := from1
  let next2 := (r.at2 self + 1) % max 1 r.p2
  let next1 := (r.at1 self + 1) % max 1 r.p1
  let c := if phase = 2 && decide (1 < r.p2) && next2 != r.at2 o then c.put 2 { m with phase := 2 } bytes else c
  let first := phase == 2 || start
  if decide (1 < r.p1) && (if first then true else next1 != r.at1 o) then c.put 0 { m with phase := 3 } bytes else c

/-- The bytes of a partial sum on the wire (R311, R312), the values that they stand for, the events, and the least overflowed block. -/
def State.collWire (s : State) (w : Who) (c : Coll) (ch : Nat) (xs : List Nat) :
    Except EStop (List Byte × List FV × List (List Ev) × Option Nat × State) :=
  if Cd.wire c.dws = 1 then
    let b0 := ch * (Cd.chunk c.dws / 32)
    match s.collRead w c.ctx 1 (advance (Cd.scales c.dws) b0) ((xs.length + 31) / 32) with
    | .error e => .error e
    | .ok (gs, s) =>
      let k (i : Nat) : Int := bs8k (gs.getD (i / 32) 0) c.attempt
      let q := xs.zipIdx.map (fun x => quantBs8 (k x.2) x.1)
      let ovf := (q.zipIdx.find? (fun x => x.1.2.1)).map (fun x => b0 + x.2 / 32)
      .ok (q.map (fun x => BitVec.ofNat 8 x.1) ++ gs.map (BitVec.ofNat 8), q.zipIdx.map (fun x => deqBs8 (k x.2) x.1.1),
        q.map (fun x => x.2.2), ovf, s)
  else .ok (xs.flatMap (fun x => leBytes x 4), xs.map fp32.decode, [], none, s)

/-- The values of a chunk that arrived (R311, R312). -/
def Coll.unwire (c : Coll) (ch : Nat) (bytes : List Byte) : List FV :=
  if Cd.wire c.dws = 1 then
    let n := Cd.len c.dws ch
    let gs := (bytes.drop n).map (·.toNat)
    (bytes.take n).zipIdx.map (fun q => deqBs8 (bs8k (gs.getD (q.2 / 32) 0) c.attempt) q.1.toNat)
  else (words4 bytes).map fp32.decode

/-- The lesser of two block indices. -/
def leastBlock (a b : Option Nat) : Option Nat :=
  match a, b with
  | some x, some y => some (min x y)
  | some x, none => some x
  | none, y => y

/-- leave (R311, R312): the elements of a finished chunk under the descriptor's type, and the events. -/
def leaveElems (d : List DWord) (vs : List FV) : List Nat × List (List Ev) :=
  let out := vs.map (fun v => leaveCode d v (fp32.round .rn false v).code)
  (out.map (·.1), out.map (·.2))

/-- The elements of a finished chunk that comes round (R310, R312): under BS8 those that its codes stand for, else as they were written
at its final rank. The events of leave counted there. -/
def Coll.roundElems (c : Coll) (m : ChunkMeta) (bytes : List Byte) : List Nat :=
  if Cd.wire c.dws = 1 then (leaveElems c.dws (c.unwire m.chunk bytes)).1
  else elemsOf (Cd.e c.dws) (Cd.len c.dws m.chunk) (leNat bytes)

/-- The writes of a finished chunk: its elements at DST, where this member has them, and its codes at MAXOUT (R310, R312). -/
def Coll.resultWrites (c : Coll) (self : Nat) (m : ChunkMeta) (elems : List Nat) : List (DWord × Nat × Nat) :=
  let d := c.dws
  (if Cd.op d = 1 && c.owner m.chunk != self then [] else elemWrites (Cd.e d) (c.dstAt m) elems)
    ++ (if Cd.wire d = 1 && Cd.maxout d != 0 then elemWrites 1 (advance (Cd.maxout d) (m.chunk * (Cd.chunk d / 32))) m.codes else [])

/-- Writes grouped by the sector they go to, in order. -/
def bySector : List (DWord × Nat × Nat) → List SectorWrite
  | [] => []
  | w :: r =>
    let x : Nat × Nat × Nat := (w.1.toNat, w.2.1, w.2.2)
    match bySector r with
    | y :: ys =>
      if (y.parts.head?.map (fun p => p.1 / 32)) = some (x.1 / 32) then { y with parts := x :: y.parts } :: ys else { parts := [x] } :: y :: ys
    | [] => [{ parts := [x] }]

/-- A piece of work done: its reads forgotten, its events (by element) kept, its writes on their way, and the collective as it is after
it. -/
def State.collDo (s : State) (id : Nat) (w : Who) (c : Coll) (ev : List (List Ev)) (ws : List (DWord × Nat × Nat)) : State :=
  (s.forget w).setColl id { c with evs := c.evs ++ ev.flatMap evClasses, wq := c.wq ++ bySector ws }

/-- A partial sum `acc` (FP32 codes) that this member has formed for a chunk, with the events of forming it, goes on: along its ring,
into the second ring, or to the finish at the final rank (R310). -/
def State.collOnward (s : State) (id : Nat) (w : Who) (c : Coll) (r : Rings) (m : ChunkMeta) (acc : List Nat)
    (ev0 : List (List Ev)) : Except EStop State :=
  let self := s.modId.toNat
  let o := c.owner m.chunk
  let send (ring phase : Nat) : Except EStop State :=
    match s.collWire w c m.chunk acc with
    | .error e => .error e
    | .ok (bytes, _, ev, ovf, s) =>
      let m := { m with phase := phase, first := leastBlock m.first ovf }
      .ok (s.collDo id w ({ c with first := leastBlock c.first ovf }.put ring m bytes) (zipEv ev0 ev) [])
  if m.phase = 0 && r.at1 self != r.at1 o then send 0 0
  else if m.phase = 0 && (r.at2 o + 1) % max 1 r.p2 != r.at2 self then
    -- the row sum waits for the column (R310)
    .ok (s.collDo id w { c with sums := c.sums ++ [(m.chunk, acc)] } ev0 [])
  else if r.at2 self != r.at2 o then send 2 1
  else
    match s.collWire w c m.chunk acc with
    | .error e => .error e
    | .ok (bytes, vs, ev, ovf, s) =>
      let blocks := (List.range ((acc.length + 31) / 32)).map (fun b => (acc.drop (32 * b)).take 32)
      let codes := if Cd.wire c.dws = 1 && Cd.maxout c.dws != 0 then blocks.map (maxoutCode s.fresh) else []
      let s := { s with fresh := s.fresh + 1 }
      let m := { m with first := leastBlock m.first ovf, nf := m.nf ||| c.nf, codes := codes }
      let (elems, ev1) := leaveElems c.dws vs
      let c := { c with first := leastBlock c.first m.first, nf := c.nf ||| m.nf }
      let out := if Cd.op c.dws != 0 then [] else if Cd.wire c.dws = 1 then bytes else elems.flatMap (fun v => leBytes v (Cd.e c.dws))
      .ok (s.collDo id w (if c.gathers then c.spread r self self 2 true m out else c) (zipEv ev0 (zipEv ev ev1)) (c.resultWrites self m elems))

/-- A partial sum that has met this member's contribution (R311, R312, R315). -/
def addCodes (conf : Bool) (a : List FV) (xs : List Nat) : List Nat × List (List Ev) × Bool :=
  let rs := List.zipWith hopAdd a xs
  let (ys, ev, dropped) := confineCodes conf (rs.map (·.1))
  (ys, zipEv (rs.map (·.2)) ev, dropped)

/-- A staged arrival at a launch counter, with the writes of its partial sum (R319, R320): once they are made, appended to the counter's
list, counted down, and where the count reaches 0 the reduce grid launched. `k` is the collective once its arrival has the sequence
number given. -/
def State.lctrArrive (s : State) (id : Nat) (w : Who) (ctx i chunk : Nat) (ws : List (DWord × Nat × Nat)) (k : Nat → Coll) :
    Except EStop State :=
  let x := Sparse.get (0 : BitVec 192) (s.ctx ctx).lctrs i
  if !lcV x || decide (4096 ≤ s.outrun ctx i) then .error (.wait s)
  else
    let n := lcSeq x
    let last := lcCount x == 1
    let cnt := if last then lcReload x else lcCount x - 1
    let y : BitVec 192 := BitVec.ofNat 192
      (x.toNat - lcSeq x * 2 ^ 32 - lcCount x * 2 ^ 20 + (n + 1) % 2 ^ 32 * 2 ^ 32 + cnt * 2 ^ 20)
    let go (s : State) (launch : State → State) : Except EStop State :=
      match s.engStoreAll (collWho id) hubCore ctx (ws ++ [(advance (lcAlist x) (4 * (n % 4096)), 4, chunk)]) with
      | .error e => .error e
      | .ok s => .ok (launch ((s.collDo id w (k n) [] []).updCtx ctx (fun c => { c with lctrs := Sparse.set (0 : BitVec 192) c.lctrs i y })))
    if !last then go s (fun s => s)
    else
      match s.engLoad w hubCore ctx (advance (lcLrec x) 24) 8 with
      | .error e => .error e
      | .ok (v, s) =>
        let q := v / 2 ^ 42 % 16
        if !s.queueRoom ctx q then .error (.wait s)
        else go s (fun s => s.submit ctx q (lcLrec x) (some (BitVec.ofNat 32 (n + 2 ^ 32 + 1 - lcReload x), BitVec.ofNat 32 (lcReload x))))

/-- Elements kept of a bucket by THIN (R313): the `k` of largest magnitude, ties at the lower index, NaN largest. -/
def thinKeep (k : Nat) (vs : List Nat) : List Nat :=
  let mag (c : Nat) : Nat := if (fp32.decode c).isNaN then 2 ^ 32 else c % 2 ^ 31
  let sorted := vs.zipIdx.mergeSort (fun a b => decide (mag b.1 < mag a.1) || (mag a.1 == mag b.1 && decide (a.2 ≤ b.2)))
  ((sorted.take k).map (·.2)).mergeSort (fun a b => decide (a ≤ b))

/-- The code of a bucket (R313): that of R156 over the finite ones of the elements kept, so that a non-finite value stays in its element
(R315), and whether it had to be lowered. -/
def thinScale (kept : List Nat) : Nat × List Ev :=
  let (g, _, ev) := quantBlock e4m3 8 false (fun _ => 0) (kept.filter (fun c => !nonFinite c))
  (g, ev.filter (· == Ev.scale))

/-- A bucket thinned (R313): the bytes of its header and pairs, the new residue, and the events. Elements are quantised as under BS8
(R312). The events are those of each element and of the bucket's scale. -/
def thinBucket (k : Nat) (vs : List Nat) : List Byte × List Nat × List (List Ev) × List Ev :=
  let keep := thinKeep k vs
  let (g, ev) := thinScale (keep.map (fun i => vs.getD i 0))
  let sc : Int := (g : Int) - 127
  let qs := keep.map (fun i => (i, quantBs8 sc (vs.getD i 0)))
  let res := vs.zipIdx.map (fun v =>
    match qs.find? (fun p => p.1 == v.2) with
    | some p =>
      let x := sumFV .rn false [fp32.decode v.1, (deqBs8 sc p.2.1).neg]
      let r := fp32.round .rn false x.1
      (r.code, p.2.2.2 ++ x.2 ++ r.ev)
    | none => (v.1, []))
  (leBytes (g + keep.length * 2 ^ 8) 4 ++ qs.flatMap (fun p => leBytes (p.1 + p.2.1 % 256 * 2 ^ 16) 3), res.map (·.1), res.map (·.2), ev)

/-- The dequantised pairs of a chunk's pair set: element index in the chunk and value (R313). -/
def thinPairs : Nat → Nat → List Byte → List (Nat × FV)
  | 0, _, _ => []
  | fuel + 1, bucket, bs =>
    if bs.length < 4 then []
    else
      let h := leNat (bs.take 4)
      let g := h % 256
      let n := h / 2 ^ 8 % 2 ^ 12
      let body := (bs.drop 4).take (3 * n)
      let ps := (List.range n).map (fun i =>
        let v := leNat ((body.drop (3 * i)).take 3)
        (4096 * bucket + v % 2 ^ 12, deqBs8 ((g : Int) - 127) (v / 2 ^ 16)))
      ps ++ thinPairs fuel (bucket + 1) (bs.drop (4 + 3 * n))

/-- The sums of a chunk under THIN (R313): from +0, in increasing rank, each add rounded. -/
def thinSum (n : Nat) (sets : List (List (Nat × FV))) : List Nat × List (List Ev) :=
  let one (i : Nat) : Nat × List Ev :=
    sets.foldl (fun (a : Nat × List Ev) ps =>
      match ps.find? (fun p => p.1 == i) with
      | some p =>
        let r := hopAdd p.2 a.1
        (r.1, a.2 ++ r.2)
      | none => a) (0, [])
  let rs := (List.range n).map one
  (rs.map (·.1), rs.map (·.2))

/-- A pair set or piece that this member has: the collective that keeps it, the writes at DST and the events; under THIN a chunk is summed
when every set of it is here (R310, R313). -/
def Coll.piece (c : Coll) (self : Nat) (m : ChunkMeta) (bytes : List Byte) : Coll × List (DWord × Nat × Nat) × List (List Ev) :=
  let d := c.dws
  let n := Cd.len d m.chunk
  if Cd.wire d = 2 then
    let c := { c with pairs := c.pairs ++ [(m.chunk, m.orig, bytes)] }
    let mine := c.pairs.filter (fun p => p.1 == m.chunk)
    let ranks := (membersOf c.members).map c.rank
    if (Cd.op d = 1 && c.owner m.chunk != self) || !ranks.all (fun r => mine.any (fun p => p.2.1 == r)) then (c, [], [])
    else
      let sets := ranks.map (fun r => thinPairs (n / 4096 + 1) 0 (((mine.find? (fun p => p.2.1 == r)).map (·.2.2)).getD []))
      let (codes, ev) := thinSum n sets
      let (elems, ev1) := leaveElems d (codes.map fp32.decode)
      (c, elemWrites (Cd.e d) (c.dstAt m) elems, zipEv ev ev1)
  else (c, elemWrites (Cd.e d) (c.dstAt m) (elemsOf (Cd.e d) n (leNat bytes)), [])

/-- A piece that goes to one member of an all-to-all: kept there, sent on elsewhere (R310). -/
def Coll.toOne (c : Coll) (r : Rings) (self : Nat) (m : ChunkMeta) (bytes : List Byte) : Coll × List (DWord × Nat × Nat) × List (List Ev) :=
  let o := c.memberAt m.dest
  if o = self then c.piece self m bytes
  else if r.at1 o != r.at1 self then (c.put 0 m bytes, [], [])
  else (c.put 2 { m with phase := 5 } bytes, [], [])

/-- A piece that goes to every member: kept, and sent on from here (R310). -/
def Coll.toAll (c : Coll) (r : Rings) (self from1 phase : Nat) (start : Bool) (m : ChunkMeta) (bytes : List Byte) :
    Coll × List (DWord × Nat × Nat) × List (List Ev) :=
  let x := c.piece self m bytes
  (x.1.spread r self from1 phase start m bytes, x.2)

/-- This member noted among those that dropped a non-finite value (R315). -/
def Coll.mark (c : Coll) (self : Nat) (dropped : Bool) : Coll := if dropped then { c with nf := c.nf ||| modBit self } else c

/-- Whether this member drops a value of any part that it sends under an all-to-all (R315): each part goes to one member, so that every
one carries the member's bit from the start. -/
def State.collDrops (s : State) (w : Who) (c : Coll) : Nat → Except EStop (Bool × State)
  | 0 => .ok (false, s)
  | ch + 1 =>
    if s.unfired c ch then .error (.wait s)
    else
      match s.collRead w c.ctx (Cd.e c.dws) (c.srcAt ch) (Cd.len c.dws ch) with
      | .error e => .error e
      | .ok (vs, s) => (State.collDrops s w c ch).map (fun r => ((confineElems c.dws vs).2.2 || r.1, r.2))

/-- A pair set of this member under THIN (R313): the collective that keeps and spreads it, and what it writes. -/
def Coll.ownPairs (c : Coll) (r : Rings) (self : Nat) (m : ChunkMeta) (bytes : List Byte) : Coll × List (DWord × Nat × Nat) × List (List Ev) :=
  let c := c.mark self (c.thinNf.contains m.chunk)
  ({ c with pairs := c.pairs.filter (fun p => !(p.1 == m.chunk && p.2.1 == m.orig)) } : Coll).toAll r self self 2 true
    { m with nf := m.nf ||| c.nf } bytes

/-- What starts at this member is entered (R310, R313, R315). A pair set that a rebuilding has kept is entered as it is (R328). -/
def State.collBegin (s : State) (id : Nat) (c : Coll) (r : Rings) (m : ChunkMeta) : Except EStop State :=
  let self := s.modId.toNat
  let d := c.dws
  let n := Cd.len d m.chunk
  let w := pieceWho id m.phase m
  let c := { c with todo := c.todo.erase m }
  if m.phase = 0 then
    match s.collX w c m.chunk with
    | .error e => .error e
    | .ok (xs, ev, dropped, s) =>
      let c := c.mark self dropped
      s.collOnward id w c r { m with nf := m.nf ||| c.nf } xs ev
  else if Cd.wire d = 2 then
    match c.pairs.find? (fun p => p.1 == m.chunk && p.2.1 == m.orig) with
    | some p =>
      let x := c.ownPairs r self m p.2.2
      .ok (s.collDo id w x.1 x.2.2 x.2.1)
    | none =>
      match s.collX w c m.chunk with
      | .error e => .error e
      | .ok (xs, ev, dropped, s) =>
        let ra := advance (Cd.residue d) (4 * m.chunk * Cd.chunk d)
        match s.collRead w c.ctx 4 ra n with
        | .error e => .error e
        | .ok (res, s) =>
          let vs := List.zipWith (fun x y => hopAdd (fp32.decode x) y) xs res
          let bs := (List.range ((n + 4095) / 4096)).map (fun b => thinBucket (Cd.ktop d) (((vs.map (·.1)).drop (4096 * b)).take 4096))
          let c := if dropped then { c with thinNf := m.chunk :: c.thinNf } else c
          let x := c.ownPairs r self m (bs.flatMap (·.1))
          let each := zipEv ev (zipEv (vs.map (·.2)) (bs.flatMap (fun b => b.2.2.1)))
          .ok (s.collDo id w x.1 (each ++ bs.map (fun b => b.2.2.2) ++ x.2.2) (elemWrites 4 ra (bs.flatMap (fun b => b.2.1)) ++ x.2.1))
  else if s.unfired c m.chunk then .error (.wait s)
  else
    match s.collRead w c.ctx (Cd.e d) (c.srcAt m.chunk) n with
    | .error e => .error e
    | .ok (vs0, s) =>
      match (if m.phase = 4 && Cd.confine d && Cd.etype d != 6 then s.collDrops w c (Cd.chunks d) else .ok (false, s)) with
      | .error e => .error e
      | .ok (any, s) =>
        let (vs, ev, dropped) := confineElems d vs0
        let c := c.mark self (dropped || any)
        let m := { m with nf := m.nf ||| c.nf }
        let bytes := vs.flatMap (fun v => leBytes v (Cd.e d))
        let x := if m.phase = 4 then c.toOne r self m bytes else c.toAll r self self 2 true m bytes
        .ok (s.collDo id w x.1 (zipEv ev x.2.2) x.2.1)

/-- An arrival is processed (R310 to R313, R315, R319). -/
def State.collArrived (s : State) (id : Nat) (c : Coll) (r : Rings) (a : Arrived) : Except EStop State :=
  let self := s.modId.toNat
  let m := a.m
  let w := pieceWho id (8 + m.phase) m
  let c := { c with arr := c.arr.erase a, left := c.left - 1, first := leastBlock c.first m.first, nf := c.nf ||| m.nf }
  if m.phase ≤ 1 then
    if Cd.red c.dws then
      -- a column's partial sum meets this member's row sum (R310)
      if m.phase = 1 && !c.sums.any (fun x => x.1 == m.chunk) then .error (.wait s)
      else
      s.lctrArrive id w c.ctx (Cd.lctr c.dws) m.chunk
        (elemWrites 4 (advance (Cd.stage c.dws) (4 * m.chunk * Cd.chunk c.dws)) (words4 a.bytes))
        (fun n => { c with staged := c.staged ++ [(n, m)] })
    else if m.phase = 1 then
      match c.sums.find? (fun x => x.1 == m.chunk) with
      | none => .error (.wait s)
      | some x =>
        let (acc, ev, dropped) := addCodes (Cd.confine c.dws) (c.unwire m.chunk a.bytes) x.2
        let c := c.mark self dropped
        s.collOnward id w c r { m with nf := m.nf ||| c.nf, first := leastBlock m.first c.first } acc ev
    else
      match s.collX w c m.chunk with
      | .error e => .error e
      | .ok (xs, ev0, dropped0, s) =>
        let (acc, ev, dropped) := addCodes (Cd.confine c.dws) (c.unwire m.chunk a.bytes) xs
        let c := c.mark self (dropped || dropped0)
        s.collOnward id w c r { m with nf := m.nf ||| c.nf } acc (zipEv ev0 ev)
  else
    let x :=
      if m.phase = 4 || m.phase = 5 then c.toOne r self m a.bytes
      else if c.pieces then c.toAll r self (c.memberAt m.orig) m.phase false m a.bytes
      else
        (c.spread r self (c.owner m.chunk) m.phase false m a.bytes,
          c.resultWrites self m (if a.bytes.isEmpty then [] else c.roundElems m a.bytes), [])
    .ok (s.collDo id w x.1 x.2.2 x.2.1)

/-- A staged arrival whose reduce team has ended, and whose accesses are performed, goes on from STAGE (R319); what the team left
non-finite is confined at this member (R315). -/
def State.collStaged (s : State) (id : Nat) (c : Coll) (r : Rings) (q : Nat × Nat) : Except EStop State :=
  let seq := q.1
  match c.staged.find? (fun x => x.1 == seq) with
  | none => .ok (s.setColl id { c with ready := c.ready.erase q })
  | some x =>
    let m := x.2
    let w := stagedWho id seq
    if !s.teamQuiet c.ctx q.2 then .error (.wait s)
    else
    match s.collRead w c.ctx 4 (advance (Cd.stage c.dws) (4 * m.chunk * Cd.chunk c.dws)) (Cd.len c.dws m.chunk) with
    | .error e => .error e
    | .ok (vs, s) =>
      let (acc, ev, dropped) := confineCodes (Cd.confine c.dws) vs
      let c := { c with staged := c.staged.erase x, ready := c.ready.erase q }.mark s.modId.toNat dropped
      s.collOnward id w c r { m with nf := m.nf ||| c.nf } acc ev

/-- The flow end of a chunk to be sent, where it can take it (R307): linked to the ring's neighbour, with a free place. -/
def State.collFlow (s : State) (c : Coll) (r : Rings) (fl : Nat) : Option FlowEnd :=
  let e := s.flow (flowKey c.ctx fl)
  let self := s.modId.toNat
  let next := if fl = Cd.flow c.dws then r.mod (r.at1 self + 1) (r.at2 self) else r.mod (r.at1 self) (r.at2 self + 1)
  if e.v && !e.dir && !e.mc && e.peer == next && decide (e.queue.length + (if e.run.isSome then 1 else 0) < 4) then some e
  else none

/-- The first chunk that can be sent is handed to its flow end (R307). -/
def State.collSend (s : State) (id : Nat) (c : Coll) (r : Rings) : Option State :=
  match c.outq.find? (fun x => (s.collFlow c r x.1).any (fun e => decide (x.2.2.length ≤ e.maxlen))) with
  | none => none
  | some x =>
    let k := flowKey c.ctx x.1
    let s := s.updFlow k (fun e => { e with queue := e.queue ++ [{ len := x.2.2.length, chunk := some (id, x.2.1, x.2.2) }] })
    some (s.setColl id { c with outq := c.outq.erase x, sending := c.sending + 1 })

/-! ### Start and end -/

/-- Whether a write of a collective goes to RESIDUE, which a rebuilding keeps with the pair set that it belongs to (R313, R328). -/
def Coll.ofResidue (c : Coll) (x : SectorWrite) : Bool :=
  Cd.wire c.dws == 2 && x.parts.all (fun p =>
    decide ((Cd.residue c.dws).toNat ≤ p.1) && decide (p.1 < (Cd.residue c.dws).toNat + 4 * Cd.count c.dws))

/-- The progress of a collective begun, or begun again, under its members in force (R310, R316, R328). -/
def State.collRestart (s : State) (id : Nat) (c : Coll) : State :=
  let r := s.rings c
  let self := s.modId.toNat
  let ranks := (membersOf c.members).map c.rank
  let c := { c with
    arr := [], sums := [], staged := [], ready := [], outq := [], stalled := [], first := none, nf := 0, fault := none, redo := false
    wq := c.wq.filter c.ofResidue
    pairs := c.pairs.filter (fun p => p.2.1 == c.rank self && ranks.contains p.2.1)
    todo := c.begins r self, left := c.expects r self }
  (s.forget (collWho id)).setColl id c

/-- Whether the grid that a collective is bound to has ended with a mapped chunk unfired (R318). -/
def Coll.orphaned (c : Coll) : Bool := c.bind.any (·.closed) && (List.range (Cd.chunks c.dws)).any c.unfired

/-- A collective reads its descriptor and starts (R308, R309). -/
def State.collStart (s : State) (id : Nat) (c : Coll) : Except EStop State :=
  if !s.issuerDone c.by_ then .error (.wait s)
  else
    match s.engLoadDws (descWho id) hubCore c.ctx c.desc 16 with
    | .error e => .error e
    | .ok (d, s) =>
      let s := s.forget (descWho id)
      match s.pelotons.find? (fun p => p.2.v && p.2.ctx == c.ctx && p.2.pnum == Cd.pel d) with
      | none => .ok (s.setColl id { c with dws := d, status := 1 })
      | some (i, p) =>
        let n := (look p.started (Cd.flow d)).getD 0
        let s := { s with pelotons := put s.pelotons i { p with started := put p.started (Cd.flow d) (n + 1) } }
        let c := { c with dws := d, pel := i, ord := 1024 * n + Cd.flow d, members0 := p.members, members := p.members, epoch := p.epoch }
        if Cd.malformed d (membersOf p.members).length then .ok (s.setColl id { c with status := 1 })
        else if c.orphaned then .ok (s.setColl id { c with status := 3 })
        else .ok (s.collRestart id c)

/-- Collectives of a group that have ended are counted off in issue order (R323). -/
def State.collCountOff : Nat → State → Nat → Nat → State
  | 0, s, _, _ => s
  | n + 1, s, team, grp =>
    match s.colls.find? (fun c => c.2.src == some (team, grp)) with
    | some (id, c) =>
      match c.ended with
      | some st =>
        State.collCountOff n
          ({ s with colls := del s.colls id }.updGroup team grp (fun gr =>
            { gr with collCnt := gr.collCnt - 1, collStatus := BitVec.ofNat 8 st })) team grp
      | none => s
    | none => s

/-- The status of a collective (Table 16.6): the lowest non-zero code of those that apply. -/
def Coll.finalStatus (c : Coll) : Nat :=
  if c.status != 0 then c.status
  else
    leastCode [if Cd.wire c.dws = 1 && c.first.isSome then 5 else 0, if c.members != c.members0 then 6 else 0,
      if c.nf != 0 then 7 else 0]

/-- A 64-bit part of a 256-bit mask. -/
def part64 (m : BitVec 256) (i : Nat) : DWord := (m >>> (64 * i)).setWidth 64

/-- The completion record of a collective (Table 16.5), without COUNT. -/
def Coll.record (c : Coll) : List DWord :=
  let st := c.finalStatus
  let mask : BitVec 256 := if st = 0 || decide (5 ≤ st) then c.members else 0
  [BitVec.ofNat 64 (st * 2 ^ 56 + c.attempt * 2 ^ 48 + c.epoch.toNat),
   BitVec.ofNat 64 ((c.first.getD 0xFFFFFFFF) * 2 ^ 32), BitVec.ofNat 64 c.sent]
    ++ (List.range 4).map (part64 mask) ++ (List.range 4).map (part64 c.nf) ++ List.replicate 4 0

/-- The completion record written as one operation at its home, which is awaited where it is a peer or the host (R88, R321). -/
def State.collComplete (s : State) (id : Nat) (c : Coll) : Except EStop State :=
  let va := Cd.comp c.dws
  let far (s : State) (ap pa : Nat) : Except EStop State :=
    match s.farWrite c.ctx ap va (.collRecord ((doneWho id).at va) c.ctx ap pa c.record) with
    | .ok s => .error (.wait s)
    | .error e => .error e
  if !Cd.ck c.dws || va.toNat % 128 != 0 || c.dws.isEmpty then .ok s
  else
    match s.sent (doneWho id) with
    | .waiting => .error (.wait s)
    | .refused x va => .error (refusal x .engWrite va)
    | .done => .ok s
    | .nothing =>
      match s.engTarget hubCore c.ctx .engWrite va with
      | .error e => .error e
      | .ok (t, s) =>
        if !s.releaseReady hubCore (Cd.cscope c.dws) 0 t then .error (.wait s)
        else if t.ap != 0 && !t.c then far s t.ap t.pa
        else
          match (if t.ap = 0 && !t.nowhere then s.away t.pa else .here) with
          | .moved ap pa => far s ap pa
          | _ =>
            let n := (s.rdAt t t.pa 8 + 1) % 2 ^ 64
            let v := (BitVec.ofNat 64 n :: c.record).foldr (fun x a => x.toNat + 2 ^ 64 * a) 0
            match s.engPut (doneWho id) hubCore c.ctx t va 128 v with
            | .error e => .error e
            | .ok (a, s) => .ok ((s.settlePoison c.ctx ((a.map (fun a => (a, 128))).toList)).releaseTag hubCore (Cd.cscope c.dws) t)

/-- The DST bytes of a collective, appended to the join log (R329). -/
def State.collLog (s : State) (id : Nat) (c : Coll) : Except EStop State :=
  let st := c.finalStatus
  if !Cd.log c.dws || !(st == 0 || st == 6 || st == 7) then .ok s
  else
    let d := c.dws
    let n := if Cd.op d = 1 then
        (((List.range (Cd.chunks d)).filter (fun ch => c.owner ch == s.modId.toNat)).map (Cd.len d)).foldl (· + ·) 0
      else Cd.count d
    match s.collRead (logWho id) c.ctx (Cd.e d) (Cd.dst d) n with
    | .error e => .error e
    | .ok (vs, s) => .ok ((s.forget (logWho id)).jlAppend c.pel 1 (vs.flatMap (fun v => leBytes v (Cd.e d))) (Cd.dst d))

/-- A collective taken off the engine: counted off in its group, in issue order (R323). -/
def State.collGone (s : State) (id : Nat) (c : Coll) : State :=
  let s := (s.forgetAll (fun w => w.kind == 4 && w.id == id)).countEvents c.ctx none c.evs
  let c := { c with evs := [] }
  match c.src with
  | none => { s with colls := del s.colls id }
  | some (t, g) => State.collCountOff 9 (s.setColl id { c with ended := some c.finalStatus, ending := false, fault := none }) t g

/-- A collective ends at this member (R321): logged once, then its record written. -/
def State.collEnd (s : State) (id : Nat) (c : Coll) : Except EStop State :=
  match (if c.ending then .ok s else s.collLog id c) with
  | .error e => .error e
  | .ok s => (s.setColl id { c with ending := true }).collComplete id c

/-- Whether everything that a collective does at this member is done. -/
def Coll.done (c : Coll) : Bool :=
  c.todo.isEmpty && c.arr.isEmpty && c.left == 0 && c.outq.isEmpty && c.wq.isEmpty && c.sending == 0 && c.staged.isEmpty

/-- The arrivals of R327 that belong to a collective now: those of its epoch and attempt. -/
def Coll.current (c : Coll) (a : Arrived) : Bool := a.m.epoch == c.epoch && a.m.attempt == c.attempt

/-- Chunks that have arrived on the collective's receive ends and belong to it are taken up; those of an older epoch or
attempt are discarded (R307, R327). -/
def State.collTake (s : State) (id : Nat) (c : Coll) : State :=
  let f := Cd.flow c.dws
  let mine (x : Nat × Arrived) : Bool :=
    (x.1 == flowKey c.ctx (f + 1) || x.1 == flowKey c.ctx (f + 3)) && x.2.m.ord == c.ord
  let older (x : Nat × Arrived) : Bool := c.epoch != x.2.m.epoch && decide ((c.epoch - x.2.m.epoch).toNat < 2 ^ 31)
  let take (x : Nat × Arrived) : Bool := mine x && c.current x.2
  let got := (s.early.filter take).map (·.2)
  let keep := s.early.filter (fun x => !(take x || (mine x && older x)
    || (mine x && c.epoch == x.2.m.epoch && decide (x.2.m.attempt < c.attempt))))
  if got.isEmpty then { s with early := keep } else { s with early := keep }.setColl id { c with arr := c.arr ++ got }

/-- The writes of a collective that were refused, made again (R386): address, width and value. -/
def State.collAgain (s : State) (id : Nat) (c : Coll) : Except EStop State :=
  let bad := s.engAns.filter (fun e => e.write && e.who.same (collWho id) && e.status != 0)
  (({ s with engAns := s.engAns.filter (fun e => !bad.contains e) } : State).engStoreAll (collWho id) hubCore c.ctx
    (bad.map (fun e => (e.who.va, e.n, leNat e.data)))).map (fun s => s.setColl id { c with redo := false })

/-- One piece of work of a collective tried, its writes to memory apart: whether there was one. A piece that an engine record holds
stands; the others go on (R386). -/
def State.collOne (s : State) (id : Nat) : State × Bool :=
  match look s.colls id with
  | none => (s, false)
  | some c =>
    if c.fault.isSome || c.retry || c.ended.isSome || !s.sends c.ctx then (s, false)
    else
      let finish : State → Except EStop State := fun s =>
        match s.sent (collWho id) with
        | .waiting => .error (.wait s)
        | .refused x va => if c.status = 0 then .error (refusal x .engWrite va) else (s.collEnd id c).map (·.collGone id c)
        | _ => (s.collEnd id c).map (·.collGone id c)
      let s := if c.dws.isEmpty || c.status != 0 || c.ending then s else s.collTake id c
      let c := (look s.colls id).getD c
      let tries : List (Nat × (State → Except EStop State)) :=
        if c.redo then [(0, fun s => s.collAgain id c)]
        else if c.dws.isEmpty then [(0, fun s => s.collStart id c)]
        else if c.status != 0 || c.ending then [(0, finish)]
        else
          let r := s.rings c
          let send : Nat × (State → Except EStop State) :=
            (0, fun s => match s.collSend id c r with | some s => .ok s | none => .error (.wait s))
          let arrivals := c.arr.map (fun a => ((pieceWho id (8 + a.m.phase) a.m).part, fun (s : State) => s.collArrived id c r a))
          let teams := c.ready.map (fun q => ((stagedWho id q.1).part, fun (s : State) => s.collStaged id c r q))
          let own := c.todo.map (fun m => ((pieceWho id m.phase m).part, fun (s : State) => s.collBegin id c r m))
          let last : List (Nat × (State → Except EStop State)) :=
            if !c.done then []
            else if decide (c.attempt < Cd.retry c.dws) && c.first.isSome
                && (s.sent (collWho id) == .done || s.sent (collWho id) == .nothing) then
              [(0, fun s => .ok ((s.setColl id { c with retry := true }).raise (.collRetry id)))]
            else [(0, finish)]
          (send :: arrivals ++ teams ++ own ++ last).filter (fun t => !c.stalled.any (fun x => x.1 == t.1))
      match firstGo tries s with
      | (s, .went) => (s, true)
      | (s, .stuck) => (s, false)
      | (s, .fault key cause stage k va) =>
        let c := (look s.colls id).getD c
        let (s, rid) := s.engineFault c.ctx hubCore 0 0 4 id c.desc cause stage k va
        (s.setColl id (if key = 0 then { c with fault := some rid } else { c with stalled := (key, rid) :: c.stalled }), true)

/-- The sector write at a position of a collective made, or under a mask some of its bytes (R361). -/
def State.collWrite (s : State) (id i : Nat) (mask : Option Nat) : State :=
  match look s.colls id with
  | none => s
  | some c =>
    match (if c.ended.isSome || !s.sends c.ctx then none else writable c.wq i) with
    | none => s
    | some x =>
      let (rest, now) := match mask with | some m => x.tear m | none => ({ x with parts := [] }, x.parts)
      match s.engPlan hubCore c.ctx (now.map (fun p => (BitVec.ofNat 64 p.1, p.2.1, p.2.2))) with
      | .error (.wait s) => s
      | .error (.fault cause stage k va) =>
        let (s, rid) := s.engineFault c.ctx hubCore 0 0 4 id c.desc cause stage k va
        s.updColl id (fun c => { c with wq := updAt c.wq i (fun x => { x with fault := some rid }) })
      | .ok (xs, s1) =>
        if mask.isSome && xs.any (fun y => y.t.ap == 0 && s1.poisoned y.t.pa 1) then s
        else
          match s1.engPutAll (collWho id) hubCore c.ctx xs with
          | .error (.wait s) => s
          | .error _ => s
          | .ok (ws, s) =>
            (s.settlePoison c.ctx ws).setColl id
              { c with wq := if rest.parts.isEmpty then c.wq.eraseIdx i else updAt c.wq i (fun _ => rest) }

/-- The work of one collective, as far as it goes. -/
def State.collRun : Nat → State → Nat → State
  | 0, s, _ => s
  | n + 1, s, id =>
    match s.collOne id with
    | (s, true) => State.collRun n s id
    | (s, false) => s

/-- How many pieces of work a collective may have at hand. -/
def Coll.work (c : Coll) : Nat := 2 * (Cd.chunks c.dws * 256 + c.todo.length + c.arr.length + c.outq.length + 8)

/-- A collective's next write is made, or one piece of its other work. -/
def State.collGo (s : State) (id : Nat) : State :=
  match (look s.colls id).bind (fun c => firstWritable c.wq) with
  | some x => s.collWrite id x.1 none
  | none => State.collRun 1 s id

/-- The collective engine goes on as far as it can now without writing results. -/
def State.collPump (s : State) : State :=
  s.colls.foldl (fun (s : State) c => State.collRun (((look s.colls c.1).getD c.2).work + s.early.length) s c.1) s

/-! ### Steps that chunks arrive in (R191, R310, R321) -/

/-- BLOCKS: each block is checked and applied; a chunk that is complete goes to the collective engine. Of the header word, `slot` is
bits 63:46 (TYPE and the slot), `base` bits 45:22 and `cnt` bits 21:0 (CNT less one above the low 16). -/
def execBlocks (src tid tag slot base cnt : Nat) (body : List Byte) (s : State) : Out :=
  .next (s.onBlocks src tid tag (BitVec.ofNat 18 slot ++ BitVec.ofNat 24 base ++ BitVec.ofNat 22 cnt) body).collPump
/-- THDR: a transfer header is accepted, refused or found lagging. -/
def execThdr (src tid tag : Nat) (hdr : DWord) (body : List Byte) (chunk : Option ChunkMeta) (s : State) : Out :=
  .next (s.onThdr src tid tag hdr body chunk).collPump
/-- TAIL: missing indices are requested, or the transfer completes. -/
def execTail (src tid tag : Nat) (hdr : DWord) (body : List Byte) (s : State) : Out := .next (s.onTail src tid tag hdr body).collPump
/-- ACK: a receiver acknowledges; the transfer may end, and a collective with it. -/
def execAck (src tid tag : Nat) (hdr : DWord) (body : List Byte) (s : State) : Out := .next (s.onAck src tid tag hdr body).collPump
/-- FLOW_DEADLINE: receivers that have not acknowledged are excluded. -/
def execFlowDeadline (ctx flow : Nat) (s : State) : Out := .next (s.onFlowDeadline (flowKey ctx flow)).collPump

/-- COLL_FLOW_DEADLINE: a collective that has waited for a hop until the tenant's flow deadline ends with FLOW (R307). -/
def execCollFlowDeadline (id : Nat) (s : State) : Out :=
  match look s.colls id with
  | none => .next s
  | some c =>
    let waits := decide (0 < c.left) || !c.outq.isEmpty
    if c.dws.isEmpty || c.fault.isSome || !c.stalled.isEmpty || c.wq.any (·.fault.isSome) || c.retry || c.ended.isSome || c.status != 0 || !waits || !s.sends c.ctx
        || decide ((s.time - c.since).toNat < s.deadline c.ctx) then .next s
    else .next (s.setColl id { c with status := 4 }).collPump

/-! ### Instructions (R322, R323) -/

/-- The collective-reference trap. -/
def collRef (m : BitVec 64) : TrapInfo := { cls := 0x0D, lmask := m }

/-- A peloton of a context by its tenant number. -/
def State.peloton (s : State) (ctx pnum : Nat) : Option (Nat × Peloton) :=
  s.pelotons.find? (fun p => p.2.v && p.2.ctx == ctx && p.2.pnum == pnum)

/-- A collective put on the engine. -/
def State.newColl (s : State) (c : Coll) : State :=
  let id := s.nextId
  State.collRun c.work { s with colls := s.colls ++ [(id, c)], nextId := id + 1 } id

/-- `coll.start` (R323). -/
def execCollStart (g a : Nat) (s : State) : Out :=
  uniformOp g [.sp a] (fun is tm gr m =>
    let va := (Src.sp a).read is.snap 0
    if va.toNat % 128 != 0 then .next (s.trap is { cls := 0x02, addr := va, lane := lowLane m, lmask := m })
    else
      let w : Who := { kind := 8, id := is.team, part := is.grp }
      match s.engLoad w hubCore tm.ctx (va + 24) 8 with
      | .error (.fault cause stage _ fa) => .next ((s.forget w).faultIssue is (s.hubReadFault tm.ctx m cause stage fa))
      | .error (.wait s) => .next (s.holdIssue is .table)
      | .ok (v, s) =>
        if (s.peloton tm.ctx (v / 2 ^ 36 % 16)).isNone then .next ((s.forget w).trap is (collRef m))
        else if s.logHas (tm.coreOf is.grp) is.team (some is.grp) then .next (s.holdIssue is (.sideEmpty false))
        else if decide (8 ≤ gr.collCnt) then .next (s.holdIssue is (.collAtMost 7))
        else
          let c : Coll := { ctx := tm.ctx, src := some (is.team, is.grp), by_ := some (s.issuer is tm), desc := va, pnum := some (v / 2 ^ 36 % 16), since := s.time }
          let s := s.updGroup is.team is.grp (fun gr => { gr with collCnt := gr.collCnt + 1 })
          .next ((({ s with nextInstr := s.nextInstr + 1 } : State).forget w).retire is true |>.newColl c)) s

/-- `coll.start` SF. -/
def execCollStartSf (g : BitVec 2) (a : BitVec 6) (s : State) : Out := execCollStart g.toNat a.toNat s
/-- `coll.start` LR. -/
def execCollStartL (o : LR) (s : State) : Out := execCollStart o.g.toNat o.a.toNat s

/-- `coll.wait` (R323): at device scope, the results of the collectives counted off come before the later accesses. -/
def execCollWait (g n : Nat) (s : State) : Out :=
  uniformOp g [] (fun is tm gr _ =>
    if decide (gr.collCnt ≤ n) then .next ((s.flushFor is.team (tm.coreOf is.grp)).retire is)
    else .next (s.holdIssue is (.collAtMost n))) s

/-- `coll.wait` SF. -/
def execCollWaitSf (g : BitVec 2) (n : BitVec 3) (s : State) : Out := execCollWait g.toNat n.toNat s
/-- `coll.wait` LR. -/
def execCollWaitL (o : LR) (s : State) : Out := execCollWait o.g.toNat (o.c.toNat % 8) s

/-- `coll.stat` (R323): a long-class result. -/
def execCollStat (g d p sel : Nat) (s : State) : Out :=
  uniformOp g [.sp d, .s p] (fun is tm gr m =>
    let give (v : DWord) : Out := .next ((s.giveResults is true [(Dst.sp d).writes 0 v]).retire is)
    if sel = 0 then give (BitVec.ofNat 64 (gr.collCnt + gr.collStatus.toNat * 2 ^ 8))
    else
      match s.peloton tm.ctx (is.snap.sca p).toNat with
      | none => .next (s.trap is (collRef m))
      | some (_, x) =>
        give (match sel with
          | 1 => x.epoch.setWidth 64
          | 2 => BitVec.ofNat 64 (membersOf x.members).length
          | 7 => x.bytes
          | n => part64 x.members (n - 3))) s

/-- `coll.stat` SF. -/
def execCollStatSf (g : BitVec 2) (d p e : BitVec 6) (s : State) : Out := execCollStat g.toNat d.toNat p.toNat e.toNat s
/-- `coll.stat` LR. -/
def execCollStatL (o : LR) (s : State) : Out := execCollStat o.g.toNat o.d.toNat o.a.toNat o.c.toNat s

end Sys2Proof.Machine
end

