-- ==== Sys2Proof/Machine/CrossLane.lean ====
section
/-!
DEFINITION. The cross-lane instructions `shfl`, `xbfly`, `bcast`, `vote`, `elect`, `lred` and `lscan` (R263 to R267, R237).
A lane contributes when it is in the active set and its guard reads 1. Every result is long class.
-/

namespace Sys2Proof.Machine

/-- The common course of a vector cross-lane instruction: sources read in the contributing lanes, one result a lane. -/
def execCross (g : Nat) (d : Dst) (srcs : List Src) (f : Issue → Team → BitVec 64 → Nat → DWord × List Ev) (s : State) :
    Out :=
  execLanesOp (fun is => is.guarded g) true d srcs
    (fun _ is tm l _ => let r := f is tm (is.guarded g) l; ⟨r.1, r.2⟩) s

/-- The value of `a` that lane `l` takes from source lane `sl` (R264): its own where the source lane is outside the
group or does not contribute. -/
def takeFrom (is : Issue) (tm : Team) (m : BitVec 64) (a : Src) (l : Nat) (sl : Nat) : DWord :=
  a.read is.snap (if decide (sl < tm.w) && m.getLsbD sl then sl else l)

/-- `shfl` without `.rot`: the source lane is v(b) read unsigned. -/
def shflTo (g : Nat) (d : Dst) (a b : Src) (s : State) : Out :=
  execCross g d [a, b] (fun is tm m l =>
    (takeFrom is tm m a l ((b.read is.snap l).setWidth 32).toNat, [])) s

/-- `shfl.rot`: the source lane is (l + b) mod W, b signed. -/
def shflRot (g : Nat) (d : Dst) (a b : Src) (s : State) : Out :=
  execCross g d [a, b] (fun is tm m l =>
    let x := intVal true 32 ((b.read is.snap l).setWidth 32).toNat
    (takeFrom is tm m a l (((l : Int) + x) % (tm.w : Int)).toNat, [])) s

/-- `xbfly`: the source lane is l XOR b. -/
def xbflyTo (g : Nat) (d : Dst) (a b : Src) (s : State) : Out :=
  execCross g d [a, b] (fun is tm m l =>
    (takeFrom is tm m a l (Nat.xor l ((b.read is.snap l).setWidth 32).toNat), [])) s

/-- `bcast`: one source lane for the group, read from the lowest contributing lane's b; the lowest contributing lane
where it names none. -/
def bcastTo (g : Nat) (d : Dst) (a b : Src) (s : State) : Out :=
  execCross g d [a, b] (fun is tm m _ =>
    let low := lowLane m
    let sl := ((b.read is.snap low).setWidth 32).toNat
    (a.read is.snap (if decide (sl < tm.w) && m.getLsbD sl then sl else low), [])) s

/-- `shfl` SR (R264). -/
def execShflSr (g : BitVec 2) (d a b : BitVec 6) (s : State) : Out :=
  shflTo g.toNat (.v d.toNat) (.v a.toNat) (.v b.toNat) s
/-- `shfl.rot` SI (R264). -/
def execShflRotSi (g : BitVec 2) (d a i : BitVec 6) (s : State) : Out :=
  shflRot g.toNat (.v d.toNat) (.v a.toNat) (.imm (imm6 i)) s
/-- `shfl` and, with X = 1, `shfl.rot` LR (R264). -/
def execShflL (o : LR) (s : State) : Out :=
  let wide := o.t1 == 7
  (if o.x then shflRot else shflTo) o.g.toNat (dstOf false wide o.d.toNat) (srcOf false wide o.a.toNat)
    (srcOf o.kb false o.b.toNat) s
/-- `xbfly` SR (R264). -/
def execXbflySr (g : BitVec 2) (d a b : BitVec 6) (s : State) : Out :=
  xbflyTo g.toNat (.v d.toNat) (.v a.toNat) (.v b.toNat) s
/-- `xbfly` SI (R264). -/
def execXbflySi (g : BitVec 2) (d a i : BitVec 6) (s : State) : Out :=
  xbflyTo g.toNat (.v d.toNat) (.v a.toNat) (.imm (imm6 i)) s
/-- `xbfly` LR (R264). -/
def execXbflyL (o : LR) (s : State) : Out :=
  let wide := o.t1 == 7
  xbflyTo o.g.toNat (dstOf false wide o.d.toNat) (srcOf false wide o.a.toNat) (srcOf o.kb false o.b.toNat) s
/-- `bcast` SR (R264). -/
def execBcastSr (g : BitVec 2) (d a b : BitVec 6) (s : State) : Out :=
  bcastTo g.toNat (.v d.toNat) (.v a.toNat) (.v b.toNat) s
/-- `bcast` SI (R264). -/
def execBcastSi (g : BitVec 2) (d a i : BitVec 6) (s : State) : Out :=
  bcastTo g.toNat (.v d.toNat) (.v a.toNat) (.imm (imm6 i)) s
/-- `bcast` LR; Kd = 1 writes a scalar (R264). -/
def execBcastL (o : LR) (s : State) : Out :=
  let wide := o.t1 == 7
  bcastTo o.g.toNat (dstOf o.kd wide o.d.toNat) (srcOf false wide o.a.toNat) (srcOf o.kb false o.b.toNat) s

/-- `vote` over the contributing lanes (R265): modes 0 any, 1 all, 2 eq write a predicate in every contributing lane;
mode 3, ballot, writes a scalar pair and does not execute when no lane contributes. -/
def voteTo (g mode ps d : Nat) (s : State) : Out :=
  withIssue s fun is tm _ =>
    let m := is.guarded g
    let ls := lanesOf m
    let on (l : Nat) : Bool := is.snap.pred l ps
    if mode = 3 then
      if !(Dst.sp d).inRange tm.nv tm.ns then .next (s.trap is { regRange with lmask := m })
      else
        let b : DWord := maskOf (fun l => m.getLsbD l && on l)
        let ws := if ls.isEmpty then [] else [(Dst.sp d).writes 0 b]
        .next ((s.giveResults is true ws).retire is)
    else
      let r : Bool :=
        match mode with
        | 0 => ls.any on
        | 1 => ls.all on
        | _ => ls.all on || ls.all (fun l => !on l)
      .next ((s.giveResults is true (ls.map (fun l => [(.p l d, if r then 1 else 0)]))).retire is)

/-- `vote` SF (R265). -/
def execVoteSf (g : BitVec 2) (m p : BitVec 3) (d : BitVec 6) (s : State) : Out :=
  voteTo g.toNat m.toNat p.toNat d.toNat s
/-- `vote` LR: mode in T2, ps in c (R265). -/
def execVoteL (o : LR) (s : State) : Out :=
  voteTo o.g.toNat o.t2.toNat (o.c.toNat % 8) o.d.toNat s

/-- `elect` (R263, R266): 1 in the lowest contributing lane, 0 in the others; `p` is [19:15], guard and pd. -/
def execElect (p : BitVec 5) (s : State) : Out :=
  withIssue s fun is _ _ =>
    let m := is.guarded (p.toNat / 8)
    .next ((s.giveResults is true ((lanesOf m).map (fun l => [(.p l (p.toNat % 8), if l = lowLane m then 1 else 0)]))).retire is)

/-! ### Reductions and scans -/

/-- The reduction operations of Table 13.1. -/
inductive ROp where
  | add | min | max | and | or | xor
deriving DecidableEq, Repr

def ROp.of (t2 : Nat) : ROp :=
  match t2 with
  | 0 => .add | 1 => .min | 2 => .max | 3 => .and | 4 => .or | _ => .xor

/-- A value and the events met on the way to it. -/
abbrev RVal := DWord × List Ev

/-- A value as it enters a reduction or a scan, and as one that nothing is combined with leaves it: of a floating type its low bits, every
NaN the canonical one (R224, R241). -/
def redValue (t1 : Nat) (x : DWord) : DWord :=
  if t1 < 8 then x
  else
    let f := fmtOf t1
    BitVec.ofNat 64 (if (f.val x).isNaN then f.canonNaN else x.toNat % 2 ^ f.bits)

/-- The events of a result: those of the steps it came from, and NAN where it is a NaN itself, generated or carried (R238). -/
def redEvents (t1 : Nat) (r : RVal) : List Ev :=
  r.2.filter (· != .nan) ++ if 8 ≤ t1 && ((fmtOf t1).val r.1).isNaN then [.nan] else []

/-- One combining step on values of an integer or floating type code (R267, R237). -/
def ROp.step (op : ROp) (t1 : Nat) (x y : RVal) : RVal :=
  if t1 < 8 then
    let t := ITy.of (BitVec.ofNat 4 t1)
    let r : DWord :=
      match op with
      | .add => (opIadd t false [x.1, y.1]).val
      | .min => (opImin t false [x.1, y.1]).val
      | .max => (opImax t false [x.1, y.1]).val
      | .and => x.1 &&& y.1
      | .or => x.1 ||| y.1
      | .xor => x.1 ^^^ y.1
    (r, x.2 ++ y.2)
  else
    let f := fmtOf t1
    let vs := [f.val x.1, f.val y.1]
    let r : Res :=
      match op with
      | .min => opFmin f .rn false vs
      | .max => opFmax f .rn false vs
      | _ => opFadd f .rn false vs
    (r.val, x.2 ++ y.2 ++ r.ev)

/-- The identity a lane enters that does not contribute (R267). -/
def ROp.ident (op : ROp) (t1 : Nat) : DWord :=
  if t1 < 8 then
    let t := ITy.of (BitVec.ofNat 4 t1)
    match op with
    | .min => BitVec.ofNat 64 (wrapNat t.bits (imax t.signed t.bits))
    | .max => BitVec.ofNat 64 (wrapNat t.bits (imin t.signed t.bits))
    | .and => BitVec.ofNat 64 (2 ^ t.bits - 1)
    | _ => 0
  else
    let f := fmtOf t1
    match op with
    | .min => BitVec.ofNat 64 f.infCode
    | .max => BitVec.ofNat 64 (f.signed true f.infCode)
    | _ => BitVec.ofNat 64 (f.signed true 0)

/-- One level of the tree of R237: neighbours 2^s apart combined. -/
def redLevel (f : RVal → RVal → RVal) : List RVal → List RVal
  | x :: y :: r => f x y :: redLevel f r
  | r => r

/-- The tree reduction of R237 over `2^n` values. -/
def redTree (f : RVal → RVal → RVal) : Nat → List RVal → List RVal
  | 0, xs => xs
  | n + 1, xs => redTree f n (redLevel f xs)

/-- One level of the scan of R237: lane l takes x[l − 2^s] ⊕ x[l]. -/
def scanLevel (f : RVal → RVal → RVal) (k : Nat) (xs : List RVal) : List RVal :=
  xs.take k ++ List.zipWith f xs (xs.drop k)

/-- The inclusive scan of R237, levels `s` onward. -/
def scanFrom (f : RVal → RVal → RVal) : Nat → Nat → List RVal → List RVal
  | 0, _, xs => xs
  | n + 1, k, xs => scanFrom f n (2 * k) (scanLevel f k xs)

/-- The values that enter a reduction or a scan, lane by lane. -/
def redInputs (op : ROp) (t1 : Nat) (is : Issue) (tm : Team) (m : BitVec 64) (a : Src) : List RVal :=
  (List.range tm.w).map (fun l => (if m.getLsbD l then redValue t1 (a.read is.snap l) else op.ident t1, []))

/-- `lred`: the reduction, written to every contributing lane or to a scalar (R267); each result counts its events (R238). -/
def lredTo (g t1 : Nat) (op : ROp) (d : Dst) (a : Src) (s : State) : Out :=
  execCross g d [a] (fun is tm m _ =>
    let r := (redTree (op.step t1) (Nat.log2 tm.w) (redInputs op t1 is tm m a)).headD (0, [])
    (r.1, redEvents t1 r)) s

/-- `lscan`: lane l's inclusive prefix, or with `excl` the prefix of the lanes below it (R267). -/
def lscanTo (g t1 : Nat) (op : ROp) (excl : Bool) (d : Dst) (a : Src) (s : State) : Out :=
  execCross g d [a] (fun is tm m l =>
    let xs := redInputs op t1 is tm m a
    let xs := if excl then (op.ident t1, []) :: xs.dropLast else xs
    let r := (scanFrom (op.step t1) (Nat.log2 tm.w) 1 xs).getD l (0, [])
    (r.1, redEvents t1 r)) s

/-- `lred` SR: integer add over `.i32` (R267). -/
def execLredSr (g : BitVec 2) (d a : BitVec 6) (s : State) : Out :=
  lredTo g.toNat 2 .add (.v d.toNat) (.v a.toNat) s
/-- `lred` LR (R267). -/
def execLredL (o : LR) (s : State) : Out :=
  let wide := (ITy.of o.t1).wide && decide (o.t1.toNat < 8)
  lredTo o.g.toNat o.t1.toNat (ROp.of o.t2.toNat) (dstOf o.kd wide o.d.toNat) (srcOf false wide o.a.toNat) s
/-- `lscan` SR: inclusive integer add over `.i32` (R267). -/
def execLscanSr (g : BitVec 2) (d a : BitVec 6) (s : State) : Out :=
  lscanTo g.toNat 2 .add false (.v d.toNat) (.v a.toNat) s
/-- `lscan` LR; X = 1 is exclusive (R267). -/
def execLscanL (o : LR) (s : State) : Out :=
  let wide := (ITy.of o.t1).wide && decide (o.t1.toNat < 8)
  lscanTo o.g.toNat o.t1.toNat (ROp.of o.t2.toNat) o.x (dstOf false wide o.d.toNat) (srcOf false wide o.a.toNat) s

end Sys2Proof.Machine
end

