-- ==== Sys2Proof/Machine/MemSteps.lean ====
section
/-!
DEFINITION. Steps of the memory system as events: an access at its home slice, its arrival, a store acknowledged or refused,
the side log replayed or discarded (R88, R111, R114, R125, R355), the sweeps (R143, R144), TLB invalidation (R74), and page
migration (R82, R83).
-/

namespace Sys2Proof.Machine

/-- SLICE_OPERATION: the access at position `i` is performed at its home slice (R88). `err` is what the channel controller
finds in the sector: 0 nothing, 1 a corrected symbol error, 2 an uncorrectable one (R86). -/
def execSliceOperation (i err : Nat) (s : State) : Out :=
  match s.reqs[i]? with
  | none => .next s
  | some r =>
    -- the remaining lanes of a partly performed instruction are performed after the resume (R391)
    let frozen := !r.isStore && ((s.ctx r.ctx).res == .writing || (s.ctx r.ctx).res == .saved)
    .next (if frozen then s else s.sliceOp i err)

/-- LOAD_SECTOR_ARRIVAL: the result of the request at position `i` reaches its registers (R111). -/
def execLoadSectorArrival (i : Nat) (s : State) : Out :=
  match s.reqs[i]? with
  | none => .next s
  | some r =>
    let frozen := r.state == .waitFull && ((s.ctx r.ctx).res == .writing || (s.ctx r.ctx).res == .saved)
    .next (if frozen then s else s.arrive i)

/-- STORE_ACK (R355). -/
def execStoreAck (i : Nat) (s : State) : Out := .next (s.ackStore i)

/-- STORE_REFUSED: a refused store moves to the side log with its followers (R114). -/
def execStoreRefused (i : Nat) (s : State) : Out := .next (s.storeRefused i)

/-- SIDE_LOG_REPLAY: the entries of a context on a core, in sequence order (R125). A core holds at most 256 entries. -/
def execSideLogReplay (core ctx : Nat) (s : State) : Out := .next (State.replay 256 s core ctx)

/-- SIDE_LOG_DISCARD: every entry of a context on a core (R125). -/
def execSideLogDiscard (core ctx : Nat) (s : State) : Out := .next (s.discardLog core ctx (fun _ => true))

/-! ### Sweeps (R143, R144, Table 7.6) -/

def swV (e : BitVec 128) : Bool := bit e 0
def swBusy (e : BitVec 128) : Bool := bit e 1
def swDe64 (e : BitVec 128) : Bool := bit e 2
def swCls (e : BitVec 128) : Nat := bits e 6 3
def swCtx (e : BitVec 128) : Nat := bits e 12 7
def swBase (e : BitVec 128) : Nat := bits e 42 13 * 2 ^ 21
def swLen (e : BitVec 128) : Nat := bits e 63 43 * 2 ^ 21
def swPace (e : BitVec 128) : Nat := bits e 79 64
def swPstep (e : BitVec 128) : Word := BitVec.ofNat 32 (bits e 127 96)

/-- Bytes of an element of a sweep range, and how many there are. -/
def swElem (e : BitVec 128) : Nat := if swDe64 e then 8 else 4
def swCount (e : BitVec 128) : Nat := swLen e / swElem e

/-- An entry with its PSTEP replaced. -/
def swSetPstep (e : BitVec 128) (p : Word) : BitVec 128 := BitVec.ofNat 128 (e.toNat % 2 ^ 96 + p.toNat * 2 ^ 96)

/-- An entry with its BUSY bit replaced. -/
def swSetBusy (e : BitVec 128) (b : Bool) : BitVec 128 := if b then e ||| 2#128 else e &&& ~~~(2#128)

/-- A sweep range entry. -/
def State.sweep (s : State) (i : Nat) : BitVec 128 := (look s.sweeps i).getD 0

/-- SWEEP_PASS_END, within the last visit or an empty pass: PSTEP ← P, BUSY ← 0 (R144). -/
def State.sweepEnd (s : State) (i : Nat) : State :=
  match look s.passes i with
  | none => s
  | some (p, seen) =>
    let e := s.sweep i
    if seen.length < swCount e then s
    else { s with passes := del s.passes i, sweeps := put s.sweeps i (swSetBusy (swSetPstep e p) false) }

/-- SWEEP_PASS_START: when the odometer is PACE steps past PSTEP (R144). -/
def execSweepPassStart (i : Nat) (s : State) : Out :=
  let e := s.sweep i
  let odo := (s.ctx (swCtx e)).odometer
  if swV e && !swBusy e && decide (swPace e ≤ (odo - swPstep e).toNat) then
    .next (({ s with passes := put s.passes i (odo, []), sweeps := put s.sweeps i (swSetBusy e true) } : State).sweepEnd i)
  else .next s

/-- What a sweep does to an element (R144): the new raw bits, if it is old, and the events. -/
def sweepElem (p : DecaySnap) (raw : Nat) : Option Nat × List Ev :=
  let (v, st) := readElem p raw
  let t := p.step.toNat % 2 ^ p.w
  if decide ((2 : Int) ^ (p.w - 2) ≤ sdelta p.w t st) then
    let e := writeElem p (flush p (age p v st t)) t
    (some e.code, e.ev)
  else (none, [])

/-- SWEEP_VISIT: one element, once in a pass, as one operation at its home (R144). A line that a migration has copied is
swept by the module that holds it (R142). A poisoned element is left as it is. It is logged, as a write of the range's context, where the
bytes that its sector holds read as old: only then would the sweep have written it, and Table 6.1 has no name for its operation
(DESIGN CHOICE, log entry 45). -/
def execSweepVisit (i elem : Nat) (s : State) : Out :=
  let e := s.sweep i
  match look s.passes i with
  | none => .next s
  | some (p, seen) =>
    if !swV e || decide (swCount e ≤ elem) || seen.contains elem then .next s
    else
      let pa := swBase e + elem * swElem e
      match s.away pa with
      | .recall m r => .next (s.recallToken m r)
      | .locked => .next s
      | a =>
        let ctx := s.ctx (swCtx e)
        let snap := ({ de64 := swDe64 e, step := ctx.odometer } : DecaySnap).take (Sparse.get (0 : BitVec 128) ctx.classes (swCls e))
        let s : State := { s with passes := put s.passes i (p, elem :: seen) }
        let s :=
          match a with
          | .here =>
            let r := sweepElem snap (s.rd pa (swElem e))
            match r.1 with
            | none => s
            | some n =>
              if s.poisoned pa (swElem e) then s.log (.poisonWrite (swCtx e) pa .write)
              else (s.wr pa (swElem e) n).countEvents (swCtx e) none (evClasses r.2)
          | _ => s
        .next (s.sweepEnd i)

/-! ### TLB invalidation (R73, R74) -/

/-- The entries of every TLB and micro-TLB, and of the hub's, that a test does not name, and the walk caches without a context (64:
without any). -/
def State.dropTlb (s : State) (ctx : Nat) (f : TlbEntry → Bool) : State :=
  let core (c : Core) : Core :=
    { c with
      tlb := c.tlb.filter (fun e => !f e), utlb := c.utlb.filter (fun e => !f e.2)
      walks := c.walks.filter (fun w => !(ctx == 64 || w.ctx == ctx)) }
  { s with cores := s.cores.map (fun c => (c.1, core c.2)) }

/-- An invalidation begun, unless one is in progress: the entries go, and DONE reads 0 until the accesses already translated
for the context (64: for any) are performed or in a side log. -/
def State.invalidate (s : State) (ctx : Nat) (f : TlbEntry → Bool) : State :=
  if s.inv.isSome then s else { s.dropTlb ctx f with inv := some (s.nextInstr + 1, ctx), nextInstr := s.nextInstr + 1 }

/-- INVCMD KIND 0. -/
def execInvOnePage (ctx vpn : Nat) (s : State) : Out :=
  .next (s.invalidate ctx (fun e => e.ctx == ctx && decide (vpn * 2 ^ 12 % 2 ^ 57 / 2 ^ e.bits = e.va / 2 ^ e.bits)))

/-- INVCMD KIND 1: a range of `len` pages; an empty range, and one that runs past the last page, is ignored. -/
def execInvVirtualRange (ctx vpn len : Nat) (s : State) : Out :=
  if len = 0 || decide (2 ^ 45 < vpn + len) then .next s
  else
    .next (s.invalidate ctx (fun e =>
      e.ctx == ctx && decide (e.va < (vpn + len) * 2 ^ 12) && decide (vpn * 2 ^ 12 < e.va + 2 ^ e.bits)))

/-- INVCMD KIND 2. -/
def execInvWholeContext (ctx : Nat) (s : State) : Out := .next (s.invalidate ctx (fun e => e.ctx == ctx))

/-- INVCMD KIND 3: the entries derived from one range-table entry. -/
def execInvRangeEntry (ctx idx : Nat) (s : State) : Out :=
  .next (s.invalidate ctx (fun e => e.ctx == ctx && (e.range.map (·.1)) == some idx))

/-- INVCMD KIND 4. -/
def execInvEveryContext (s : State) : Out := .next (s.invalidate 64 (fun _ => true))

/-- Whether a message carries an access of a context through a translation that is no request of a core. -/
def Msg.translated : Msg → Bool
  | .engineRead .. | .engineWrite .. | .completion .. | .collRecord .. | .hostRead .. | .hostWrite .. | .tokenAcquire ..
  | .tokenRelease .. => true
  | _ => false

/-- INV_COMPLETE: DONE reads 1 when no access translated before the command is still to be performed, an engine's among them. One that a
fault holds is translated afresh when it is tried again. -/
def execInvComplete (s : State) : Out :=
  match s.inv with
  | none => .next s
  | some (n, c) =>
    let open_ (r : Req) : Bool :=
      decide (r.instr < n) && (c == 64 || r.ctx == c) &&
        (match r.state with | .waiting | .sent => true | .refused _ => r.isStore | _ => false)
    let late (m : Msg) (born : Nat) : Bool := m.translated && decide (born < n) && (c == 64 || m.ctx == c)
    if s.reqs.any open_ || s.outst.any (fun o => late o.msg o.born) || s.waitQ.any (fun w => late w.msg w.born) then .next s
    else .next { s with inv := none }

/-! ### Page migration (R82, R83) -/

/-- The least entry number below 64 that is free. -/
def State.freeMigration (s : State) : Option Nat := (List.range 64).find? (fun i => (look s.migrations i).isNone)

/-- The holders of tokens of the regions that a page touches are asked for them; none if there are none. -/
def State.recallPage (s : State) (page size : Nat) : Option State :=
  let out := s.tokenDir.filter (fun t => decide (t.1 * 2 ^ 21 < page + size) && decide (page < (t.1 + 1) * 2 ^ 21))
  if out.isEmpty then none else some (out.foldl (fun (s : State) t => s.recallToken t.2 t.1) s)

/-- MIGRATION_START: a page of this module to address `pa` of another. The page's tokens are recalled first; the entry is
written once they are here. -/
def execMigrationStart (page size mod pa : Nat) (s : State) : Out :=
  let sized := size == 2 ^ 12 || size == 2 ^ 21 || size == 2 ^ 30
  let clash := s.migrations.any (fun m => decide (m.2.page < page + size) && decide (page < m.2.page + m.2.size))
  if !sized || page % size != 0 || pa % size != 0 || decide (Config.memBytes < page + size) || mod == s.modId.toNat
      || !s.inPod mod || clash then .next s
  else
    match s.freeMigration with
    | none => .next s
    | some i =>
      match s.recallPage page size with
      | some s => .next s
      | none => .next { s with migrations := put s.migrations i { page := page, size := size, dstMod := mod, dstPa := pa } }

/-- MIGRATION_LINE_COPY: a line is locked and written at the destination, which is awaited (R82). A line with a poisoned sector is not
copied: the spec gives the copy nothing to write for it (DESIGN CHOICE, log entry 24). -/
def execMigrationLineCopy (entry line : Nat) (s : State) : Out :=
  match look s.migrations entry with
  | none => .next s
  | some m =>
    let pa := m.page + 128 * line
    if decide (m.size ≤ 128 * line) || m.copied.contains line || m.locked.contains line || s.poisoned pa 128 || (s.routes m.dstMod).isEmpty then .next s
    else
      match look s.tokenDir (pa / 2 ^ 21) with
      | some h => .next (s.recallToken h (pa / 2 ^ 21))
      | none =>
        .next (({ s with migrations := put s.migrations entry { m with locked := line :: m.locked } } : State).send
          (.lineCopy m.dstMod (m.dstPa + 128 * line) entry line (s.rd pa 128)))

/-- The destination has answered the copy of a line: its bit is set before the lock is released, or the line stays here (R82). -/
def State.lineCopied (s : State) (entry line : Nat) (ok : Bool) : State :=
  match look s.migrations entry with
  | none => s
  | some m =>
    { s with
      migrations := put s.migrations entry
        { m with copied := if ok then line :: m.copied else m.copied, locked := m.locked.filter (· != line) } }

/-- A grant cut to what lies outside the units [u, u + n). -/
def GrantEntry.without (g : GrantEntry) (u n : Nat) : List GrantEntry :=
  if decide (g.base + g.len ≤ u) || decide (u + n ≤ g.base) then [g]
  else
    (if g.base < u then [{ g with len := u - g.base }] else []) ++
    (if u + n < g.base + g.len then [{ g with base := u + n, len := g.base + g.len - (u + n) }] else [])

/-- MIGRATION_CLOSE: refused while any line is not copied; afterwards the grant filter no longer covers the page (R83). Grants count in
2 MiB units, so that the unit around a 4 KiB page goes with it (DESIGN CHOICE, log entry 25). The table holds 4,096 entries (R75): what
cutting a grant in two leaves over is refused to the kernel, as a grant is. -/
def execMigrationClose (entry : Nat) (s : State) : Out :=
  match look s.migrations entry with
  | none => .next s
  | some m =>
    if m.copied.length * 128 < m.size then .next (s.raise (.refused 5 entry))
    else
      let u := m.page / 2 ^ 21
      let n := max 1 (m.size / 2 ^ 21)
      let cut (s : State) (g : GrantEntry) : State :=
        let ps := g.without u n
        if 1 < ps.length && decide (4096 ≤ s.grants.length) then
          ({ s with grants := s.grants.flatMap (fun x => if x = g then ps.take 1 else [x]) } : State).raise (.grantRefused g.id)
        else { s with grants := s.grants.flatMap (fun x => if x = g then ps else [x]) }
      .next (s.grants.foldl cut { s with migrations := del s.migrations entry })

end Sys2Proof.Machine
end

