-- ==== Sys2Proof/Machine/Fabric.lean ====
section
/-!
DEFINITION. What arrives over the fabric (R75 to R79, R82, R170 to R172): accesses of peers to this module's memory, answers
to this module's requests, token and grant messages.
-/

namespace Sys2Proof.Machine

/-! ### Admission (R75, R172) -/

/-- Whether the tag of a memory request is admitted (R172): 0 from a module kernel, or that of some valid context. -/
def State.tagOk (s : State) (tag : Nat) : Bool := tag == 0 || s.ctxs.any (fun c => c.2.created && c.2.dtag == tag)

/-- The permissions that the grants of a module combine to for the region of an address (R75): RD, WR, RAP, C from bit 0. -/
def State.granted (s : State) (mod pa : Nat) : BitVec 4 :=
  (s.grants.filter (fun g => g.mod == mod && decide (g.base ≤ pa / 2 ^ 21) && decide (pa / 2 ^ 21 < g.base + g.len))).foldl
    (fun p g => p ||| g.perm) 0

/-- Whether a request of a module passes the grant filter (R75). -/
def State.admits (s : State) (mod pa : Nat) (need : BitVec 4) : Bool :=
  !s.denies.contains mod && (s.granted mod pa &&& need) == need

/-- A request of a peer refused by the domain check: dropped, counted and answered GRANT_DENIED (R172). -/
def State.dropDomain (s : State) (src tid : Nat) : State :=
  ({ s with domainDrop := s.domainDrop + 1 } : State).answer src tid 0x0B []

/-- What every request of a peer begins with: one held in the record is answered from it (R171), and a tag that is not
admitted is refused (R172). -/
def incoming (src tid tag : Nat) (s : State) (k : Unit → State) : State :=
  match s.answeredTo src tid with
  | some a => s.send (.response src tid a.status a.data)
  | none => if !s.tagOk tag then s.dropDomain src tid else k ()

/-- A CONTROL request of a peer (R170, R171): one held in the record is answered from it; it is performed, or queued for the module kernel,
once, and answered. -/
def control (src tid : Nat) (s : State) (k : State → State) : State :=
  match s.answeredTo src tid with
  | some a => s.send (.response src tid a.status a.data)
  | none => (k s).answer src tid 0 []

/-! ### Accesses of peers (R170) -/

/-- The events of a remote operation, which the response carries to the issuing module (R238). -/
def evBytes (evs : List Ev) : List Byte := evs.map (fun e => BitVec.ofNat 8 e.num)

/-- The class that a byte of a response names. -/
def evOfByte (b : Byte) : Ev :=
  match b.toNat with
  | 0 => .invalid | 1 => .divzero | 2 => .overflow | 3 => .underflow | 4 => .nan | 5 => .saturation | 6 => .scale
  | 7 => .flush | _ => .memcorr

/-- Whether the promotion that a peer's acquire or release asks of a line's tag has been made (R357, R359). -/
def State.peerPromoted (s : State) (how : PeerHow) (pa : Nat) : Bool :=
  match look s.promote (sectorKey 0 (pa / 128 * 128)) with
  | none => true
  | some p => !(how.acq || how.rel || how.core.isSome) || s.tagMade p

/-- A peer's release, at device scope or wider, clears the line's promote tag; one at core scope puts its own there (R357). -/
def State.peerRelease (s : State) (src : Nat) (how : PeerHow) (pa : Nat) : State :=
  let k := sectorKey 0 (pa / 128 * 128)
  match how.core with
  | some c => { s with promote := put s.promote k { mod := src, core := c } }
  | none => if how.rel then { s with promote := del s.promote k } else s

/-- An access of a peer to memory (R75, R79, R82, R170, R359): the filters, then the recall of a token that is out, the forwarding of a
copied line, and the promotion that an acquire or a release waits for; `k` performs it here. One that has to wait leaves the state as it
is, stays in `State.inbox` and is tried again. -/
def fabricAccess (src tid tag pa : Nat) (need : BitVec 4) (how : PeerHow) (fwd : Forwarded) (k : State → State) (s : State) :
    State :=
  incoming src tid tag s fun _ =>
    if !s.admits src pa need then s.answer src tid 0x0B []
    else
      match (if how.token && look s.tokenDir (pa / 2 ^ 21) == some src then s.migrated pa else s.away pa) with
      | .recall m r => s.recallToken m r
      | .locked => s
      | .moved ap a =>
        let same (x : Msg) : Bool := match x with | .forward _ _ f => f.src == src && f.tid == tid | _ => false
        if s.awaits same then s else s.send (.forward (ap - 0x100) a fwd)
      | .here => if s.peerPromoted how pa then k (s.peerRelease src how pa) else s

/-- FABRIC_READ: `n` bytes (R170). A poisoned sector answers 0x21 (R86). -/
def execFabricRead (src tid tag : Nat) (how : PeerHow) (pa n : Nat) (s : State) : Out :=
  .next (fabricAccess src tid tag pa (if how.token then 9#4 else 1#4) how
    { kind := 0, src := src, tid := tid, tag := tag, n := n, how := how }
    (fun s =>
      if decide (Config.memBytes ≤ pa) then (s.log (.nonexistent 0 pa)).answer src tid 0 (List.replicate n 0)
      else if s.poisoned pa n then s.answer src tid 0x21 []
      else s.answer src tid 0 (leBytes (s.rd pa n) n)) s)

/-- FABRIC_WRITE: bytes of one line, by offset from `pa` (R170). A sector that is written whole loses its poison mark, and a
partial write of a poisoned one keeps it and is logged (R86), for context 0 and as a write, since a packet carries neither a context of
this module nor an operation (DESIGN CHOICE, log entry 45). -/
def execFabricWrite (src tid tag : Nat) (how : PeerHow) (pa : Nat) (bytes : List (Nat × Byte)) (s : State) : Out :=
  .next (fabricAccess src tid tag pa (if how.token then 10#4 else 2#4) how
    { kind := 1, src := src, tid := tid, tag := tag, bytes := bytes, how := how }
    (fun s =>
      if decide (Config.memBytes ≤ pa) then (s.log (.nonexistent 0 pa)).answer src tid 0 []
      else
        let s : State := { s with mem := bytes.foldl (fun m b => Memory.setByte m (pa + b.1) b.2) s.mem }
        (s.settlePoison 0 (bytes.map (fun b => (pa + b.1, 1)))).answer src tid 0 []) s)

/-- Bytes of the result in the answer to an operation: a decay load has the stamp beside the value (R138, R142). -/
def MemOp.answerBytes (op : MemOp) (store : Bool) (w : Nat) : Nat :=
  match op with
  | .read => 32
  | .decay .dld _ => 8
  | _ => if store then 0 else w

/-- FABRIC_ATOMIC: an operation at the home atomic unit, performed once (R88, R142, R170). Its events count at the module that
issued it (R238). -/
def execFabricAtomic (src tid tag pa w : Nat) (op : MemOp × PeerHow) (data cmp : Nat) (s : State) : Out :=
  .next (fabricAccess src tid tag pa 7#4 op.2
    { kind := 2, src := src, tid := tid, tag := tag, n := w, op := op.1, data := data, cmp := cmp, how := op.2 }
    (fun s =>
      let r : Req := { instr := 0, ctx := 0, core := 0, team := 0, grp := 0, lane := 0, op := op.1, va := 0,
                       tgt := { ap := 0, pa := pa }, w := w, data := data, cmp := cmp }
      let n := op.1.answerBytes r.isStore w
      if decide (Config.memBytes ≤ pa) then (s.log (.nonexistent 0 pa)).answer src tid 0 (List.replicate n 0)
      else
        match s.perform r pa with
        | none => s.answer src tid 0x21 []
        | some p => p.s.answer src tid 0 (leBytes p.value n ++ evBytes (evClasses p.ev))) s)

/-! ### Answers to this module's requests (R71, R108, R171, R174) -/

/-- The position of the access that an outstanding request carries. -/
def State.reqOf (s : State) (o : Outst) : Option Nat := s.reqs.findIdx? (fun r => o.isFor r)

/-- Bytes of the result in the answer to an access. -/
def Req.answerBytes (r : Req) : Nat := r.op.answerBytes r.isStore r.w

/-- The answer to an access (R108): it is performed, or it is refused with the cause that the answer names. An access in doubt
that its answer completes is found so by the RESOLVE of its fault (R174). -/
def State.onAccess (s : State) (o : Outst) (status : Nat) (data : List Byte) : State :=
  match s.reqOf o with
  | some i =>
    match s.reqs[i]? with
    | none => s
    | some r =>
      if status = 0 then
        let n := r.answerBytes
        let s := s.countRx r.ctx (if o.dst = 256 then 0 else n)
        let s := s.memEvent r true ((data.drop n).map evOfByte)
        let s := if r.readOnly && r.tgt.cacheable then s.freshRead r.core r.tgt else s
        ((s.setReq i { r with state := .done (leNat (data.take n)) }).ordered r).deliverMem
      else if r.state == .sent then s.refuseReq i r (if status = 0x21 then 0x21 else 0x20) status
      else s
  | none =>
    -- a store in doubt that has moved to the side log: the answer frees its entry, or leaves it to the replay
    let mine (e : SideEntry) : Bool := e.doubt == some (o.dst, o.tid)
    { s with
      cores := s.cores.map (fun c => (c.1, { c.2 with
        slog := if status = 0 then c.2.slog.filter (fun e => !mine e)
          else c.2.slog.map (fun e => if mine e then { e with doubt := none } else e) })) }

/-- Accesses that wait for a line of a peer region fail with a cause. -/
def State.refuseLine (s : State) (ap pa status : Nat) : State :=
  (List.range s.reqs.length).foldl (fun (s : State) i =>
    match s.reqs[i]? with
    | some r =>
      if r.state == .waiting && r.tgt.c && r.tgt.ap == ap && decide (r.tgt.pa / 128 = pa / 128) then
        s.refuseReq i r (if status = 0x21 then 0x21 else 0x20) status
      else s
    | none => s) s

/-- A line of a peer region leaves its slice; a dirty one is written back (R87). -/
def State.evictLine (s : State) (key : Nat) : State :=
  match look s.peerLines key with
  | none => s
  | some dirty =>
    let s := if dirty then s.writeLine key else s
    { s with peerMem := s.peerMem.filter (fun c => c.1 / 128 != key), peerLines := del s.peerLines key }

/-- The slice that holds a line of a peer region: the one that R84 applied to its address names (R87). -/
def lineSlice (key : Nat) : Nat := let pa := key * 128 % 2 ^ 51; 16 * dieOf pa + sliceOf pa

/-- A line of a peer region arrives; it is kept while its token is held, in a slice of 24 ways and 2,048 sets that makes room for it by a
free choice (R78, R87). -/
def State.onLine (s : State) (ap pa status : Nat) (data : List Byte) : State :=
  let key := peerKey ap pa / 128
  if status != 0 then s.refuseLine ap pa status
  else if (look s.heldTokens (regionKey (ap - 0x100) (pa / 2 ^ 21))).isNone || (look s.peerLines key).isSome then s
  else
    let mine := (s.peerLines.map (·.1)).filter (fun k => lineSlice k == lineSlice key)
    let s :=
      match victim 24 1 2048 id key (Config.freeNat s.fresh) mine with
      | none => s
      | some i => ({ s with fresh := s.fresh + 1 } : State).evictLine (mine.getD i 0)
    { s with
      peerMem := Memory.write s.peerMem (key * 128) 128 (leNat (data.take 128))
      peerLines := put s.peerLines key false }

/-- The home's answer to an acquire or a release (R78, R347): code 0, 1 or 3 in its first byte. -/
def State.onToken (s : State) (release : Bool) (ctx mod region status : Nat) (data : List Byte) : State :=
  let code := (data.headD 0).toNat
  let (o, rest) := takeTokenOp release mod region s.tokenOps
  let s : State := { s with tokenOps := rest }
  let full := decide (1024 ≤ s.heldTokens.length) && (look s.heldTokens (regionKey mod region)).isNone
  let take := !release && status == 0 && code == 0
  let s :=
    if take && full then s.send (.tokenRelease ctx mod region)
    else if take then { s with heldTokens := put s.heldTokens (regionKey mod region) ctx }
    else s
  match o with
  | none => s
  | some o =>
    if status != 0 then s.tokenFault o status
    else
      let v := if release then 0 else if take && full then 2 else code
      s.updGroup o.team o.grp (fun gr => if gr.hold == some .token then { gr with hold := some (.answered v) } else gr)

/-- The token of a region given to the first acquire that waits for it, and recalled again for the next (R78). -/
def State.serveToken (s : State) (region : Nat) : State :=
  match s.tokenWait.find? (fun w => w.2.2 == region) with
  | none => s
  | some w =>
    let s : State := { s with tokenWait := s.tokenWait.erase w, tokenDir := put s.tokenDir region w.1 }
    let s := s.answer w.1 w.2.1 0 [0]
    if s.tokenWait.any (fun v => v.2.2 == region) then s.recallToken w.1 region else s

/-- The regions' frames that a recalled grant covered are free once every admitted request of the importer is performed
(R76, R77): those that a migration sent on, and acquires that wait for another holder. A recall that its importer has answered, or whose
deadline has passed, has time 0 or 1. -/
def State.settleRecalls (s : State) : State :=
  s.recalls.foldl (fun (s : State) r =>
    let mine (x : Msg) : Bool := match x with | .forward _ _ f => f.src == r.2.1 | _ => false
    if decide (2 ≤ r.2.2) || s.awaits mine || s.tokenWait.any (fun w => w.1 == r.2.1) then
      { s with recalls := s.recalls ++ [r] }
    else
      let s := if r.2.2 = 1 then s.send (.deny r.2.1) else s
      s.raise (.framesFree r.1)) { s with recalls := [] }

/-- The engines and the replays that waited for a message from outside go on (R125, R148). -/
def State.goOn (s : State) : State := s.resumeReplays.retryDone.collPump

/-- The answer to a message of this module (R171). -/
def State.onAnswer (s : State) (o : Outst) (status : Nat) (data : List Byte) : State :=
  let rx (s : State) (ctx : Nat) : State := if o.dst = 256 then s else s.countRx ctx data.length
  match o.msg with
  | .request _ _ _ => s.onAccess o status data
  | .fetchLine c ap pa => (rx s c).onLine ap pa status data
  | .engineRead _ c .. => (rx s c).engAnswer o.msg status data
  | .engineWrite .. | .completion .. | .collRecord .. => s.engAnswer o.msg status data
  | .lineCopy _ _ entry line _ => s.lineCopied entry line (status == 0)
  | .writeBack .. => s.settleReleases
  | .hostRead vf _ _ n => (rx s vf).send (.readReply vf (status == 0) (if status = 0 then data.take n else []))
  | .hostWrite vf _ pa _ => if status = 0 then s else s.log (.note 3 vf pa)
  | .tokenAcquire c mod region => s.onToken false c mod region status data
  | .tokenRelease c mod region => s.onToken true c mod region status data
  | .tokenRecall mod region =>
    if status = 0 && look s.tokenDir region == some mod then
      (({ s with tokenDir := del s.tokenDir region } : State).serveToken region).settleRecalls
    else s
  | .forward _ _ f => (s.answer f.src f.tid status data).settleRecalls
  | _ => s

/-- FABRIC_RESPONSE: the answer to an outstanding request ends it (R171), and what waited for it goes on. -/
def execFabricResponse (src tid status : Nat) (data : List Byte) (s : State) : Out :=
  match s.outst.find? (fun o => o.dst == src && o.tid == tid) with
  | none => .next s
  | some o => .next (({ s with outst := s.outst.erase o } : State).onAnswer o status data).drainWait.goOn

/-! ### Tokens at the home and at the holder (R78, R79) -/

/-- TOKEN_ACQUIRE: at the home. A request of a module with a deny entry is dropped (R75, R77). The answer's byte is 0 granted, 1 directory
full, 3 the filter does not grant C. -/
def execTokenAcquire (src tid tag region : Nat) (s : State) : Out :=
  .next (incoming src tid tag s fun _ =>
    if s.tokenWait.contains (src, tid, region) then s
    else if s.denies.contains src then s.answer src tid 0x0B []
    else if !s.admits src (region * 2 ^ 21) 8#4 || decide (Config.memBytes ≤ region * 2 ^ 21) then s.answer src tid 0 [3]
    else
      match look s.tokenDir region with
      | some h =>
        if h = src then s.answer src tid 0 [0]
        else ({ s with tokenWait := s.tokenWait ++ [(src, tid, region)] } : State).recallToken h region
      | none =>
        if 16384 ≤ s.tokenDir.length then s.answer src tid 0 [1]
        else ({ s with tokenDir := put s.tokenDir region src } : State).answer src tid 0 [0])

/-- TOKEN_RELEASE: at the home; refused as an acquire is where the filter does not grant C (R75). -/
def execTokenRelease (src tid tag region : Nat) (s : State) : Out :=
  .next (incoming src tid tag s fun _ =>
    if !s.admits src (region * 2 ^ 21) 8#4 then s.answer src tid 0x0B []
    else
      let s := s.answer src tid 0 [0]
      if look s.tokenDir region = some src then
        (({ s with tokenDir := del s.tokenDir region } : State).serveToken region).settleRecalls.goOn
      else s)

/-- TOKEN_RECALL: at the holder, which writes its dirty lines back before it answers. The fabric keeps no order, so a recall may overtake
the answer that grants the token: it then waits for that answer (DESIGN CHOICE, log entry 94). -/
def execTokenRecall (src tid tag region : Nat) (s : State) : Out :=
  .next (incoming src tid tag s fun _ =>
    let asked (m : Msg) : Bool := match m with | .tokenAcquire _ h r => h == src && r == region | _ => false
    if s.relPend.contains (0, src, region, some tid) || s.awaits asked then s
    else (s.giveUp src region).givenUp 0 src region (some tid))

/-! ### Grant messages (R75 to R77, Table 4.9) -/

/-- GRANT: sent by this module's kernel, after the filter entry is written; or received with a transaction id, for the kernel. -/
def execGrant (inc : Option Nat) (peer id base len perm : Nat) (s : State) : Out :=
  match inc with
  | some tid => .next (control peer tid s (fun s => s.raise (.message 0 peer id base len perm 0)))
  | none =>
    let kept := s.grants.filter (fun g => !(g.id == id && g.mod == peer))
    if 4096 ≤ kept.length then .next (s.raise (.grantRefused id))
    else
      let g : GrantEntry := { id := id, mod := peer, base := base, len := len, perm := BitVec.ofNat 4 perm }
      .next (({ s with grants := kept ++ [g] } : State).send (.grant peer id base len perm))

/-- GRANT_ACK. -/
def execGrantAck (inc : Option Nat) (peer id : Nat) (s : State) : Out :=
  match inc with
  | some tid => .next (control peer tid s (fun s => s.raise (.message 1 peer id 0 0 0 0)))
  | none => .next (s.send (.grantAck peer id))

/-- RECALL: sent by this module's kernel, with a deadline of 1 ms to 10 s in µs, once the tokens of the grant's regions are
here (R79); or received, for the kernel. -/
def execRecallGrant (inc : Option Nat) (peer id deadline : Nat) (s : State) : Out :=
  match inc with
  | some tid => .next (control peer tid s (fun s => s.raise (.message 2 peer id 0 0 0 deadline)))
  | none =>
    match s.grants.find? (fun g => g.id == id && g.mod == peer) with
    | none => .next s
    | some g =>
      if deadline < 1000 || 10000000 < deadline || s.recalls.any (fun r => r.1 == id && r.2.1 == peer) then .next s
      else
        match s.recallPage (g.base * 2 ^ 21) (g.len * 2 ^ 21) with
        | some s => .next s
        | none =>
          .next (({ s with recalls := s.recalls ++ [(id, peer, s.time.toNat + deadline * 1000)] } : State).send
            (.recall peer id deadline))

/-- A grant removed, and its recall waiting for the admitted requests. -/
def State.endRecall (s : State) (id peer code : Nat) : State :=
  ({ s with
    grants := s.grants.filter (fun g => !(g.id == id && g.mod == peer))
    recalls := s.recalls.map (fun r => if r.1 = id ∧ r.2.1 = peer then (id, peer, code) else r) } : State).settleRecalls

/-- RECALL_ACK: received by the exporter, which removes the grant; or sent by this module's kernel. -/
def execRecallAck (inc : Option Nat) (peer id : Nat) (s : State) : Out :=
  match inc with
  | none => .next (s.send (.recallAck peer id))
  | some tid =>
    .next (control peer tid s (fun s =>
      if s.recalls.any (fun r => r.1 == id && r.2.1 == peer && decide (2 ≤ r.2.2)) then
        (s.raise (.message 3 peer id 0 0 0 0)).endRecall id peer 0
      else s))

/-- RECALL_DEADLINE: the deny entry is written first, then the grant is removed (R77). -/
def execRecallDeadline (id : Nat) (s : State) : Out :=
  match s.recalls.find? (fun r => r.1 == id && decide (2 ≤ r.2.2) && decide (r.2.2 ≤ s.time.toNat)) with
  | none => .next s
  | some r =>
    let s : State := { s with denies := if s.denies.contains r.2.1 then s.denies else s.denies ++ [r.2.1] }
    .next (s.endRecall id r.2.1 1)

/-- DENY: received by the importer from a peer with a transaction id, for its kernel. -/
def execDeny (peer : Nat × Nat) (s : State) : Out :=
  .next (control peer.1 peer.2 s (fun s => s.raise (.message 4 peer.1 0 0 0 0 0)))

end Sys2Proof.Machine
end

