-- ==== Sys2Proof/Machine/Limbs.lean ====
section
/-!
DEFINITION. Bound limbs (14_bound_limbs.md): binding, segments as integers, carry-chain arithmetic, shifts, compare and
multiply-add over segments.
-/

namespace Sys2Proof.Machine

/-- Limbs of a segment: `%lcount`, or 1 while unbound (R270). -/
def Group.limbs (gr : Group) : Nat := if gr.lcount = 0 then 1 else gr.lcount.toNat

/-- `lbind` (R272, R273): waits until no register of the group is pending, then binds. -/
def execLbind (n : BitVec 3) (s : State) : Out :=
  withIssue s fun is tm gr =>
    let k := 2 * 2 ^ n.toNat
    if decide (tm.w < k) || tm.w % k != 0 then .next (s.trap is (illField is.mask))
    else if gr.hasPending then .next (s.holdIssue is .noPending)
    else if is.mask != tm.live is.grp || tm.lanesWhere is.grp (fun _ x => !x.exited && x.atMeet) != 0 then
      .next (s.trap is { cls := 0x06, lmask := is.mask })
    else .next ((s.updGroup is.team is.grp (fun gr => { gr with lcount := BitVec.ofNat 32 k })).retire is)

/-- `lfree` (R273): waits as `lbind` does. -/
def execLfree (s : State) : Out :=
  withIssue s fun is _ gr =>
    if gr.hasPending then .next (s.holdIssue is .noPending)
    else .next ((s.updGroup is.team is.grp (fun gr => { gr with lcount := 0 })).retire is)

/-- One segment of an issue: its first lane and its lanes that have not exited. -/
structure Seg where
  first : Nat
  n : Nat
  lanes : List Nat
deriving DecidableEq, Repr

/-- The segments of an issue that hold a lane (R270, R274). -/
def segsOf (is : Issue) (tm : Team) (n : Nat) : List Seg :=
  ((List.range (tm.w / n)).map (fun g =>
    (⟨g * n, n, ((List.range n).map (g * n + ·)).filter (fun l => is.mask.getLsbD l)⟩ : Seg))).filter (fun x => !x.lanes.isEmpty)

/-- The value of a register in a segment: the limbs of exited threads read 0 (R270). -/
def Seg.value (k : Snap) (x : Seg) (r : Nat) : Nat :=
  x.lanes.foldl (fun a l => a + (k.vec l r).toNat * 2 ^ (32 * (l - x.first))) 0

/-- The register writes of a segment value, in the lanes that have not exited (R270). -/
def Seg.writes (x : Seg) (r v : Nat) : List (RegRef × Word) :=
  x.lanes.map (fun l => (.v l r, BitVec.ofNat 32 (v / 2 ^ (32 * (l - x.first)))))

/-- A predicate written in every lane of a segment (R274). -/
def Seg.pred (x : Seg) (p : Nat) (b : Bool) : List (RegRef × Word) := x.lanes.map (fun l => (.p l p, if b then 1 else 0))

/-- A limb operation (R274): the checks at issue, the register range, then segment by segment. `off` gives the writes of a
segment whose guard reads 0. -/
def execLimb (g : Nat) (regs : List Src) (bad : Issue → Team → Nat → Bool)
    (f : Issue → Seg → Bool → List (RegRef × Word)) (s : State) : Out :=
  withIssue s fun is tm gr =>
    let m := is.guarded g
    let n := gr.limbs
    let segs := segsOf is tm n
    if bad is tm n then .next (s.trap is (illField m))
    else if !regs.all (Src.inRange tm.nv tm.ns) then .next (s.trap is { regRange with lmask := m })
    else if segs.any (fun x => !allSame (x.lanes.map (fun l => m.getLsbD l))) then .next (s.trap is { cls := 0x06, lmask := m })
    else
      let ws := segs.map (fun x => f is x (m.getLsbD (x.lanes.headD 0)))
      .next ((s.giveResults is false ws).retire is)

/-- No check of its own at issue. -/
def noCheck (_ : Issue) (_ : Team) (_ : Nat) : Bool := false

/-- The operations of Table 14.1. -/
inductive Carry where
  | add | adc | sub | sbc | neg | carry
deriving DecidableEq, Repr

/-- The exact result of Table 14.1 on unsigned or signed operands. -/
def Carry.exact (op : Carry) (a b : Int) (ci : Bool) : Int :=
  let i : Int := if ci then 1 else 0
  match op with
  | .add => a + b
  | .adc => a + b + i
  | .sub => a - b
  | .sbc => a - b - i
  | .neg => -a
  | .carry => a + b * 2 ^ 32

/-- The carry or borrow out (Table 14.1). -/
def Carry.out (op : Carry) (n : Nat) (a : Int) (t : Int) : Bool :=
  match op with
  | .add | .adc | .carry => decide (((2 : Int) ^ (32 * n)) ≤ t)
  | .sub | .sbc => decide (t < 0)
  | .neg => decide (a ≠ 0)

/-- Carry-chain arithmetic (R276): `pci`, `pco` and `pov` are predicate numbers; `pov` 0 reports nothing. -/
def execCarry (op : Carry) (g d a b pci pco pov : Nat) (s : State) : Out :=
  let regs : List Src := [.v d, .v a] ++ (if op = .neg then [] else [.v b])
  execLimb g regs noCheck (fun is x on =>
    if !on then []
    else
      let A := x.value is.snap a
      let B := if op = .neg then 0 else x.value is.snap b
      let ci := is.snap.pred (x.lanes.headD 0) pci
      let t := op.exact A B ci
      let sgn (v : Nat) : Int := intVal true (32 * x.n) v
      let ov := !inRange true (32 * x.n) (op.exact (sgn A) (sgn B) ci)
      x.writes d (wrapNat (32 * x.n) t) ++ x.pred pco (op.out x.n A t)
        ++ (if op = .carry then [] else x.pred pov ov)) s

/-- The SR form: carry in and out in p3, no overflow. -/
def execCarrySr (op : Carry) (g : BitVec 2) (d a b : BitVec 6) (s : State) : Out :=
  execCarry op g.toNat d.toNat a.toNat b.toNat 3 3 0 s

/-- The LR form: pci in c[6:4], pco in c[2:0], pov in RM. -/
def execCarryL (op : Carry) (o : LR) (s : State) : Out :=
  execCarry op o.g.toNat o.d.toNat o.a.toNat o.b.toNat (o.c.toNat / 16 % 8) (o.c.toNat % 8) o.rm.toNat s

/-- `ladd` SR. -/
def execLaddSr (g : BitVec 2) (d a b : BitVec 6) (s : State) : Out := execCarrySr .add g d a b s
/-- `ladd` LR. -/
def execLaddL (o : LR) (s : State) : Out := execCarryL .add o s
/-- `ladc` SR. -/
def execLadcSr (g : BitVec 2) (d a b : BitVec 6) (s : State) : Out := execCarrySr .adc g d a b s
/-- `ladc` LR. -/
def execLadcL (o : LR) (s : State) : Out := execCarryL .adc o s
/-- `lsub` SR. -/
def execLsubSr (g : BitVec 2) (d a b : BitVec 6) (s : State) : Out := execCarrySr .sub g d a b s
/-- `lsub` LR. -/
def execLsubL (o : LR) (s : State) : Out := execCarryL .sub o s
/-- `lsbc` SR. -/
def execLsbcSr (g : BitVec 2) (d a b : BitVec 6) (s : State) : Out := execCarrySr .sbc g d a b s
/-- `lsbc` LR. -/
def execLsbcL (o : LR) (s : State) : Out := execCarryL .sbc o s
/-- `lneg` SR. -/
def execLnegSr (g : BitVec 2) (d a : BitVec 6) (s : State) : Out := execCarrySr .neg g d a 0 s
/-- `lneg` LR. -/
def execLnegL (o : LR) (s : State) : Out := execCarryL .neg o s
/-- `lcarry` SR. -/
def execLcarrySr (g : BitVec 2) (d a b : BitVec 6) (s : State) : Out := execCarrySr .carry g d a b s
/-- `lcarry` LR. -/
def execLcarryL (o : LR) (s : State) : Out := execCarryL .carry o s

/-- Where a shift count comes from (R277). -/
inductive Count where
  | vec (r : Nat)
  | sca (r : Nat)
  | imm (k : Nat)
deriving DecidableEq, Repr

/-- The registers of a count. -/
def Count.srcs : Count → List Src
  | .vec r => [.v r]
  | .sca r => [.s r]
  | .imm _ => []

/-- The count of a segment: lane 0 is read as it stands (R277). -/
def Count.value (k : Snap) (x : Seg) : Count → Nat
  | .vec r => (k.vec x.first r).toNat
  | .sca r => (k.sca r).toNat
  | .imm n => n

/-- The shifted segment (R277): `left`, the fill `F`, or with `sign` the arithmetic right shift. -/
def limbShift (left sign : Bool) (n A F k : Nat) : Nat :=
  if left then (if 64 * n ≤ k then 0 else (A * 2 ^ (32 * n) + F) * 2 ^ k / 2 ^ (32 * n) % 2 ^ (32 * n))
  else if sign then wrapNat (32 * n) (intVal true (32 * n) A / 2 ^ (min k (32 * n - 1)))
  else if 64 * n ≤ k then 0
  else (F * 2 ^ (32 * n) + A) / 2 ^ k % 2 ^ (32 * n)

/-- `lshl` and `lshr` (R277). -/
def execLimbShift (left sign : Bool) (g d a : Nat) (k : Count) (fill : Option Nat) (s : State) : Out :=
  let regs : List Src := [.v d, .v a] ++ k.srcs ++ (match fill with | some f => [.v f] | none => [])
  execLimb g regs noCheck (fun is x on =>
    if !on then []
    else
      let F := match fill with | some f => x.value is.snap f | none => 0
      x.writes d (limbShift left sign x.n (x.value is.snap a) F (k.value is.snap x))) s

/-- The LR form of a limb shift. -/
def execLimbShiftL (left : Bool) (o : LR) (s : State) : Out :=
  execLimbShift left (o.t1 == 2) o.g.toNat o.d.toNat o.a.toNat (if o.kb then .sca o.b.toNat else .vec o.b.toNat)
    (if o.x then some o.c.toNat else none) s

/-- `lshl` SR. -/
def execLshlSr (g : BitVec 2) (d a b : BitVec 6) (s : State) : Out :=
  execLimbShift true false g.toNat d.toNat a.toNat (.vec b.toNat) none s
/-- `lshl` SI. -/
def execLshlSi (g : BitVec 2) (d a k : BitVec 6) (s : State) : Out :=
  execLimbShift true false g.toNat d.toNat a.toNat (.imm k.toNat) none s
/-- `lshl` LR. -/
def execLshlL (o : LR) (s : State) : Out := execLimbShiftL true o s
/-- `lshr` SR. -/
def execLshrSr (g : BitVec 2) (d a b : BitVec 6) (s : State) : Out :=
  execLimbShift false false g.toNat d.toNat a.toNat (.vec b.toNat) none s
/-- `lshr` SI. -/
def execLshrSi (g : BitVec 2) (d a k : BitVec 6) (s : State) : Out :=
  execLimbShift false false g.toNat d.toNat a.toNat (.imm k.toNat) none s
/-- `lshr` LR. -/
def execLshrL (o : LR) (s : State) : Out := execLimbShiftL false o s

/-- `lcmp` (R278): the pair of predicates of each segment, as Table 3.5 combines them. -/
def execLcmp (g code p1 p2 a b cond : Nat) (signed : Bool) (s : State) : Out :=
  execLimb g [.v a, .v b] noCheck (fun is x on =>
    let val (r : Nat) : Int := intVal signed (32 * x.n) (x.value is.snap r)
    let c := intCond cond (val a) (val b)
    x.lanes.flatMap (fun l => predWrites l p1 p2 (combine code on c (is.snap.pred l p1) (is.snap.pred l p2)))) s

/-- `lcmp.lt` SC. -/
def execLcmpSc (g : BitVec 2) (t : BitVec 3) (q : BitVec 2) (w : BitVec 1) (a b : BitVec 6) (s : State) : Out :=
  execLcmp g.toNat t.toNat (scPair q w).1 (scPair q w).2 a.toNat b.toNat 2 false s
/-- `lcmp` LR. -/
def execLcmpL (o : LR) (s : State) : Out :=
  execLcmp o.g.toNat o.rm.toNat (lrPair o.d).1 (lrPair o.d).2 o.a.toNat o.b.toNat o.t2.toNat (o.t1 == 2) s

/-- `lmad` (R279): the multiplier limb j of each segment, or a scalar. -/
def execLmadL (o : LR) (s : State) : Out :=
  let d := o.d.toNat; let a := o.a.toNat; let b := o.b.toNat; let c := o.c.toNat
  let j := o.t2.toNat % 8 * 8 + o.rm.toNat
  execLimb o.g.toNat [.v d, .v a, if o.kb then .s b else .v b, .v c] (fun _ _ n => decide (max n 1 ≤ j) || (o.kb && j != 0))
    (fun is x on =>
      if !on then []
      else
        let m := if o.kb then (is.snap.sca b).toNat else (is.snap.vec (x.first + j) b).toNat
        let t := x.value is.snap d + x.value is.snap a * m
        x.writes d (t % 2 ^ (32 * x.n)) ++ x.writes c (t / 2 ^ (32 * x.n))) s

end Sys2Proof.Machine
end

