-- ==== Sys2Proof/Machine/Links.lean ====
section
/-!
DEFINITION. Ports, lanes, routes that go and come back, and the pod's shape (R164 to R166, R173 to R177).
-/

namespace Sys2Proof.Machine

/-- A port enters a state, and the module kernel is told (R173). -/
def State.portState (s : State) (p st : Nat) : State :=
  if (s.port p).st = st then s
  else (s.updPort p (fun x => { x with st := st, since := s.time })).raise (.port p st)

/-! ### Requests when a route goes or comes back (R174) -/

/-- The requester of a message that is not sent, or that has no route left, is told so: `cause` is GRANT_DENIED (R172) or
PEER_UNREACHABLE (R174). `left`: it had been sent, and is in doubt; an engine finds that out of the record. What no program waits for is
told the module kernel; a heartbeat and an abort say nothing. A release that never left leaves the token here. -/
def State.requesterFails (s : State) (left : Bool) (cause : Nat) (m : Msg) : State :=
  let token (release : Bool) (mod region : Nat) : State :=
    let (o, rest) := takeTokenOp release mod region s.tokenOps
    match o with
    | some o => ({ s with tokenOps := if left then s.tokenOps else rest } : State).tokenFault o cause left
    | none => s
  match m with
  | .request _ _ a =>
    match s.reqs.findIdx? (fun r => a.instr == r.instr && a.lane == r.lane && a.core == r.core && a.tgt.pa == r.tgt.pa) with
    | some i =>
      match s.reqs[i]? with
      | some r => if r.state == .sent then s.refuseReq i r 0x20 cause else s
      | none => s
    | none => s
  | .fetchLine _ ap pa => s.refuseLine ap pa cause
  | .tokenAcquire _ mod region => token false mod region
  | .tokenRelease c mod region => if left then token true mod region else s.releaseFails c mod region cause
  | .hostRead vf .. => s.send (.readReply vf false [])
  | .hostWrite vf _ pa _ => if left then s else s.log (.note 3 vf pa)
  | .forward _ _ f => if left then s else (s.answer f.src f.tid cause []).settleRecalls
  | .lineCopy _ _ entry line _ => if left then s else s.lineCopied entry line false
  | .grant .. | .grantAck .. | .recall .. | .recallAck .. | .deny _ | .migrate .. => s.raise (.unreachable m)
  | m => if left then s else s.engAnswer m cause []

/-- Whether a message that waits at the source ends at once where it may not be sent (R172, R174). Two kinds wait on: a write-back, whose
bytes would be lost and which has no requester of its own, and the home's recall of a token, which its hub makes until it is answered
(DESIGN CHOICE, log entry 60). -/
def Msg.fails : Msg → Bool
  | .writeBack .. | .tokenRecall .. | .response .. => false
  | _ => true

/-- Requests of a context that has lost its domain tag are not sent (R172): those that wait end with GRANT_DENIED, and so do those that were
to be sent again and are not in doubt yet. -/
def State.tagLost (s : State) : State :=
  let lost (o : Outst) : Bool := o.dst != 256 && o.port.isNone && !o.doubt && s.untagged o.msg
  let s := (s.outst.filter lost).foldl (fun (s : State) o => s.requesterFails true 0x0B o.msg)
    { s with outst := s.outst.map (fun o => if lost o then { o with doubt := true } else o) }
  s.waitQ.foldl (fun (s : State) w =>
    if w.dst != 256 && w.msg.isRequest && s.untagged w.msg && w.msg.fails then s.requesterFails false 0x0B w.msg
    else { s with waitQ := s.waitQ ++ [w] }) { s with waitQ := [] }

/-- After routes have gone: what was sent on a dead route and has no response goes out again on a live one, requests with the same id and
responses from the record; where none is left requests are in doubt, and their requesters fail, as do those that wait at the source
(R174). -/
def State.reroute (s : State) : State :=
  let dead (d : Nat) (port via : Option Nat) : Bool :=
    match port with | some p => !(s.routes d).contains (p, via) | none => false
  let old := s.answered.filter (fun a => dead a.src a.port a.via)
  let s : State :=
    { s with
      outst := s.outst.map (fun o => if o.dst != 256 && dead o.dst o.port o.via then { o with port := none, via := none } else o)
      answered := s.answered.map (fun a => if dead a.src a.port a.via then { a with port := none, via := none } else a) }
  let s := old.foldl (fun (s : State) a => s.send (.response a.src a.tid a.status a.data)) s.resend
  let gone (o : Outst) : Bool := o.dst != 256 && o.port.isNone && !o.doubt && (s.routes o.dst).isEmpty
  let s := (s.outst.filter gone).foldl (fun (s : State) o => s.requesterFails true 0x0C o.msg)
    { s with outst := s.outst.map (fun o => if gone o then { o with doubt := true } else o) }
  let s := s.tagLost
  let s := s.waitQ.foldl (fun (s : State) w =>
    let turns := match w.msg with | .transit .. => true | _ => false
    if turns then (if s.hopOk w.dst then { s with waitQ := s.waitQ ++ [w] } else s)
    else if w.dst != 256 && w.msg.link.isNone && (s.routes w.dst).isEmpty && w.msg.fails then s.requesterFails false 0x0C w.msg
    else { s with waitQ := s.waitQ ++ [w] }) { s with waitQ := [] }
  (List.range 256).foldl (fun (s : State) m =>
    if m != s.modId.toNat && s.inPod m && (s.routes m).isEmpty then s.flowLost m else s) s

/-- A link that has left service, as this hub now knows. -/
def State.linkLost (s : State) (a b : Nat) : State :=
  if s.badLinks.contains (a, b) || s.badLinks.contains (b, a) then s
  else { s with badLinks := s.badLinks ++ [(a, b)] }.reroute

/-- A link that is back in service: requests in doubt are sent again first, with their ids, then what waits (R174). A report that it had
gone is not sent any more. -/
def State.linkBack (s : State) (a b : Nat) : State :=
  let old (w : Wait) : Bool := match w.msg with | .routeChange _ x y => (x == a && y == b) || (x == b && y == a) | _ => false
  { s with
    badLinks := s.badLinks.filter (fun l => l != (a, b) && l != (b, a))
    waitQ := s.waitQ.filter (fun w => !old w) }.drainWait

/-- A port that carries traffic leaves service (R173, R174): DOWN, a pending swap abandoned, a DOWN flit on the link, the
change told to every module of the pod, and the requests that used it sent on other routes. -/
def State.portLeaves (s : State) (p : Nat) : State :=
  if !(s.port p).up then s
  else
    let self := s.modId.toNat
    let peer := portPeer self p
    let s := ((s.send (.flit p 1 0 0)).portState p 0).updPort p (fun x =>
      { x with shift := none, replay := (0, 0), buf := [], acked := x.seq })
    let s := s.linkLost self peer
    (List.range 256).foldl (fun (s : State) m =>
      if m != self && s.inPod m then s.send (.routeChange m self peer) else s) s

/-- PORT_DOWN: the port leaves service at this end (R174). -/
def execPortDown (port : Nat) (s : State) : Out := .next (s.portLeaves port).goOn

/-- DOWN_FLIT: the far end has left service (R173). -/
def execDownFlit (port : Nat) (s : State) : Out := .next (s.portLeaves port).goOn

/-- LINK_SILENCE: no valid flit for 10 µs (R173). -/
def execLinkSilence (port : Nat) (s : State) : Out :=
  .next (if decide ((s.time - (s.port port).heard).toNat < 10000) then s else (s.portLeaves port).goOn)

/-- The number after the last flit of a buffered packet. -/
def bufEnd (b : Nat × Packet) : Nat := (b.1 + b.2.msg.flits) % 2 ^ 32

/-- FLIT_REPLAY_REQUEST: the far end asks for flits again from a sequence number, and they are sent again out of the replay buffer. Each
request after the first for one flit is a replay of it that failed; the sixteenth takes the port down (R166, R173). -/
def execFlitReplayRequest (port seq : Nat) (s : State) : Out :=
  let p := s.port port
  if !p.up then .next s
  else
    let n := if p.replay.1 = seq then p.replay.2 + 1 else 1
    let s := s.updPort port (fun x => { x with replay := (seq, n), retry := min (x.retry + 1) 0xFFFF })
    if 17 ≤ n then .next (s.portLeaves port).goOn
    else
      let again := (p.buf.filter (fun b => !reached seq (bufEnd b))).map (fun b => ({ b.2 with ack := p.rseq } : Packet))
      .next { s with outbox := s.outbox ++ again }

/-- Idle flits leave a port, and the far end's cumulative acknowledgement comes: the flits before `ack` leave the replay buffer (R166). -/
def State.flitsOut (s : State) (port n ack : Nat) : State :=
  let p := s.port port
  if !p.up then s
  else
    let good := reached ack p.acked && reached p.seq ack
    let done := if good then ack else p.acked
    let room := 4096 - (p.seq + 2 ^ 32 - done) % 2 ^ 32
    (s.updPort port (fun x =>
      { x.sends (min n room) with acked := done, buf := x.buf.filter (fun b => !reached done (bufEnd b)) })).drainWait

/-- Whether a flit of the far end is taken (R166): the next one in sequence, intact. One that another ran ahead of comes again. -/
def State.takesFlit (s : State) (port seq : Nat) (good : Bool) : Bool := (s.port port).up && good && seq == (s.port port).rseq

/-- A flit of the far end arrives (R166): the next one is taken, and for one that fails its CRC a resend is asked for. -/
def State.flitIn (s : State) (port seq : Nat) (good : Bool) : State :=
  let p := s.port port
  if !p.up then s
  else if !good then s.send (.flit port 0 p.rseq 0)
  else if seq == p.rseq then
    s.updPort port (fun x => ({ x with rseq := (x.rseq + 1) % 2 ^ 32, heard := s.time } : Port).turn)
  else s.updPort port (fun x => { x with heard := s.time })

/-- A credit of a channel of a port comes back (R168). -/
def State.credit (s : State) (port chan : Nat) : State :=
  (s.updPort port (fun p => { p with credits := setAt p.credits chan (min Config.credits (p.credits.getD chan 0 + 1)) })).drainWait

/-- A packet of another module for a third one turns here, onto its second hop (R167); without that hop it is lost, and its source sends
it again (R174). -/
def State.turn (s : State) (src dst : Nat) (response : Bool) (body : List Byte) : State :=
  if s.hopOk dst then s.send (.transit src dst response body) else s

/-- A DOWN port starts training, and the far end with it (R173): training has a handshake of its own, which needs no flit numbers. -/
def State.retrain (s : State) (port : Nat) : State :=
  if (s.port port).st == 0 && decide (port < 30) then (s.portState port 1).emit { msg := .flit port 4 0 0 } else s

/-- The far end of a DOWN port has started training: TRAINING is entered by both ends together (R173). -/
def State.trainsToo (s : State) (port : Nat) : State :=
  if (s.port port).st == 0 && decide (port < 30) then s.portState port 1 else s

/-- RETRAIN_TIMER: a port that has been DOWN for 100 ms trains again (R173). -/
def execRetrainTimer (port : Nat) (s : State) : Out :=
  let p := s.port port
  .next (if decide (100000000 ≤ (s.time - p.since).toNat) then s.retrain port else s)

/-- TRAINING_COMPLETE: with four or five good lanes the port is UP, with three NARROW; with fewer training has failed (R173,
R176). The lanes are mapped afresh. -/
def execTrainingComplete (port : Nat) (good : List Nat) (s : State) : Out :=
  let p := s.port port
  if p.st != 1 then .next s
  else
    let ls := (List.range 5).filter (fun l => good.contains l)
    if ls.length < 3 then .next (s.portState port 0)
    else
      let s := s.portState port (if ls.length = 3 then 3 else 2)
      let s := s.updPort port (fun x =>
        { x with
          lmap := laneMap (ls.take 4), rmap := laneMap (ls.take 4), heard := s.time, bad := (List.range 5).filter (fun l => !ls.contains l)
          win := [0, 0, 0, 0, 0], spareUsed := decide (ls.length < 5), shift := none, replay := (0, 0)
          seq := 0, acked := 0, rseq := 0, buf := [], credits := List.replicate 4 Config.credits })
      .next (s.linkBack s.modId.toNat (portPeer s.modId.toNat port)).goOn

/-- ROUTE_CHANGE_BROADCAST: another hub reports a link out of service (R174). -/
def execRouteChangeBroadcast (src tid a b : Nat) (s : State) : Out :=
  .next (incoming src tid 0 s (fun _ => ((s.linkLost a b).answer src tid 0 []).goOn))

/-- ROUTE_RESTORED: a link is back in service, as this hub learns (R174). -/
def execRouteRestored (a b : Nat) (s : State) : Out := .next (s.linkBack a b).goOn

/-! ### Lanes (R175, R176) -/

/-- The physical lanes that carry traffic. -/
def Port.active (p : Port) : List Nat := (mapLanes p.lmap).filter (· != 7)

/-- Whether a lane is weak now (R175): two windows above 10^−5, or a margin below 15%. -/
def Port.weakLane (p : Port) (l : Nat) : Bool :=
  decide (2 ≤ p.win.getD l 0) || (match p.margins.getD l none with | some m => decide (m < 15) | none => false)

/-- The spare lane, where it is unused. -/
def Port.spare (p : Port) : Option Nat :=
  if p.spareUsed then none else (List.range 5).find? (fun l => !p.active.contains l && !p.bad.contains l)

/-- What takes a lane's place (R176): the unused spare, or nothing. -/
def Port.takes (p : Port) : Nat := p.spare.getD 7

/-- A weak active lane is swapped for the spare, or dropped at an agreed flit number where that is in use; in NARROW it takes the port down
(R176). With an unused spare that is weak itself neither is asked for, and the lane stays (DESIGN CHOICE, log entry 100). -/
def State.laneCheck (s : State) (port : Nat) : State :=
  let p := s.port port
  if !p.up || p.shift.isSome then s
  else
    match p.active.find? p.weakLane with
    | none => s
    | some l =>
      if p.st == 3 then s.portLeaves port
      else if p.spare.any p.weakLane then s
      else
        let n := (p.seq + 256) % 2 ^ 32
        (s.updPort port (fun x => { x with shift := some { lane := l, to_ := p.takes, n := n, tries := 1, at_ := s.time } })).send
          (.flit port 2 l n)

/-- LANE_SAMPLE: of a lane, the error ratio `high` of a window in units of 10^−9, or with `eye` the margin in percent (R175). -/
def execLaneSample (port lane : Nat) (eye : Bool) (high margin : Nat) (s : State) : Out :=
  if 5 ≤ lane then .next s
  else
    let s := s.updPort port (fun p =>
      if eye then { p with margins := setAt p.margins lane (some (margin % 256)) }
      else { p with ratio := setAt p.ratio lane high, win := setAt p.win lane (if 10000 < high then p.win.getD lane 0 + 1 else 0) })
    .next (s.laneCheck port).goOn

/-- SHIFT: the far end names a lane and a flit number; where both ends have sent one, that of the lower module id stands
(R176). What takes the lane's place is settled here, from what both ends know. -/
def execShift (port lane n : Nat) (s : State) : Out :=
  let p := s.port port
  let mine := p.shift.any (fun x => x.n'.isNone && decide (1 ≤ x.tries))
  if !p.up || p.shift.any (·.n'.isSome) || (mine && decide (s.modId.toNat < portPeer s.modId.toNat port)) then .next s
  else
    let n' := (p.seq + 256) % 2 ^ 32
    let s := s.updPort port (fun x => { x with shift := some { lane := lane, to_ := p.takes, n := n, n' := some n', tries := 0, at_ := s.time } })
    .next (s.send (.flit port 3 n n'))

/-- SHIFT_ACK: the far end agrees on flit numbers N and N' (R176). -/
def execShiftAck (port n m : Nat) (s : State) : Out :=
  match (s.port port).shift with
  | some x =>
    if x.n = n && x.n'.isNone then .next (s.updPort port (fun p => ({ p with shift := some { x with n' := some m } } : Port).turn))
    else .next s
  | none => .next s

/-- SHIFT_ACK_TIMEOUT: after 100 µs SHIFT is sent again; after three attempts the port goes down (R176). -/
def execShiftAckTimeout (port : Nat) (s : State) : Out :=
  match (s.port port).shift with
  | some x =>
    if x.n'.isSome || decide ((s.time - x.at_).toNat < 100000) then .next s
    else if 3 ≤ x.tries then .next (s.portLeaves port).goOn
    else
      .next ((s.updPort port (fun p => { p with shift := some { x with tries := x.tries + 1, at_ := s.time } })).send
        (.flit port 2 x.lane x.n))
  | none => .next s

/-- LANE_MAP_SWITCH: each direction has come to its agreed flit and travels on the new map since (`Port.turn`), and the swap is over: the
spare is in use, or the port has dropped the lane and is NARROW (R176). The other lanes are then judged again. -/
def execLaneMapSwitch (port : Nat) (s : State) : Out :=
  let p := s.port port
  match p.shift with
  | some x =>
    if !p.up || !x.sent || !x.taken then .next s
    else
      let s := s.updPort port (fun p => { p with shift := none, bad := x.lane :: p.bad, spareUsed := p.spareUsed || x.to_ != 7 })
      .next ((if x.to_ = 7 then s.portState port 3 else s).laneCheck port).goOn
  | none => .next s

/-! ### Time messages (R324) -/

/-- A sync message leaves on a port, and the follow-up with the time at which it left: two-step time stamps (R324). -/
def State.ptpSync (s : State) (port : Nat) : State :=
  if (s.port port).up then (s.send (.ptp port .sync)).send (.ptp port (.followUp s.time)) else s

/-- PTP_MESSAGE: a message of the exchange arrives on a port; event messages are time-stamped (R324). A delay request is answered with the
time of its arrival on any port; the port toward the time source, which the module kernel chooses, gives this module's offset: half of what
the sync seems to have taken less half of what the request has, in place of what was still to be removed (log entry 101). -/
def execPtpMessage (port : Nat) (kind : PtpMsg) (s : State) : Out :=
  let source := s.ptp.port == some port
  match kind with
  | .delayReq => .next (s.send (.ptp port (.delayResp s.time)))
  | .sync => .next (if source then { s with ptp := { s.ptp with t1 := none, t2 := some s.time, t3 := none } } else s)
  | .followUp t1 =>
    if !source || s.ptp.t2.isNone then .next s
    else .next (({ s with ptp := { s.ptp with t1 := some t1, t3 := some s.time } } : State).send (.ptp port .delayReq))
  | .delayResp t4 =>
    match s.ptp.t1, s.ptp.t2, s.ptp.t3 with
    | some t1, some t2, some t3 =>
      if !source then .next s
      else
        let there := (t2 - t1).toInt
        let back := (t4 - t3).toInt
        .next { s with ptp := { s.ptp with t1 := none, t2 := none, t3 := none, offset := (back - there) / 2 } }
    | _, _, _ => .next s

/-- Nanoseconds that the counter goes on while the oscillator counts `ns`: the offset is removed by at most 500 in 10^6 of them, and the
counter never runs backward (R324). What has been used of the bound, and what is left of the offset, go with it. -/
def PtpClock.pass (p : PtpClock) (ns : Nat) : Nat × PtpClock :=
  let most := (p.part + ns) / 2000
  let d : Int := max (-(most : Int)) (min (most : Int) p.offset)
  (((ns : Int) + d).toNat, { p with offset := p.offset - d, part := (p.part + ns) % 2000 })

/-- WEAK and MARGIN of the port status register (Table 9.3): the lane of a pending swap, else the least weak one; and the worst margin
measured. -/
def Port.weakNow (p : Port) : Nat :=
  match p.shift with | some x => x.lane | none => ((List.range 5).find? p.weakLane).getD 7
def Port.worst (p : Port) : Nat :=
  match p.margins.filterMap id with | [] => 0 | m :: ms => ms.foldl min m

/-- The port status register (Table 9.3). -/
def State.portStatus (s : State) (p : Nat) : DWord :=
  let x := s.port p
  BitVec.ofNat 64 (x.retry * 2 ^ 48 + portPeer s.modId.toNat p * 2 ^ 40 + x.lmap.toNat * 2 ^ 20 + x.weakNow * 2 ^ 17
    + (if x.shift.isSome then 2 ^ 16 else 0) + x.worst * 2 ^ 8 + x.st)

/-- POD_WRITE: the pod's shape and this module's place in it; ports that face no module are HELD (R164, R173). -/
def execPodWrite (rows cols row col : Nat) (s : State) : Out :=
  if rows = 0 || 16 < rows || cols = 0 || 16 < cols || 16 ≤ row || 16 ≤ col then .next s
  else
    let s : State := { s with podRows := rows, podCols := cols, modId := BitVec.ofNat 8 (16 * row + col) }
    .next ((List.range 30).foldl (fun (s : State) p =>
      if !s.inPod (portPeer s.modId.toNat p) then (if (s.port p).up then s.portLeaves p else s).portState p 4
      else if (s.port p).st = 4 then s.portState p 0
      else s) s)

end Sys2Proof.Machine
end

