-- ==== Sys2Proof/Machine/Narrow.lean ====
section
/-!
DEFINITION. The narrow instructions `dot4`, `dot8`, `qpack` and `qunpk` (R233, R258 to R261).
-/

namespace Sys2Proof.Machine

/-- An element format of the narrow instructions: integer or floating, with its width in bits (Table 13.8). -/
inductive Elem where
  | int (signed : Bool) (n : Nat)
  | flt (f : FFmt)
deriving DecidableEq, Repr

/-- Element type code for 8-bit (`four = false`) or 4-bit elements. -/
def Elem.of (four : Bool) (t : Nat) : Elem :=
  match t with
  | 0 => .int true (if four then 4 else 8)
  | 4 => .int false (if four then 4 else 8)
  | t => .flt (fmtOf t)

def Elem.isInt : Elem → Bool
  | .int _ _ => true
  | .flt _ => false

/-- Element `i` of a packed register, `n` bits wide (R225). -/
def elemBits (n i : Nat) (x : Nat) : Nat := x / 2 ^ (n * i) % 2 ^ n

/-- The exact value of element `i` (an integer as an exact value). -/
def Elem.val (e : Elem) (n i : Nat) (x : Nat) : FV :=
  let c := elemBits n i x
  match e with
  | .int sg w => FV.ofInt (intVal sg w c)
  | .flt f => f.decode c

/-- The scale exponent that lane `l` uses: byte `k` of register `q` in the lead lane of its block of `L` lanes, or none
for the NaN code (R233). -/
def laneScale (k : Snap) (q byte L l : Nat) : Option Int :=
  e8m0 (elemBits 8 byte (k.vec (L * (l / L)) q).toNat)

/-- The dot product of one lane (R259). `n` is the element width, `32 / n` the number of elements. -/
def opDot (n : Nat) (ta tb : Nat) (mode : RMode) (sat : Bool) (scales : Option (Option Int × Option Int))
    (a b d : Nat) : Res :=
  let m := 32 / n
  let ea := Elem.of (n == 4) ta
  let eb := Elem.of (n == 4) tb
  match scales, ea, eb with
  | none, .int sa wa, .int sb wb =>
    let sum := ((List.range m).map (fun i =>
      intVal sa wa (elemBits n i a) * intVal sb wb (elemBits n i b))).foldl (· + ·) (intVal true 32 d)
    tI32.fit sat sum
  | _, _, _ =>
    let xa (v : FV) : FV := match scales with | none => v | some s => expand v s.1
    let xb (v : FV) : FV := match scales with | none => v | some s => expand v s.2
    let ps := (List.range m).map (fun i => (xa (ea.val n i a)).mul (xb (eb.val n i b)))
    let r := sumFV mode (ps.any (·.2)) (fp32.decode d :: ps.map (·.1))
    fp32.give mode sat r.1 r.2

/-- SR dot products: signed integer elements, unscaled, wrapping. -/
def dotSR (n : Nat) (g : BitVec 2) (d a b : BitVec 6) (s : State) : Out :=
  execReg g.toNat false (.v d.toNat) [.v a.toNat, .v b.toNat, .v d.toNat]
    (fun xs => opDot n 0 0 .rn false none ((opnd xs 0).toNat) ((opnd xs 1).toNat) ((opnd xs 2).toNat)) s

/-- LR dot products: with X = 1, a's scales in v(q) byte k and b's in v(q+1) byte k, c = 4·(q/4) + k (R258). -/
def dotLR (n : Nat) (o : LR) (s : State) : Out :=
  let q := 4 * (o.c.toNat / 4)
  let k := o.c.toNat % 4
  let L := if n = 4 then 4 else 8
  execLanesOp (fun is => is.guarded o.g.toNat) false (.v o.d.toNat)
    ([.v o.a.toNat, .v o.b.toNat, .v o.d.toNat] ++ (if o.x then [.v q, .v (q + 1)] else []))
    (fun s is tm l xs =>
      let sc := if o.x then some (laneScale is.snap q k L l, laneScale is.snap (q + 1) k L l) else none
      opDot n o.t1.toNat o.t2.toNat (rmode s is tm l 0 o.rm.toNat) o.sat sc ((opnd xs 0).toNat) ((opnd xs 1).toNat)
        ((opnd xs 2).toNat)) s

/-- The narrowing of one value into an element (R260): its bits and events. -/
def narrowTo (e : Elem) (mode : RMode) (sat : Bool) (v : FV) : Nat × List Ev :=
  match e with
  | .int sg w =>
    let r := toIntClamp mode sat sg w v
    (wrapNat w r.1, r.2)
  | .flt f =>
    let r := f.round mode sat v
    (r.code, r.ev)

/-- `qpack` of one lane: n values divided exactly by the scale, narrowed and packed, with each one's events (R238, R260). -/
def opQpack (n : Nat) (e : Elem) (mode : Nat → RMode) (sat : Bool) (scale : Option (Option Int)) (xs : List DWord) :
    DWord × List (List Ev) :=
  let one (i : Nat) : Nat × List Ev :=
    let v := fp32.val (opnd xs i)
    let v := match scale with | none => v | some none => .nan | some (some k) => v.scale (-k)
    narrowTo e (mode i) sat v
  let rs := (List.range (32 / n)).map (fun i => (i, one i))
  (BitVec.ofNat 64 (rs.foldl (fun a r => a + r.2.1 * 2 ^ (n * r.1)) 0), rs.map (fun r => r.2.2))

/-- Element `i` of `qunpk` in one lane (R261). -/
def opQunpk (n : Nat) (e : Elem) (mode : RMode) (sat : Bool) (scale : Option (Option Int)) (i x : Nat) : Res :=
  match scale, e with
  | none, .int sg w => ⟨BitVec.ofNat 64 (wrapNat 32 (intVal sg w (elemBits n i x))), []⟩
  | _, _ =>
    let v := e.val n i x
    let v := match scale with | none => v | some k => expand v k
    fp32.give mode sat v []

/-- The common course of `qunpk`: n destination registers a lane. -/
def execUnpack (m : Issue → BitVec 64) (d : Nat) (n : Nat) (srcs : List Src)
    (f : State → Issue → Team → Nat → Nat → List DWord → Res) (s : State) : Out :=
  withIssue s fun is tm _ =>
    if !(decide (d + 32 / n - 1 < tm.nv) && srcs.all (Src.inRange tm.nv tm.ns)) then
      .next (s.trap is { regRange with lmask := m is })
    else
      let one (l i : Nat) : Res := f s is tm l i (srcs.map (Src.read is.snap l))
      let rs := (lanesOf (m is)).map (fun l => (List.range (32 / n)).map (fun i => (l, i, one l i)))
      let s1 := s.countEvents tm.ctx (some (is.team, is.grp)) (rs.flatten.flatMap (fun r => evClasses r.2.2.ev))
      let s2 := s1.giveResults is false (rs.map (fun x => x.map (fun r => (.v r.1 (d + r.2.1), r.2.2.val.lo))))
      .next (s2.retire is)

/-- `dot4` SR: INT4 × INT4 (R259). -/
def execDot4Sr (g : BitVec 2) (d a b : BitVec 6) (s : State) : Out := dotSR 4 g d a b s
/-- `dot4` LR (R259). -/
def execDot4L (o : LR) (s : State) : Out := dotLR 4 o s
/-- `dot8` SR: INT8 × INT8 (R259). -/
def execDot8Sr (g : BitVec 2) (d a b : BitVec 6) (s : State) : Out := dotSR 8 g d a b s
/-- `dot8` LR (R259). -/
def execDot8L (o : LR) (s : State) : Out := dotLR 8 o s

/-- The registers `n` to `n + k − 1` as sources. -/
def srcRun (n k : Nat) : List Src := (List.range k).map (fun i => .v (n + i))

/-- `qpack` SR: four E4M3 elements, unscaled, nearest even (R260). -/
def execQpackSr (g : BitVec 2) (d a : BitVec 6) (s : State) : Out :=
  execPacked (fun is => is.guarded g.toNat) false (.v d.toNat) (srcRun a.toNat 4)
    (fun _ _ _ _ xs => opQpack 8 (.flt e4m3) (fun _ => .rn) false none xs) s

/-- `qpack` LR (R260). -/
def execQpackL (o : LR) (s : State) : Out :=
  let four := o.t2 == 1
  let n := if four then 4 else 8
  let q := 4 * (o.c.toNat / 4)
  execPacked (fun is => is.guarded o.g.toNat) false (.v o.d.toNat)
    (srcRun o.a.toNat (32 / n) ++ (if o.x then [.v q] else []))
    (fun s is tm l xs =>
      let sc := if o.x then some (laneScale is.snap q (o.c.toNat % 4) (if four then 4 else 8) l) else none
      opQpack n (Elem.of four o.t1.toNat) (fun i => rmode s is tm l i o.rm.toNat) o.sat sc xs) s

/-- `qunpk` SR: four E4M3 elements, unscaled (R261). -/
def execQunpkSr (g : BitVec 2) (d a : BitVec 6) (s : State) : Out :=
  execUnpack (fun is => is.guarded g.toNat) d.toNat 8 [.v a.toNat]
    (fun _ _ _ _ i xs => opQunpk 8 (.flt e4m3) .rn false none i ((opnd xs 0).toNat)) s

/-- `qunpk` LR (R261). -/
def execQunpkL (o : LR) (s : State) : Out :=
  let four := o.t2 == 1
  let n := if four then 4 else 8
  let q := 4 * (o.c.toNat / 4)
  execUnpack (fun is => is.guarded o.g.toNat) o.d.toNat n ([.v o.a.toNat] ++ (if o.x then [.v q] else []))
    (fun s is tm l i xs =>
      let sc := if o.x then some (laneScale is.snap q (o.c.toNat % 4) (if four then 4 else 8) l) else none
      opQunpk n (Elem.of four o.t1.toNat) (rmode s is tm l i o.rm.toNat) o.sat sc i ((opnd xs 0).toNat)) s

end Sys2Proof.Machine
end

