-- ==== Sys2Proof/Machine/Matrix.lean ====
section
/-!
DEFINITION. Matrix operations and the accumulator store (15_matrix_instructions.md, R96): parameter blocks and their checks,
`mma` and `mma.drain` from issue to counting off, the immediates, and `acc.grow`.
-/

namespace Sys2Proof.Machine

/-! ### The accumulator rows of a team (R96, R287) -/

/-- The rows of a team on one of its cores. -/
def Team.acc (tm : Team) (second : Bool) : AccMem := if second then tm.acc1 else tm.acc0

/-- The rows of a team on one of its cores, replaced. -/
def Team.setAcc (tm : Team) (second : Bool) (a : AccMem) : Team := if second then { tm with acc1 := a } else { tm with acc0 := a }

/-- Whether a group runs on the second core of a tandem. -/
def Team.onSecondCore (tm : Team) (grp : Nat) : Bool := tm.coreOf grp != tm.core

/-- The key of an accumulator element. -/
def accKey (row col : Nat) : Nat := 256 * row + col

/-- An element read. -/
def AccMem.get (a : AccMem) (row col : Nat) : Word := Sparse.get 0 a.elems (accKey row col)

/-- Elements written. -/
def AccMem.put (a : AccMem) (ws : List (Nat × Word)) : AccMem :=
  { a with elems := ws.foldl (fun m w => Sparse.set 0 m w.1 w.2) a.elems }

/-! ### Parameter blocks (R289, R290, Tables 15.2 to 15.4) -/

namespace Par

variable (d : List DWord)

def kind : Nat := dwBits d 0 63 62
def nsh : Nat := dwBits d 0 61 60
def n : Nat := 64 * 2 ^ nsh d
def afmt : Nat := dwBits d 0 59 56
def bfmt : Nat := dwBits d 0 55 52
def sa : Bool := dwBits d 0 51 51 == 1
def sb : Bool := dwBits d 0 50 50 == 1
def za : Bool := dwBits d 0 49 49 == 1
def areg : Nat := dwBits d 0 39 32
def breg : Nat := dwBits d 0 31 24
def sareg : Nat := dwBits d 0 23 16
def sbreg : Nat := dwBits d 0 15 8
def row : Nat := dwBits d 1 25 16
def col : Nat := dwBits d 1 7 0
def ofmt : Nat := dwBits d 0 59 56
def rnd : Nat := dwBits d 0 55 53
def sat : Bool := dwBits d 0 52 52 == 1
def dsp : Nat := dwBits d 0 51 50
def res : Bool := dwBits d 0 49 49 == 1
def rfmt : Nat := dwBits d 0 48 47
def drop : Bool := dwBits d 0 46 46 == 1
def dord : Bool := dwBits d 0 45 45 == 1
def zafter : Bool := dwBits d 0 44 44 == 1
def cscope : Nat := dwBits d 0 43 41
def ck : Nat := dwBits d 0 40 39
def dreg : Nat := dwBits d 0 31 24
def scale : Nat := dwBits d 1 63 32
def dst : DWord := d.getD 2 0
def dstride : Nat := dwBits d 3 63 32
def resoff : Nat := dwBits d 3 23 0
def pthr : Nat := dwBits d 4 63 32
def step : Nat := dwBits d 4 31 0
def grow0 : Nat := dwBits d 5 63 32
def gcol0 : Nat := dwBits d 5 31 0
def seed : DWord := d.getD 6 0
def comp : DWord := d.getD 7 0

/-- Element width of an operand format; 0 where the format is not accepted. -/
def ew (f : Nat) : Nat := if f = 9 || f = 10 then 16 else if f = 11 || f = 12 then 8 else if f = 13 then 4 else 0

/-- Output width in bits. -/
def ow : Nat := match ofmt d with | 8 => 32 | 9 | 10 => 16 | _ => 8

/-- Bytes of a residual element. -/
def rw : Nat := if rfmt d = 0 then 4 else 2

/-- Bytes of the drained tile. -/
def bytes : Nat := 64 * n d * ow d / 8

/-- The first failing reason of Table 15.4 for an `mma` block. -/
def mmaReason : Option Nat :=
  let w := ew (afmt d)
  if kind d != 0 || dwBits d 0 48 40 != 0 || dwBits d 0 7 0 != 0 || dwBits d 1 63 26 != 0 || dwBits d 1 15 8 != 0
      || (List.range 6).any (fun i => d.getD (2 + i) 0 != 0) then some 1
  else if nsh d == 3 || w == 0 || ew (bfmt d) != w || (w == 16 && (afmt d != bfmt d || sa d || sb d)) then some 2
  else if areg d % 16 != 0 || breg d % 16 != 0 || (!sa d && sareg d != 0) || (!sb d && sbreg d != 0)
      || decide (255 < areg d + 15) || decide (255 < breg d + n d / 4 - 1)
      || (sb d && decide (255 < sbreg d + n d / 64 - 1)) then some 3
  else none

/-- The first failing reason of Table 15.4 for a drain block. -/
def drainReason (tm : Team) : Option Nat :=
  let e := ow d / 8
  if kind d != 1 || dwBits d 0 38 32 != 0 || dwBits d 0 23 0 != 0 || dwBits d 1 31 26 != 0 || dwBits d 1 15 8 != 0
      || dwBits d 3 31 24 != 0 then some 1
  else if nsh d == 3 || decide (ofmt d < 8) || decide (12 < ofmt d) || decide (4 < rnd d) || rfmt d == 3 || dsp d == 3
      || ck d == 3 then some 2
  else if (dsp d != 0 && dreg d != 0) || (dsp d == 0 && decide (255 < dreg d + n d * ow d / 32 - 1)) then some 3
  else if (ck d != 0 && (cscope d == 0 || decide (5 < cscope d))) || (ck d == 0 && cscope d != 0)
      || (dsp d == 0 && (ck d != 0 || dst d != 0 || dstride d != 0)) || (!drop d && pthr d != 0) then some 4
  else if (dst d).toNat % e != 0 || dstride d % e != 0 || (ck d != 0 && (comp d).toNat % 16 != 0)
      || (dsp d == 1 && !localOk tm (63 * dstride d + n d * e) (dst d))
      || (res d && !localOk tm (64 * n d * rw d) (BitVec.ofNat 64 (resoff d)))
      || (ck d == 2 && !localOk tm 16 (comp d)) then some 5
  else none

/-- Whether the tile lies in the rows that the team holds (R287). -/
def tileOk (blocks : Nat) : Bool :=
  row d % 64 == 0 && decide (row d < 64 * blocks) && col d % 64 == 0 && decide (col d + n d ≤ 256)

/-- The highest register that an `mma` block names. -/
def mmaTop : Nat :=
  max (max (areg d + 15) (breg d + n d / 4 - 1))
    (max (if sa d then sareg d else 0) (if sb d then sbreg d + n d / 64 - 1 else 0))

end Par

/-- The parameter block of an instruction (R289): from scalars, or from local memory at the address in s(q). -/
def parBlock (is : Issue) (tm : Team) (q : Nat) (loc : Bool) : List DWord :=
  if loc then
    let a : DWord := (is.snap.sca q).setWidth 64
    let lm := tm.lm (onSecond tm is.grp a)
    (List.range 8).map (fun k => BitVec.ofNat 64 (Memory.read lm.bytes (bits a 22 0 + 8 * k) 8))
  else (List.range 8).map (fun k => DWord.ofPair (is.snap.sca (q + 2 * k)) (is.snap.sca (q + 2 * k + 1)))

/-- The operand registers of an `mma` (R286). -/
def Par.reads (d : List DWord) : List Nat :=
  (List.range 16).map (Par.areg d + ·) ++ (List.range (Par.n d / 4)).map (Par.breg d + ·)
    ++ (if Par.sa d then [Par.sareg d] else []) ++ (if Par.sb d then (List.range (Par.n d / 64)).map (Par.sbreg d + ·) else [])

/-- The registers of a drain to registers (R299). -/
def Par.dests (d : List DWord) : List Nat :=
  if Par.dsp d = 0 then (List.range (Par.n d * Par.ow d / 32)).map (Par.dreg d + ·) else []

/-- Commands queued at the engine beside an array of a core, not complete. -/
def State.matQueue (s : State) (core arr : Nat) : List (Nat × MatCmd) :=
  s.mats.filter (fun c => c.2.core == core && c.2.arr == arr && !c.2.ended && !c.2.saved)

/-- `mma` and `mma.drain` (R293, R297): role, block, checks in the order of R378, holds, and the command queued. -/
def execMat (drain : Bool) (g q : Nat) (loc : Bool) (s : State) : Out :=
  withIssue s fun is tm gr =>
    let m := is.guarded g
    let a : Word := is.snap.sca q
    let k (cls detail : Nat) : TrapInfo := { cls := cls, detail := detail, lane := lowLane m, lmask := m }
    let inR := if loc then decide (q < tm.ns) else decide (q + 15 < tm.ns)
    if !inR then .next (s.trap is { regRange with lmask := m })
    else if m = 0 then .next (s.retire is)
    else if tm.role is.grp != .matrix then .next (s.trap is { cls := 0x05, lmask := m })
    else if loc && a.toNat % 64 != 0 then .next (s.trap is { k 0x02 0 with addr := a.setWidth 64 })
    else if loc && !localOk tm 64 (a.setWidth 64) then .next (s.trap is { k 0x03 0 with addr := a.setWidth 64 })
    else
      let d := parBlock is tm q loc
      let core := tm.coreOf is.grp
      let acc := tm.acc (tm.onSecondCore is.grp)
      match (if drain then Par.drainReason d tm else Par.mmaReason d) with
      | some r => .next (s.trap is (k 0x0A r))
      | none =>
        if !Par.tileOk d acc.blocks.length then .next (s.trap is (k 0x09 0))
        else if decide (tm.nv ≤ if drain then (if Par.dsp d = 0 then Par.dreg d + Par.n d * Par.ow d / 32 - 1 else 0)
            else Par.mmaTop d) then .next (s.trap is { regRange with lmask := m })
        else
          let arr := acc.blocks.getD (Par.row d / 64) 0
          if drain && s.logHas core is.team (some is.grp) then .next (s.holdIssue is (.sideEmpty false))
          else if decide (8 ≤ gr.mmaCnt) then .next (s.holdIssue is (.mmaAtMost 7))
          else if decide (8 ≤ (s.matQueue core arr).length) then .next (s.holdIssue is (.matQueue arr))
          else
            let c : MatCmd :=
              { core := core, ctx := tm.ctx, team := is.team, grp := is.grp, instr := s.nextInstr, arr := arr, drain := drain,
                dws := d, reads := if drain then [] else Par.reads d, dests := if drain then Par.dests d else []
                atIssue := (tm.snap is.grp).lanes, olds := gr.olds, salt := s.fresh }
            let s := s.updGroup is.team is.grp (fun gr => { gr with mmaCnt := gr.mmaCnt + 1 })
            .next ({ s with
              mats := s.mats ++ [(s.nextId, c)], nextId := s.nextId + 1, nextInstr := s.nextInstr + 1,
              fresh := s.fresh + 2 ^ 19 }.retire is true)

/-- `mma` (R292, R293). -/
def execMma (g : BitVec 2) (q : BitVec 6) (l : BitVec 1) (s : State) : Out := execMat false g.toNat q.toNat (l == 1) s
/-- `mma.drain` SF (R297). -/
def execMmaDrainSf (g : BitVec 2) (q : BitVec 6) (l : BitVec 1) (s : State) : Out := execMat true g.toNat q.toNat (l == 1) s
/-- `mma.drain` LR. -/
def execMmaDrainL (o : LR) (s : State) : Out := execMat true o.g.toNat o.a.toNat o.x s

/-- The elements of a command's tile, as (i, j). -/
def MatCmd.tile (c : MatCmd) : List (Nat × Nat) :=
  (List.range 64).flatMap (fun i => (List.range (Par.n c.dws)).map (fun j => (i, j)))

/-- The keys of a command's tile. -/
def MatCmd.keys (c : MatCmd) : List Nat := c.tile.map (fun e => accKey (Par.row c.dws + e.1) (Par.col c.dws + e.2))

/-- The tile of an `mma` that has been performed and whose operands the group has written before an `mma.wait` covered it becomes free
(R296); this is settled before something reads the tile. -/
def State.settleTile (s : State) (c : Nat × MatCmd) : State :=
  if !c.2.ended || !c.2.lost then s
  else
    { (s.updTeam c.2.team (fun tm =>
        let second := tm.onSecondCore c.2.grp
        tm.setAcc second ((tm.acc second).put (c.2.keys.map (fun k => (k, Config.freeWord (s.fresh + k))))))) with
      fresh := s.fresh + 2 ^ 18
      mats := s.mats.map (fun x => if x.1 = c.1 then (x.1, { x.2 with lost := false }) else x) }

/-- The tiles of a team settled. -/
def State.settleTiles (s : State) (team : Nat) : State :=
  s.mats.foldl (fun (s : State) c => if c.2.team = team then s.settleTile c else s) s

/-- The commands of a group that an `mma.wait` with `n` covers: all but the last `n` issued. They leave the record (R295). -/
def State.matsWaited (s : State) (team grp n : Nat) : State :=
  let mine := (s.mats.filter (fun c => c.2.team == team && c.2.grp == grp)).map (·.1)
  let out := mine.take (mine.length - n)
  let s := s.settleTiles team
  { s with mats := s.mats.filter (fun c => !out.contains c.1) }

/-- `mma.wait n` (R295). -/
def execMmaWait (g : BitVec 2) (n : BitVec 3) (s : State) : Out :=
  withIssue s fun is _ gr =>
    if is.guarded g.toNat = 0 then .next (s.retire is)
    else if decide (gr.mmaCnt ≤ n.toNat) then .next ((s.matsWaited is.team is.grp n.toNat).retire is)
    else .next (s.holdIssue is (.mmaAtMost n.toNat))

/-- `ofence` (R291): every result of the group is written and no register is pending any longer; what its registers hold is what a later
`mma` is sure to read. -/
def execOfence (g : BitVec 2) (s : State) : Out :=
  uniformOp g.toNat [] (fun is _ _ _ =>
    if s.resultsIn is.team is.grp then
      .next ((s.updTeam is.team (fun tm =>
        tm.updGroup is.grp (fun gr => { gr with olds := [], pendRegs := [] }))).retire is)
    else .next (s.holdIssue is .results)) s

/-! ### The engine's work on an `mma` (R236, R286, R293) -/

/-- A command replaced. -/
def State.setMat (s : State) (id : Nat) (c : MatCmd) : State :=
  { s with mats := s.mats.map (fun x => if x.1 = id then (id, c) else x) }

/-- The operand register that the engine reads in a lane (R291): its value at issue, or one that it has had since the fence, or that an
instruction issued before the `mma` has brought since, by a free choice. -/
def MatCmd.operand (c : MatCmd) (lane r : Nat) : Nat :=
  let at_ (l : List (Nat × Nat × Word)) : List Word := (l.filter (fun x => x.1 == lane && x.2.1 == r)).map (·.2.2)
  let now := (c.atIssue.getD lane {}).vec r
  let all := now :: (at_ c.olds ++ at_ c.late)
  (all.getD (Config.freeNat (c.salt + 256 * lane + r) % all.length) now).toNat

/-- An accumulator element after one chunk (R236), with its events. -/
def mmaChunk (acc : Nat) (prods : List (FV × Bool)) : Nat × List Ev :=
  let sm := sumFV .rn (prods.any (·.2)) (prods.map (·.1))
  let r1 := fp32.round .rn false sm.1
  let t := sumFV .rn false [fp32.decode acc, fp32.decode r1.code]
  let r2 := fp32.round .rn false t.1
  (r2.code, evClasses (sm.2 ++ r1.ev ++ t.2 ++ r2.ev))

/-- Element (i, j) of the tile after an `mma` (R286, R293). -/
def MatCmd.element (c : MatCmd) (old : Nat) (i j : Nat) : Nat × List Ev :=
  let d := c.dws
  let ew := Par.ew (Par.afmt d)
  let p := 32 / ew
  let K := 512 / ew
  let a (k : Nat) : FV := (fmtOf (Par.afmt d)).decode (elemBits ew (k % p) (c.operand i (Par.areg d + k / p)))
  let b (k : Nat) : FV :=
    (fmtOf (Par.bfmt d)).decode (elemBits ew (k % p) (c.operand (j % 64) (Par.breg d + 16 * (j / 64) + k / p)))
  let sa (ch : Nat) : Option Int := if Par.sa d then e8m0 (elemBits 8 ch (c.operand i (Par.sareg d))) else some 0
  let sb (ch : Nat) : Option Int := if Par.sb d then e8m0 (elemBits 8 ch (c.operand (j % 64) (Par.sbreg d + j / 64))) else some 0
  (List.range (K / 32)).foldl (fun (x : Nat × List Ev) ch =>
    let prods := (List.range 32).map (fun k => (expand (a (32 * ch + k)) (sa ch)).mul (expand (b (32 * ch + k)) (sb ch)))
    let r := mmaChunk x.1 prods
    (r.1, x.2 ++ r.2)) (if Par.za d then 0 else old, [])

/-- Complete commands at the head of a group's order are counted off (R294). -/
def State.countOff : Nat → State → Nat → Nat → State
  | 0, s, _, _ => s
  | k + 1, s, team, grp =>
    match s.mats.find? (fun c => c.2.team == team && c.2.grp == grp && !c.2.off) with
    | some (id, c) =>
      if c.ended then
        State.countOff k
          ({ s with mats := s.mats.map (fun (x : Nat × MatCmd) => if x.1 = id then (id, { x.2 with off := true }) else x) }.updGroup team grp
            (fun gr => { gr with mmaCnt := gr.mmaCnt - 1 })) team grp
      else s
    | none => s

/-- A command complete. -/
def State.matEnd (s : State) (id : Nat) (c : MatCmd) : State :=
  (s.setMat id { c with ended := true, stalled := [], fault := none }).countOff 9 c.team c.grp

/-- The command that an array's engine works on. -/
def State.matHead (s : State) (id : Nat) : Option MatCmd :=
  match look s.mats id with
  | some c =>
    match s.matQueue c.core c.arr with
    | (i, _) :: _ => if i = id && !c.saved then some c else none
    | [] => none
  | none => none

/-- MMA_PERFORM: the engine performs the `mma` at the head of its array (R288, R293). Where the group has written an operand
register since, or an immediate has touched an element, the elements named by R296 are free. -/
def execMmaPerform (id : Nat) (s : State) : Out :=
  match s.matHead id with
  | none => .next s
  | some c =>
    let s := s.settleTiles c.team
    match s.team? c.team with
    | none => .next s
    | some tm =>
      if c.drain then .next s
      else
        let second := tm.onSecondCore c.grp
        let acc := tm.acc second
        let rs : List ((Nat × Word) × List Ev) := c.tile.map (fun e =>
          let key := accKey (Par.row c.dws + e.1) (Par.col c.dws + e.2)
          let old := (acc.get (Par.row c.dws + e.1) (Par.col c.dws + e.2)).toNat
          let r := c.element old e.1 e.2
          if c.lost || c.smash.contains key then ((key, Config.freeWord (s.fresh + key)), r.2)
          else ((key, BitVec.ofNat 32 r.1), r.2))
        let s := s.setTeam c.team (tm.setAcc second (acc.put (rs.map (·.1))))
        let s := ({ s with fresh := s.fresh + 2 ^ 18 } : State).countEvents c.ctx none (rs.flatMap (fun r => r.2))
        .next (s.matEnd id { c with lost := false })

/-! ### Drains (R298 to R300) -/

/-- rn(2^32 / (2^32 − PTHR)) (R298). The quotient is formed to 64 bits with a sticky bit, which the one rounding keeps. -/
def keepCode (pthr : Nat) : Nat :=
  let den := 2 ^ 32 - pthr
  let q := 2 ^ 96 / den
  let sticky := if 2 ^ 96 % den = 0 then 0 else 1
  (fp32.round .rn false (.fin false (2 * q + sticky) (-65))).code

/-- Output element (i, j) of a drain from tile element `x` and its residual (R298), with its events. -/
def MatCmd.output (c : MatCmd) (x resid i j : Nat) : Nat × List Ev :=
  let d := c.dws
  let word (seed : DWord) : Word :=
    gen seed (BitVec.ofNat 32 (Par.grow0 d + i)) (BitVec.ofNat 32 (Par.gcol0 d + j)) (BitVec.ofNat 32 (Par.step d))
  let drop (v : DVal) : DVal :=
    if (word (~~~Par.seed d)).toNat < Par.pthr d then ⟨0, v.ev⟩
    else let r := f32mul v.code (keepCode (Par.pthr d)); ⟨r.code, v.ev ++ r.ev⟩
  let v := f32mul x (Par.scale d)
  let v := if Par.drop d && !Par.dord d then drop v else v
  let v :=
    if Par.res d then
      let w := match Par.rfmt d with | 0 => resid | 1 => resid * 2 ^ 16 | _ => (fp32.round .rn false (fp16.decode resid)).code
      let r := f32add v.code w
      ⟨r.code, v.ev ++ r.ev⟩
    else v
  let v := if Par.drop d && Par.dord d then drop v else v
  let mode : RMode := match Par.rnd d with | 0 => .rn | 1 => .rz | 2 => .ru | 3 => .rd | _ => .rs (word (Par.seed d))
  if Par.ofmt d = 8 then (v.code, evClasses v.ev)
  else
    let r := (fmtOf (Par.ofmt d)).round mode (Par.sat d) (fp32.decode v.code)
    (r.code, evClasses (v.ev ++ r.ev))

/-- Destination bytes of element (i, j) in memory (R299). -/
def MatCmd.destAddr (c : MatCmd) (i j : Nat) : DWord :=
  Par.dst c.dws + BitVec.ofNat 64 (i * Par.dstride c.dws + j * (Par.ow c.dws / 8))

/-- Granules of local memory that a drain has completed, among those that a piece touched (R299). -/
def MatCmd.filled (c : MatCmd) (ws : List (DWord × Nat × Nat)) : List Nat :=
  let n := Par.n c.dws
  let e := Par.ow c.dws / 8
  let gs := (ws.flatMap (fun w => granules (bits w.1 22 0) w.2.1)).eraseDups
  gs.filter (fun g => (List.range (64 * n)).all (fun u =>
    c.done.any (fun r => decide (r.1 ≤ u) && decide (u < r.1 + r.2)) ||
    !(granules (bits (c.destAddr (u / n) (u % n)) 22 0) e).contains g))

/-- A drain's bytes written so far. -/
def MatCmd.written (c : MatCmd) : Nat := c.done.foldl (fun a r => a + r.2) 0 * (Par.ow c.dws / 8)

/-- The pieces of work of a drain: its completion record, and the pieces by first element. -/
def drainRec (id : Nat) : Who := { kind := 2, id := id }
def drainWho (id first : Nat) : Who := { kind := 2, id := id, part := 1 + first }

/-- The tile of a drain that has ended set to +0 (R298); elements that an immediate touched meanwhile stay undefined (R296). -/
def State.zeroAfter (s : State) (c : MatCmd) : State :=
  { (s.updTeam c.team (fun tm =>
      let second := tm.onSecondCore c.grp
      tm.setAcc second ((tm.acc second).put (c.keys.map (fun k =>
        (k, if c.smash.contains k then Config.freeWord (s.fresh + k) else 0)))))) with fresh := s.fresh + 2 ^ 18 }

/-- A drain ended: its record written, then ZAFTER, then complete, and its events delivered (R240, R294, R298, R299). -/
def State.drainComplete (s : State) (id : Nat) (c : MatCmd) (status : Nat) : State :=
  let finish (s : State) : State :=
    let s := if Par.zafter c.dws && status == 0 then s.zeroAfter c else s
    ((s.forgetAll (fun w => w.kind == 2 && w.id == id)).countEvents c.ctx none (c.evs.flatMap (·.2))).matEnd id { c with evs := [] }
  if Par.ck c.dws = 1 then
    match s.writeCompletion (drainRec id) c.core c.ctx (Par.cscope c.dws) c.relAt (Par.comp c.dws) status c.bytes 0 with
    | .ok s => finish s
    | .error (.wait s) => s.setMat id { c with ending := some status, fault := none }
    | .error (.fault cause stage k va) =>
      let (s, rid) := (s.forget (drainRec id)).engineFault c.ctx c.core c.team c.grp 2 id (Par.comp c.dws) cause stage k va
      s.setMat id { c with ending := some status, fault := some rid }
  else finish s

/-- A drain ends with a status (R150, R299): registers that the group wrote meanwhile are free (R296), and a slot receives
what was not counted. -/
def State.drainEnd (s : State) (id : Nat) (c : MatCmd) (status : Nat) : State :=
  let c := { c with bytes := c.written, stalled := [], relAt := s.nextInstr }
  let left := if Par.dsp c.dws = 1 then Par.bytes c.dws - c.bytes else Par.bytes c.dws
  let s :=
    if Par.ck c.dws = 2 && decide (0 < left) then
      s.updTeam c.team (fun tm => tm.countDown (bits (Par.comp c.dws) 22 0) left)
    else s
  let s :=
    if c.dirty.isEmpty then s
    else
      let ws := c.dirty.flatMap (fun r => (List.range 64).map (fun l =>
        ((RegRef.v l r, Config.freeWord (s.fresh + 64 * r + l)) : RegRef × Word)))
      { (s.updTeam c.team (fun tm => tm.writeRegs c.grp ws)) with fresh := s.fresh + 64 * 256 }
  s.drainComplete id c status

/-- The outputs of elements [first, first + count) of a drain's tile, in row-major order (R298): row, column, code and events. -/
def MatCmd.outputs (c : MatCmd) (tm : Team) (first count : Nat) : List ((Nat × Nat) × Nat × List Ev) :=
  let d := c.dws
  let n := Par.n d
  let acc := tm.acc (tm.onSecondCore c.grp)
  let lm := tm.lm (onSecond tm c.grp (BitVec.ofNat 64 (Par.resoff d)))
  (List.range count).map (fun u =>
    let i := (first + u) / n
    let j := (first + u) % n
    let key := accKey (Par.row d + i) (Par.col d + j)
    let x := if c.smash.contains key then (Config.freeWord (c.salt + 2 ^ 18 + key)).toNat
      else (acc.get (Par.row d + i) (Par.col d + j)).toNat
    let resid := Memory.read lm.bytes (Par.resoff d % 2 ^ 23 + (i * n + j) * Par.rw d) (Par.rw d)
    ((i, j), c.output x resid i j))

/-- The writes of outputs to memory (R299): address, width and value. -/
def MatCmd.outWrites (c : MatCmd) (outs : List ((Nat × Nat) × Nat × List Ev)) : List (DWord × Nat × Nat) :=
  outs.map (fun o => (c.destAddr o.1.1 o.1.2, Par.ow c.dws / 8, o.2.1))

/-- The register writes of outputs (R286, R299), in order: each output takes its place in its register. One that the group has written since
the drain was issued is undefined and stays so (R296). -/
def MatCmd.outRegs (c : MatCmd) (tm : Team) (outs : List ((Nat × Nat) × Nat × List Ev)) : Team :=
  let ow := Par.ow c.dws
  outs.foldl (fun (tm : Team) o =>
    let r := Par.dreg c.dws + o.1.2 * ow / 32
    let pos := ow * (o.1.2 % (32 / ow))
    if c.dirty.contains r then tm else
    let old := ((tm.thread (tm.tid c.grp o.1.1)).regs.vec r).toNat
    tm.writeReg c.grp (.v o.1.1 r) (BitVec.ofNat 32 (old - (old / 2 ^ pos % 2 ^ ow) * 2 ^ pos + o.2.1 * 2 ^ pos))) tm

/-- Whether a drain can carry out elements [first, first + count) now (R298, R300). -/
def State.drainOpen (s : State) (c : MatCmd) (first count : Nat) : Bool :=
  c.drain && c.ending.isNone && c.fault.isNone && count != 0 && decide (first + count ≤ 64 * Par.n c.dws)
    && !c.done.any (rangesMeet (first, count)) && !c.stalled.any (fun x => rangesMeet (first, count) x.1)
    && s.earlierDone c.core c.team c.grp c.instr

/-- DRAIN_PERFORM: the engine drains elements [first, first + count) of the tile at the head of its array, in row-major order
(R298, R299). Pieces at a peer or on the host are done once they are acknowledged, by a response (R170) and not by `_answer`. -/
def execDrainPerform (id first count _answer : Nat) (s : State) : Out :=
  match s.matHead id with
  | none => .next s
  | some c =>
    let s := s.settleTiles c.team
    match s.team? c.team with
    | none => .next s
    | some tm =>
      let d := c.dws
      let w := drainWho id first
      let stop (s : State) (e : EStop) : State :=
        match e with
        | .wait s => s
        | .fault cause stage k va =>
          let (s, rid) := (s.forget w).engineFault c.ctx c.core c.team c.grp 2 id (Par.dst d) cause stage k va
          s.setMat id { c with stalled := c.stalled ++ [((first, count), rid)] }
      let outs := c.outputs tm first count
      let c' := { c with done := c.done ++ [(first, count)], evs := put c.evs first (outs.flatMap (fun o => o.2.2)) }
      let finish (s : State) (c : MatCmd) : State :=
        let s := (s.forget w).setMat id c
        if c.done.foldl (fun a r => a + r.2) 0 = 64 * Par.n d then s.drainEnd id c 0 else s
      if let some st := (if c.fault.isSome then none else c.ending) then .next (s.drainComplete id c st)
      else if !s.drainOpen c first count then .next s
      else
        match Par.dsp d with
        | 0 =>
          let ws := outs.map (fun o => ((RegRef.v o.1.1 (Par.dreg d + o.1.2 * Par.ow d / 32), 0) : RegRef × Word))
          .next (finish ((s.setTeam c.team (c.outRegs (tm.keepOld c.grp ws) outs)).noteRegs c.team c.grp (some id) (some c.instr) ws) c')
        | 1 =>
          let second := onSecond tm c.grp (Par.dst d)
          let ws := c.outWrites outs
          let tm := ws.foldl (fun tm w => tm.putLocal second (bits w.1 22 0) w.2.1 w.2.2) tm
          let tm := tm.fill second (c'.filled ws)
          let tm := if Par.ck d = 2 then tm.countDown (bits (Par.comp d) 22 0) (count * (Par.ow d / 8)) else tm
          .next (finish (s.setTeam c.team tm) c')
        | _ =>
          match s.sent w with
          | .waiting => .next s
          | .refused cause va => .next (stop s (refusal cause .engWrite va))
          | .done => .next (finish s c')
          | .nothing =>
            match s.engStoreAll w c.core c.ctx (c.outWrites outs) with
            | .error e => .next (stop s e)
            | .ok s => .next (if s.sent w == .nothing then finish s c' else s)

/-- Some bytes of an element are written ahead of the rest: a drain has no atomicity (R299). -/
def State.drainTear (s : State) (id u mask : Nat) : State :=
  match s.matHead id with
  | none => s
  | some c =>
    match s.team? c.team with
    | none => s
    | some tm =>
      let w := drainWho id u
      let ws := tornBytes mask (c.outWrites (c.outputs tm u 1))
      if !s.drainOpen c u 1 || s.sent w != .nothing then s
      else
        match Par.dsp c.dws with
        | 0 => s
        | 1 => s.setTeam c.team (ws.foldl (fun tm x => tm.putLocal (onSecond tm c.grp (Par.dst c.dws)) (bits x.1 22 0) x.2.1 x.2.2) tm)
        | _ =>
          match s.engStoreAll {} c.core c.ctx ws with
          | .error _ => s
          | .ok s => s

/-! ### Immediates (R301, R302) -/

/-- Whether an element lies in the tile of a command of a team that no `mma.wait` has covered (R296). -/
def State.inFlight (s : State) (team core row col : Nat) : Bool :=
  s.mats.any (fun c => c.2.team == team && c.2.core == core && decide (Par.row c.2.dws ≤ row)
    && decide (row < Par.row c.2.dws + 64) && decide (Par.col c.2.dws ≤ col) && decide (col < Par.col c.2.dws + Par.n c.2.dws))

/-- Elements written by an immediate: those in the tile of a queued command are free, there and at the command (R296). -/
def State.accWrite (s : State) (is : Issue) (tm : Team) (ws : List ((Nat × Nat) × Word)) : State :=
  let core := tm.coreOf is.grp
  let second := tm.onSecondCore is.grp
  let hit (e : Nat × Nat) : Bool := s.inFlight is.team core e.1 e.2
  let vs := ws.map (fun w =>
    let key := accKey w.1.1 w.1.2
    (key, if hit w.1 then Config.freeWord (s.fresh + key) else w.2))
  let keys := (ws.filter (fun w => hit w.1)).map (fun w => accKey w.1.1 w.1.2)
  let s := s.updTeam is.team (fun tm => tm.setAcc second ((tm.acc second).put vs))
  if keys.isEmpty then s
  else
    { s with
      fresh := s.fresh + 2 ^ 18
      mats := s.mats.map (fun c =>
        if c.2.team = is.team && c.2.core = core && !c.2.ended then
          (c.1, { c.2 with
            smash := c.2.smash ++ keys.filter (fun k =>
              decide (Par.row c.2.dws ≤ k / 256) && decide (k / 256 < Par.row c.2.dws + 64)
                && decide (Par.col c.2.dws ≤ k % 256) && decide (k % 256 < Par.col c.2.dws + Par.n c.2.dws)) })
        else c) }

/-- `acc.clr` (R302): the tile that the descriptor in s(st) names is set to +0. -/
def execAccClr (g st : Nat) (s : State) : Out :=
  withIssue s fun is tm _ =>
    let m := is.guarded g
    let t := is.snap.sca st
    let n := 64 * 2 ^ bits t 29 28
    let row := bits t 25 16
    let col := bits t 7 0
    let acc := tm.acc (tm.onSecondCore is.grp)
    if decide (tm.ns ≤ st) then .next (s.trap is { regRange with lmask := m })
    else if m = 0 then .next (s.retire is)
    else if bits t 29 28 == 3 || bits t 31 30 != 0 || bits t 27 26 != 0 || bits t 15 8 != 0 then .next (s.trap is (illField m))
    else if tm.role is.grp != .matrix then .next (s.trap is { cls := 0x05, lmask := m })
    else if row % 64 != 0 || decide (64 * acc.blocks.length ≤ row) || col % 64 != 0 || decide (256 < col + n) then
      .next (s.trap is { cls := 0x09, lane := lowLane m, lmask := m })
    else
      let ws := (List.range 64).flatMap (fun i => (List.range n).map (fun j => ((row + i, col + j), (0 : Word))))
      .next ((s.accWrite is tm ws).retire is)

/-- `acc.clr` SF. -/
def execAccClrSf (g : BitVec 2) (k : BitVec 6) (s : State) : Out := execAccClr g.toNat k.toNat s
/-- `acc.clr` LR. -/
def execAccClrL (o : LR) (s : State) : Out := execAccClr o.g.toNat o.a.toNat s

/-- The common course of `acc.ld` and `acc.st` (R302): register range, role, rows and columns; then `f` with the first row,
the first column and the number of columns. -/
def execAccRow (o : LR) (f : Issue → Team → BitVec 64 → Nat → Nat → Nat → Out) (s : State) : Out :=
  withIssue s fun is tm _ =>
    let m := is.guarded o.g.toNat
    let n := o.c.toNat + 1
    let regs : List Src := (if o.ka then [.s o.a.toNat] else []) ++ (if o.kb then [.s o.b.toNat] else [])
    let rb := if o.ka then (is.snap.sca o.a.toNat).toNat else 64 * o.a.toNat
    let cb := if o.kb then (is.snap.sca o.b.toNat).toNat else o.b.toNat
    let acc := tm.acc (tm.onSecondCore is.grp)
    if !(regs.all (Src.inRange tm.nv tm.ns) && decide (o.d.toNat + n ≤ tm.nv)) then
      .next (s.trap is { regRange with lmask := m })
    else if tm.role is.grp != .matrix then .next (s.trap is { cls := 0x05, lmask := m })
    else if rb % 64 != 0 || decide (64 * acc.blocks.length < rb + 64) || decide (256 < cb + n) then
      .next (s.trap is { cls := 0x09, lane := lowLane m, lmask := m })
    else f is tm m rb cb n

/-- `acc.ld` (R302): raw elements into registers, long class; elements of a tile in flight are free (R296). -/
def execAccLd (o : LR) (s : State) : Out :=
  execAccRow o (fun is tm m rb cb n =>
    let acc := tm.acc (tm.onSecondCore is.grp)
    let ws := (lanesOf m).map (fun l => (List.range n).map (fun k =>
      ((RegRef.v l (o.d.toNat + k),
        if s.inFlight is.team (tm.coreOf is.grp) (rb + l) (cb + k) then Config.freeWord (s.fresh + accKey (rb + l) (cb + k))
        else acc.get (rb + l) (cb + k)) : RegRef × Word)))
    .next (({ s with fresh := s.fresh + 2 ^ 18 }.giveResults is true ws).retire is)) s

/-- `acc.st` (R302): registers into elements. -/
def execAccSt (o : LR) (s : State) : Out :=
  execAccRow o (fun is tm m rb cb n =>
    let ws := (lanesOf m).flatMap (fun l => (List.range n).map (fun k =>
      ((rb + l, cb + k), is.snap.vec l (o.d.toNat + k))))
    .next ((s.accWrite is tm ws).retire is)) s

/-! ### acc.grow (R303) -/

/-- Blocks of a core's arrays in use: the array of each. -/
def State.accUsed (s : State) (core : Nat) : List Nat :=
  s.teams.flatMap (fun t =>
    if t.2.saved then []
    else (if t.2.core = core then t.2.acc0.blocks else []) ++ (if t.2.tandem && t.2.core + 1 = core then t.2.acc1.blocks else []))

/-- `k` free blocks of a core, each by its array, the arrays tried in an order that starts at `a0`; fewer where fewer are
free. -/
def freeBlocks (used : List Nat) (a0 : Nat) : Nat → List Nat
  | 0 => []
  | k + 1 =>
    let got := freeBlocks used a0 k
    match ((List.range 4).map (fun i => (a0 + i) % 4)).find? (fun a => decide ((used ++ got).count a < 4)) with
    | some a => got ++ [a]
    | none => got

/-- `acc.grow` (R303): the first new row, or 0xFFFF_FFFF; a tandem team is granted on both cores or on neither. The arrays
are a free choice. -/
def execAccGrow (g : BitVec 2) (d : BitVec 6) (k : BitVec 4) (s : State) : Out :=
  withIssue s fun is tm _ =>
    let m := is.guarded g.toNat
    let k := k.toNat + 1
    if !(Dst.s d.toNat).inRange tm.nv tm.ns then .next (s.trap is { regRange with lmask := m })
    else if m = 0 then .next (s.retire is)
    else if tm.role is.grp != .matrix then .next (s.trap is { cls := 0x05, lmask := m })
    else
      let b := tm.acc0.blocks.length
      let a0 := Config.freeNat s.fresh % 4
      let n0 := freeBlocks (s.accUsed tm.core) a0 k
      let n1 := if tm.tandem then freeBlocks (s.accUsed (tm.core + 1)) a0 k else []
      let ok := decide (b + k ≤ 16) && decide ((s.accUsed tm.core).length + k ≤ 16)
        && (!tm.tandem || decide ((s.accUsed (tm.core + 1)).length + k ≤ 16))
      let s := { s with fresh := s.fresh + 1 }
      let s :=
        if ok then
          s.updTeam is.team (fun tm =>
            { tm with
              acc0 := { tm.acc0 with blocks := tm.acc0.blocks ++ n0 }
              acc1 := { tm.acc1 with blocks := tm.acc1.blocks ++ n1 } })
        else s
      .next ((s.giveResults is true [[(.s d.toNat, if ok then BitVec.ofNat 32 (64 * b) else 0xFFFFFFFF#32)]] true).retire is true)

end Sys2Proof.Machine
end

