-- ==== Sys2Proof/Machine/Triggers.lean ====
section
/-!
DEFINITION. Triggers, the time unit, pelotons and their commands, heartbeats, and launch counters as context 0 writes them
(R305, R320, R324 to R332).
-/

namespace Sys2Proof.Machine

/-! ### Triggers (R325) -/

/-- An armed trigger, as what the hub reads for. -/
def trigWho (id part : Nat) : Who := { kind := 7, id := id, part := part }

/-- The watched COUNT of a trigger, read with what it needs brought here (R325); nothing where it watches none. -/
def State.trigCount (s : State) (id : Nat) (t : Trigger) : Except EStop (Option Nat × State) :=
  match t.watch with
  | none => .ok (none, s)
  | some (w, _) => (s.engLoad (trigWho id 0) hubCore t.ctx w 8).map (fun r => (some r.1, r.2.forget (trigWho id 0)))

/-- Whether the condition of a trigger is met, with the COUNT it watches. -/
def State.trigMet (s : State) (t : Trigger) (n : Option Nat) : Bool :=
  (match t.at_ with | some x => decide (x.toNat ≤ s.time.toNat) | none => true) &&
  (match t.watch, n with
   | some (_, v), some n => decide ((BitVec.ofNat 32 n - v).toNat < 2 ^ 31)
   | some _, none => false
   | none, _ => true)

/-- A trigger replaced, or disarmed. -/
def State.setTrig (s : State) (id : Nat) (t : Option Trigger) : State :=
  { s with trigs := s.trigs.filterMap (fun x => if x.1 = id then t.map (fun y => (id, y)) else some x) }

/-- A trigger whose condition is met launches its grid or starts its collective on behalf of its context, and its slot is
free (R325). Where the queue is full it stays armed. -/
def State.trigFire (s : State) (id : Nat) : State :=
  match look s.trigs id with
  | none => s
  | some t =>
    let stop (e : EStop) : State :=
      match e with
      | .wait s => s
      | .fault cause stage k va =>
        let (s, rid) := (s.forgetAll (fun w => w.kind == 7 && w.id == id)).engineFault t.ctx hubCore 0 0 7 id t.addr cause stage k va
        s.setTrig id (some { t with fault := some rid })
    if t.fault.isSome || !s.issuerDone t.by_ then s
    else
      match s.trigCount id t with
      | .error e => stop e
      | .ok (n, s) =>
        if !s.trigMet t n then s
        else if t.collective then (s.setTrig id none).newColl { ctx := t.ctx, desc := t.addr, since := s.time }
        else
          match s.engLoad (trigWho id 1) hubCore t.ctx (t.addr + 24) 8 with
          | .error e => stop e
          | .ok (v, s) =>
            let q := v / 2 ^ 42 % 16
            if s.queueRoom t.ctx q then ((s.forget (trigWho id 1)).setTrig id none).submit t.ctx q t.addr none else s

/-- The fault that a read of the hub ends in, if it does: cause, stage and address. -/
def faultOf {α : Type} (r : Except EStop α) : Option (Nat × Nat × DWord) :=
  match r with
  | .error (.fault cause stage _ va) => some (cause, stage, va)
  | _ => none

/-- Which of the faults of two reads of one instruction is reported: that of a translation before an error of memory, and else that of the
first read (R378). -/
def reported (a b : Option (Nat × Nat × DWord)) : Option (Nat × Nat × DWord) :=
  match a, b with
  | some x, some y => some (if x.1 = 0x21 && y.1 != 0x21 then y else x)
  | some x, none => some x
  | none, y => y

/-- `trig.at` and `trig.on` (R325): `cond` is the time, or the watched record and its target. -/
def execTrig (g r : Nat) (regs : List Src) (at_ : Issue → Option DWord) (watch : Issue → Option (DWord × Word)) (s : State) : Out :=
  uniformOp g (.sp r :: regs) (fun is tm _ m =>
    let va := (Src.sp r).read is.snap 0
    let bad : Option DWord :=
      if va.toNat % 32 != 0 then some va
      else match watch is with | some (w, _) => if w.toNat % 128 != 0 then some w else none | none => none
    let setStatus (s : State) (c : Nat) : State :=
      (s.updGroup is.team is.grp (fun gr => { gr with collStatus := BitVec.ofNat 8 c })).retire is true
    match bad with
    | some a => .next (s.trap is { cls := 0x02, addr := a, lane := lowLane m, lmask := m })
    | none =>
      if s.logHas (tm.coreOf is.grp) is.team (some is.grp) then .next (s.holdIssue is (.sideEmpty false))
      else
        let me : Who := { kind := 8, id := is.team, part := is.grp }
        let rec_ := s.engLoadDws me hubCore tm.ctx va 4
        let s1 := match rec_ with | .ok (_, s) => s | _ => s
        let watched := match watch is with
          | some (w, _) => s1.engLoad me hubCore tm.ctx w 8
          | none => .ok (0, s1)
        match rec_, watched, reported (faultOf rec_) (faultOf watched) with
        | .error (.wait s), _, _ => .next (s.holdIssue is .table)
        | _, .error (.wait s), _ => .next (s.holdIssue is .table)
        | _, _, some (cause, stage, fa) => .next ((s.forget me).faultIssue is (s.hubReadFault tm.ctx m cause stage fa))
        | .error _, _, none => .next s
        | .ok (d, _), w, none =>
            let s := (match w with | .ok (_, s) => s | .error _ => s).forget me
            let kind := dwBits d 0 63 62
            let addr := d.getD 1 0
            if decide (2 ≤ kind) || dwBits d 0 61 0 != 0 || d.getD 2 0 != 0 || d.getD 3 0 != 0 || addr.toNat % 128 != 0 then
              .next (setStatus s 1)
            else if decide (64 ≤ (s.trigs.filter (fun t => t.2.ctx == tm.ctx)).length) then .next (setStatus s 8)
            else
              let t : Trigger :=
                { ctx := tm.ctx, collective := kind == 1, addr := addr, by_ := some (s.issuer is tm), at_ := at_ is, watch := watch is }
              let id := s.nextId
              .next ((({ s with trigs := s.trigs ++ [(id, t)], nextId := id + 1, nextInstr := s.nextInstr + 1 } : State).retire is true).trigFire id)) s

/-- `trig.at` SF. -/
def execTrigAtSf (g : BitVec 2) (r t : BitVec 6) (s : State) : Out :=
  execTrig g.toNat r.toNat [.sp t.toNat] (fun is => some ((Src.sp t.toNat).read is.snap 0)) (fun _ => none) s
/-- `trig.at` LR. -/
def execTrigAtL (o : LR) (s : State) : Out :=
  execTrig o.g.toNat o.d.toNat [.sp o.a.toNat] (fun is => some ((Src.sp o.a.toNat).read is.snap 0)) (fun _ => none) s
/-- `trig.on` SF. -/
def execTrigOnSf (g : BitVec 2) (r w v : BitVec 6) (s : State) : Out :=
  execTrig g.toNat r.toNat [.sp w.toNat, .s v.toNat] (fun _ => none)
    (fun is => some ((Src.sp w.toNat).read is.snap 0, is.snap.sca v.toNat)) s
/-- `trig.on` LR. -/
def execTrigOnL (o : LR) (s : State) : Out :=
  execTrig o.g.toNat o.d.toNat [.sp o.a.toNat, .s o.b.toNat] (fun _ => none)
    (fun is => some ((Src.sp o.a.toNat).read is.snap 0, is.snap.sca o.b.toNat)) s

/-- TRIGGER_TIME_FIRE: the time counter has reached an armed trigger. -/
def execTriggerTimeFire (id : Nat) (s : State) : Out :=
  match look s.trigs id with
  | some t => .next (if t.at_.isSome then s.trigFire id else s)
  | none => .next s
/-- TRIGGER_WATCH_FIRE: a write of a watched COUNT meets an armed trigger's target. -/
def execTriggerWatchFire (id : Nat) (s : State) : Out :=
  match look s.trigs id with
  | some t => .next (if t.watch.isSome then s.trigFire id else s)
  | none => .next s

/-! ### Time (R324) -/

/-- The time counter at a later value. Where a counting window has begun since, its counters have become 0 (R240). -/
def State.setTime (s : State) (t : DWord) : State :=
  let fresh (c : ExcCounter) : ExcCounter :=
    let n := 1000 * c.window.toNat
    if n != 0 && s.time.toNat / n != t.toNat / n then { c with wcnt := 0, fired := false } else c
  { s with time := t, ctxs := s.ctxs.map (fun (c : Nat × Ctx) => (c.1, { c.2 with exc := c.2.exc.map fresh })) }

/-- TIME_STEP: the module kernel steps the counter forward only, and every trigger that it passes fires. -/
def execTimeStep (t : DWord) (s : State) : Out :=
  if t.toNat ≤ s.time.toNat then .next s
  else
    let s : State := { s.setTime t with ptp := { s.ptp with t1 := none, t2 := none, t3 := none, offset := s.ptp.offset - (t - s.time).toInt } }
    .next (s.trigs.foldl (fun (s : State) x => if x.2.at_.isSome then s.trigFire x.1 else s) s)

/-! ### Pelotons (R305, R326, R328, R332) -/

/-- The members of a set, all within the pod shape. -/
def State.inShape (s : State) (m : BitVec 256) : Bool := (membersOf m).all s.inPod

/-- PELOTON_WRITE: context 0 writes a peloton entry; setting V zeroes EPOCH (R305). A valid entry written for another peloton keeps its
MEMBERS, which only the commands of R332 change. -/
def execPelotonWrite (i : Nat) (v : BitVec 512) (s : State) : Out :=
  let old := (look s.pelotons i).getD {}
  let p : Peloton :=
    { old with
      members := if old.v && bit v 0 then old.members else BitVec.ofNat 256 (v.toNat / 2 ^ 256), jlbase := bits v 223 194 * 2 ^ 21, jllen := bits v 193 182,
      ctx := bits v 181 176, pnum := bits v 175 172, topo := bit v 171, v := bit v 0 }
  let refused := !p.members.getLsbD s.modId.toNat || !s.inShape p.members || p.ctx == 0
    || s.pelotons.any (fun x => x.2.v && x.2.ctx == p.ctx && x.2.pnum == p.pnum)
    || decide (2048 < p.jllen) || decide (Config.carveOut < p.jlbase + p.jllen * 2 ^ 21) || bits v 170 1 != 0
  if decide (256 ≤ i) then .next s
  else if !p.v then .next { s with pelotons := put s.pelotons i p }
  else if refused then .next (s.raise (.refused 1 i))
  else
    let p : Peloton := { p with
      epoch := 0, started := [], bytes := 0, jlhead := 0, jlold := 0, jlpos := 0, jlsizes := []
      beats := (membersOf p.members).map (fun m => (m, s.time)) }
    .next { s with pelotons := put s.pelotons i p }

/-- Collectives of a peloton entry that have not ended here. -/
def Coll.open_ (c : Coll) (pel : Nat) : Bool := c.pel == pel && !c.dws.isEmpty && c.ended.isNone && !c.ending && c.status == 0

/-- A collective ends with ABORTED in an epoch (R321, R328): nothing more of it is done. -/
def State.collAborts (s : State) (id : Nat) (c : Coll) (epoch : Word) : State :=
  s.setColl id { c with status := 2, epoch := epoch, retry := false, stalled := [], fault := none, redo := false, wq := [] }

/-- One collective under a shrink (R328). -/
def State.collShrink (s : State) (id : Nat) (c : Coll) (pnum : Nat) (members : BitVec 256) (epoch : Word) : State :=
  let rootGone := Cd.op c.dws == 3 && !members.getLsbD (Cd.root c.dws)
  if Cd.abort c.dws || Cd.op c.dws == 4 || rootGone then
    let s := (membersOf members).foldl (fun (s : State) m =>
      if m = s.modId.toNat then s else s.send (.collAbort c.ctx m pnum c.ord)) s
    s.collAborts id c epoch
  else s.collRestart id { c with members := c.members &&& members, epoch := epoch, retry := false }

/-- PELOTON_SHRINK (R328, R332). -/
def execPelotonShrink (ctx pnum : Nat) (members : BitVec 256) (epoch : Word) (s : State) : Out :=
  match s.peloton ctx pnum with
  | none => .next s
  | some (i, p) =>
    if members &&& p.members != members || members == p.members || !members.getLsbD s.modId.toNat || epoch != p.epoch + 1 then
      .next (s.raise (.refused 2 i))
    else
      let s := { s with pelotons := put s.pelotons i { p with members := members, epoch := epoch } }
      .next (s.colls.foldl (fun (s : State) c =>
        match look s.colls c.1 with
        | some x => if x.open_ i then s.collShrink c.1 x pnum members epoch else s
        | none => s) s).collPump

/-- Whether a collective of a peloton entry is in flight here (R332): one that has not ended, its descriptor read or not. A collective that a
binding or a trigger started names its peloton in the descriptor alone: one of the entry's context counts until that is read (DESIGN CHOICE,
log entry 98). -/
def Coll.inFlight (c : Coll) (ctx pnum pel : Nat) : Bool :=
  c.ended.isNone && (if c.dws.isEmpty then c.ctx == ctx && c.pnum.all (· == pnum) else c.pel == pel)

/-- PELOTON_GROW (R332). The members' collectives are counted anew, so that a spare's and a survivor's have the same numbers. -/
def execPelotonGrow (ctx pnum : Nat) (members : BitVec 256) (epoch : Word) (s : State) : Out :=
  match s.peloton ctx pnum with
  | none => .next s
  | some (i, p) =>
    if members &&& p.members != p.members || epoch != p.epoch + 1
        || s.colls.any (fun c => c.2.inFlight ctx pnum i) then .next (s.raise (.refused 2 i))
    else
      let fresh := (membersOf members).filter (fun m => !p.members.getLsbD m)
      let p := { p with members := members, epoch := epoch, started := [], beats := p.beats ++ fresh.map (fun m => (m, s.time)) }
      .next { s with pelotons := put s.pelotons i p }

/-- PELOTON_RERUN: the collective runs again from its retained SRC with doubled scales (R316, R332). -/
def execPelotonRerun (ctx pnum coll : Nat) (s : State) : Out :=
  match s.peloton ctx pnum, look s.colls coll with
  | some (i, _), some c =>
    if c.pel == i && c.ctx == ctx && c.retry then
      .next (s.collRestart coll { c with attempt := c.attempt + 1, retry := false }).collPump
    else .next (s.raise (.refused 2 i))
  | _, _ => .next s

/-- COLL_ABORT: another member has ended a collective with ABORTED (R328). -/
def execCollAbort (src tid tag pnum ord : Nat) (s : State) : Out :=
  match s.answeredTo src tid with
  | some a => .next (s.send (.response src tid a.status a.data))
  | none =>
    match s.pelotons.find? (fun p => p.2.v && p.2.pnum == pnum && (s.ctx p.2.ctx).dtag == tag) with
    | none => .next (({ s with domainDrop := s.domainDrop + 1 } : State).answer src tid 0x0B [])
    | some (i, p) =>
      let s := s.answer src tid 0 []
      .next (s.colls.foldl (fun (s : State) c =>
        if c.2.open_ i && c.2.ord == ord then
          s.collAborts c.1 c.2 p.epoch
        else s) s).collPump

/-- Modules that share a valid peloton with this one. -/
def State.partners (s : State) : List Nat :=
  (List.range 256).filter (fun m => m != s.modId.toNat && s.pelotons.any (fun p => p.2.v && p.2.members.getLsbD m))

/-- HEARTBEAT_TIMER: a heartbeat to every module that shares a valid peloton, on every live route (R326). -/
def execHeartbeatTimer (s : State) : Out := .next (s.partners.foldl (fun (s : State) m => s.sendAll m (.heartbeat m)) s)

/-- HEARTBEAT: a member's heartbeat arrives. -/
def execHeartbeat (src tid : Nat) (s : State) : Out :=
  match s.answeredTo src tid with
  | some a => .next (s.send (.response src tid a.status a.data))
  | none =>
    let beat (p : Peloton) : Peloton :=
      if p.v && p.members.getLsbD src then
        { p with beats := (src, s.time) :: p.beats.filter (fun b => b.1 != src) } else p
    .next (({ s with pelotons := s.pelotons.map (fun (p : Nat × Peloton) => (p.1, beat p.2)) } : State).answer src tid 0 [])

/-- MEMBER_FAIL: no heartbeat of a member for 1.5 ms, or no route to it (R326). -/
def execMemberFail (mod : Nat) (s : State) : Out :=
  let late (p : Peloton) : Bool :=
    p.v && p.members.getLsbD mod &&
      (match p.beats.find? (fun b => b.1 == mod) with
       | some b => decide (1500000 ≤ (s.time - b.2).toNat)
       | none => true)
  if mod != s.modId.toNat && s.partners.contains mod && ((s.routes mod).isEmpty || s.pelotons.any (fun p => late p.2)) then
    .next (s.raise (.memberFail mod))
  else .next s

/-! ### Launch counters (R320) -/

/-- LAUNCH_COUNTER_WRITE: context 0 writes a launch counter; V sets COUNT to RELOAD (R320). Arrivals that wait may go on. -/
def execLaunchCounterWrite (ctx i : Nat) (v : BitVec 192) (s : State) : Out :=
  if decide (64 ≤ i) || decide (64 ≤ ctx) then .next s
  else if bits v 19 8 == 0 || bits v 127 64 % 128 != 0 || bits v 191 128 % 128 != 0 then .next (s.raise (.refused 3 i))
  else
    .next ((s.updCtx ctx (fun c =>
      let old := Sparse.get (0 : BitVec 192) c.lctrs i
      let cnt := if bit v 0 then bits v 19 8 else lcCount old
      let y : BitVec 192 := BitVec.ofNat 192
        (bits v 191 64 * 2 ^ 64 + lcSeq old * 2 ^ 32 + cnt * 2 ^ 20 + bits v 19 8 * 2 ^ 8 + bits v 0 0)
      { c with lctrs := Sparse.set (0 : BitVec 192) c.lctrs i y })).collPump)

end Sys2Proof.Machine
end

