-- ==== Sys2Proof/Machine/Ready.lean ====
section
/-!
DEFINITION. The grouping stage (R214, R217, R221, R222, R376): when a held group may try its word again, which groups are
ready, and the subsets of a diverged group.
-/

namespace Sys2Proof.Machine

/-- Whether what a held group waits for has come about. -/
def State.condMet (s : State) (tm : Team) (team g : Nat) (h : Hold) : Bool :=
  let gr := tm.group g
  let core := tm.coreOf g
  let other := if tm.tandem then (if core = tm.core then tm.core + 1 else tm.core) else core
  match h with
  | .sideFull => decide (0 < s.logFree core tm.ctx)
  | .sideEmpty whole =>
    let who := if whole then none else some g
    !s.logHas core team who && !(whole && s.logHas other team none)
  | .sideLines ls => !ls.any (fun x => ((s.core core).logLines tm.ctx).contains x)
  | .loads => decide (gr.loads < 32)
  | .loadsDone => !s.loadsWaiting team g
  | .acquire => !s.acquiring team g
  | .fence sc => s.fenceMet tm team g sc
  | .stores sc => s.resultsIn team g && s.storesAtScope tm team g sc
  | .results => s.resultsIn team g
  | .region md r => !s.regionBusy md r
  | .noPending => !gr.hasPending
  | .barrier second off ph => (Memory.read (tm.lm second).bytes off 1 % 2 == 1) != ph
  | .copyAtMost n => decide (gr.copyCnt ≤ n)
  | .copyQueue => decide (s.copyQueue core < 64)
  | .matQueue arr => decide ((s.matQueue core arr).length < 8)
  | .mmaAtMost n => decide (gr.mmaCnt ≤ n)
  | .collAtMost n => decide (gr.collCnt ≤ n)
  | .flowFull f =>
    let e := s.flow (flowKey tm.ctx f)
    !e.v || decide (e.queue.length + (if e.run.isSome then 1 else 0) < 4)
  | .flow _ _ => false
  | .finish => !s.reqs.any (fun r => r.team == team && r.grp == g && !r.isStore) && !gr.pend.any (·.closes)
  | .token => false
  | .queue q => s.queueRoom tm.ctx q
  | .table => true
  | .answered _ => true

/-- Whether a context's groups may issue: it is not stopped, or its restored teams have found their side-log entries (R390,
R392). -/
def State.issues (s : State) (ctx : Nat) : Bool :=
  match (s.ctx ctx).res with
  | .running => true
  | .resuming => (s.ctx ctx).image.slog.isEmpty
  | _ => false

/-- The active sets of a group with their segment offsets (R214): the held word alone, the lanes between two repeats alone,
or one for each place where threads stand. -/
def Team.subsets (tm : Team) (g : Nat) : List (BitVec 64 × BitVec 24) :=
  let gr := tm.group g
  match gr.held with
  | some is => [(is.mask, is.pc)]
  | none =>
    let pcs := ((List.range tm.w).filterMap (fun l =>
      let x := tm.thread (tm.tid g l)
      if x.exited || x.held || x.waiting.isSome || x.atMeet then none else some x.pc)).eraseDups
    let all := pcs.map (fun pc => (tm.activeAt g pc, pc))
    if gr.repMask = 0 then all else all.filter (fun x => x.1 &&& gr.repMask != 0)

/-- Whether a group is ready (R46, R214). While its context is being stopped, a `tok.rel` that has its acknowledgement still ends
(R393). -/
def State.ready (s : State) (team : Nat) (tm : Team) (g : Nat) : Bool :=
  let gr := tm.group g
  let released := (s.ctx tm.ctx).res == .stopping && (match gr.hold with | some (.answered _) => true | _ => false)
  !tm.saved && !tm.killed && (s.issues tm.ctx || released) && gr.faults.isEmpty &&
  (!gr.parked || gr.parkOver) &&
  (match gr.hold with | none => true | some h => s.condMet tm team g h) &&
  !(tm.subsets g).isEmpty

end Sys2Proof.Machine
end

