-- ==== Sys2Proof/Machine/Faults.lean ====
section
/-!
DEFINITION. The module kernel's answers to fault records (R384, R386), the end of a team by the module kernel, the exception
counter unit (R238 to R240), and late results (R46).
-/

namespace Sys2Proof.Machine

/-! ### The end of a team by the module kernel (R384) -/

/-- The accesses of an ended team that wait for an answer which no longer comes are dropped; stores that were refused and wait
for the side log are lost with its entries. -/
def State.dropReqs (s : State) (team : Nat) : State :=
  let gone (r : Req) : Bool :=
    r.team == team && (match r.state with | .refused _ | .waitFull => true | .waiting => !r.isStore | _ => false)
  let lost := s.reqs.find? (fun r => r.team == team && r.isStore && (match r.state with | .refused _ => true | _ => false))
  let s : State := { s with reqs := s.reqs.filter (fun r => !gone r) }
  match lost with
  | some r => s.reportLoss r.ctx (({ cls := 0x10 } : TrapInfo).word 0 false 0) r.va 0
  | none => s

/-- The entries of an ended team in its context's save image discarded, and their loss reported (R125, R384). -/
def State.discardImage (s : State) (ctx team : Nat) : State :=
  let mine := (s.ctx ctx).image.slog.filter (fun e => e.2.team == team)
  let s := (s.updCtx ctx (fun c => { c with image := { slog := c.image.slog.filter (fun e => e.2.team != team) } })).deliverMem
  match mine with
  | [] => s
  | e :: _ => s.reportLoss ctx (({ cls := 0x10 } : TrapInfo).word 0 false 0) ((e.2.lanes.head?.map (·.va)).getD 0) 0

/-- A team ended by the module kernel: its threads exit, its groups wait for nothing, the grid's DONE will report FAULT, and
its side-log entries are discarded (R372, R384). Its engine commands run to their ends (R338). -/
def State.killTeam (s : State) (team : Nat) : State :=
  match s.team? team with
  | none => s
  | some tm =>
    let quiet (gr : Group) : Group :=
      { gr with
        hold := none, held := none, faults := [], pend := [], pendRegs := [], loads := 0, parked := false, numTraps := [], storeTraps := [],
        partInstr := none, lanesDone := 0, repMask := 0, inh := false }
    let tm := { tm with
      killed := true
      threads := tm.threads.map (fun x => { x with exited := true, held := false, waiting := none })
      groups := tm.groups.map quiet }
    let s := s.setTeam team tm
    let s := s.discardLog tm.core tm.ctx (fun e => e.team == team)
    let s := if tm.tandem then s.discardLog (tm.core + 1) tm.ctx (fun e => e.team == team) else s
    let s := (s.discardImage tm.ctx team).dropReqs team
    let own (f : FaultRec) : Bool :=
      f.team == team && f.ctx == tm.ctx && (match f.what with | .retry | .skip | .req _ _ => true | _ => false)
    { s with
      faultQ := s.faultQ.filter (fun f => !own f.2)
      tokenOps := s.tokenOps.filter (fun o => o.team != team) }

/-! ### RESOLVE (R384, R386) -/

/-- A held access tried again: it is translated afresh (R70, R74). An access in doubt keeps its target and waits for the
answer to its first copy (R174). Where a table of the translation is away (R79), the retry has to wait for it. -/
def State.retryReq (s : State) (i : Nat) (r : Req) : Except State State :=
  let k : AKind := r.op.kind
  let part := (s.team? r.team).map (fun tm => (tm.group r.grp).partition)
  match s.translate r.core part r.ctx k r.va with
  | .error (.wait s) => .error s
  | .error (.fault f) =>
    let (s, rid) := s.lateFault r.ctx r.core r.team r.grp r.repidx r.epc (f.info k r.lane r.va r.guard) (.req r.instr r.lane)
    .ok (s.holdFor r.team r.grp rid)
  | .ok (t, s) =>
    let t := if r.op == .read then { t with pa := t.pa / 32 * 32 } else t
    .ok (s.setReq i { r with state := .waiting, tgt := if (s.inDoubt r).isSome then r.tgt else t })

/-- RESOLVE of a fault of one request. -/
def State.resolveReq (s : State) (instr lane : Nat) : Except State State :=
  match s.reqs.findIdx? (fun r => r.instr == instr && r.lane == lane && (match r.state with | .refused _ => true | _ => false)) with
  | none => .ok s
  | some i =>
    match s.reqs[i]? with
    | some r => s.retryReq i r
    | none => .ok s

/-- The threads that stand at a trapped `trap` or `brk` go on after it, and a region begins there (R348, R384, R387). -/
def Team.skipTrapped (tm : Team) (g : Nat) : Team :=
  let gr := tm.group g
  let epc := gr.frame.epc
  let m := tm.lanesWhere g (fun _ x => !x.exited && !x.held && !x.atMeet && x.pc == epc)
  let tm := tm.updLanes g (fun l x => if m.getLsbD l then { x with pc := epc + BitVec.ofNat 24 gr.skipLen } else x)
  let tm := tm.updGroup g (fun gr => { gr with repidx := 0, repMask := 0 })
  (tm.settle g).snapshot g m

/-- RESOLVE of an engine record: the command goes on where it stood. `kind`: 1 copy, 2 drain, 3 flow, 4 collective, 5 DONE
record, 6 queue head, 7 trigger. Writes of a collective that a peer refused are made again. -/
def State.resolveEngine (s : State) (kind id rid : Nat) : State :=
  let other (x : (Nat × Nat) × Nat) : Bool := x.2 != rid
  match kind with
  | 1 =>
    match look s.copies id with
    | none => s
    | some c =>
      let mine := c.fault == some rid
      let c := { c with stalled := c.stalled.filter other, fault := if mine then none else c.fault }
      match (if mine then c.ending else none) with
      | some st => s.copyComplete id c st
      | none => s.setCopy id c
  | 2 =>
    match look s.mats id with
    | none => s
    | some c =>
      let mine := c.fault == some rid
      let c := { c with stalled := c.stalled.filter other, fault := if mine then none else c.fault }
      match (if mine && !c.ended then c.ending else none) with
      | some st => s.drainComplete id c st
      | none => s.setMat id c
  | 3 => s.flowResolve id rid
  | 4 =>
    let bad := s.engAns.any (fun e => e.write && e.who.same (collWho id) && e.status != 0)
    let free (f : Option Nat) : Option Nat := if f = some rid then none else f
    (s.updColl id (fun c =>
      { c with fault := free c.fault, redo := if c.fault = some rid then bad else c.redo, stalled := c.stalled.filter (fun x => x.2 != rid)
               wq := c.wq.map (fun x => { x with fault := free x.fault }) })).collPump
  | 5 =>
    match look s.doneJobs id with
    | some j => (s.setDone id (some { j with fault := none })).tryDone id { j with fault := none }
    | none => s
  | 6 => s.updQueue (id / 16) (id % 16) (fun q =>
      { q with recs := match q.recs with | h :: r => (if h.fault = some rid then { h with fault := none } else h) :: r | [] => [] })
  | _ => { s with trigs := s.trigs.map (fun (t : Nat × Trigger) =>
      if t.1 = id && t.2.fault == some rid then (t.1, { t.2 with fault := none }) else t) }

/-- A fault record taken off the queue. -/
def State.takeRec (s : State) (rid : Nat) : Option (FaultRec × State) :=
  (look s.faultQ rid).map (fun r => (r, { s with faultQ := del s.faultQ rid }))

/-- RESOLVE of a record: the held access is tried again, side-log entries are replayed, a `trap` or `brk` is passed over, an engine
command goes on (R384, R386). A retry whose translation needs a table that is away asks for the table, and the record stays until
the retry can be made. -/
def State.resolveRec (s : State) (rid : Nat) : State :=
  match s.takeRec rid with
  | none => s
  | some (r, s0) =>
    let queue := s.faultQ
    let s := s0
    let held := match s.team? r.team with | some tm => (tm.group r.grp).faults.contains rid | none => false
    let free (s : State) : State := s.updGroup r.team r.grp (fun gr => { gr with faults := gr.faults.erase rid })
    match r.what with
    | .retry => free s
    | .skip => if held then (free s).updTeam r.team (fun tm => tm.skipTrapped r.grp) else free s
    | .sideLog => State.replay 256 s r.core r.ctx
    | .req instr lane =>
      match (free s).resolveReq instr lane with
      | .ok s => s
      | .error s =>
        ({ s with faultQ := queue } : State).updGroup r.team r.grp (fun gr =>
          { gr with faults := if held then gr.faults ++ [rid] else gr.faults })
    | .engine kind id => s.resolveEngine kind id rid

/-! ### ABANDON, END and REPORT (R384, R386) -/

/-- The pieces of work of a queue's head: the read of its record, and of the COUNT that it waits for (R371). -/
def headWho (ctx q part : Nat) : Who := { kind := 6, id := 16 * ctx + q, part := part }

/-- A launch queue's head ends unplaced with a status (R370, R371): its DONE is written, of a record that was not read where the DONE field
itself can be. -/
def State.headFails (s : State) (ctx q status : Nat) : State :=
  match ((s.ctx ctx).queue q).recs with
  | [] => s
  | h :: r =>
    let found := if h.dws.isEmpty then s.doneField (headWho ctx q 0) ctx h.addr else .ok ((h.dws.getD 7 0).toNat, dwBits h.dws 3 20 18, s)
    let ends (s : State) : State :=
      (s.forgetAll (fun w => w.kind == 6 && w.id == 16 * ctx + q)).updQueue ctx q (fun x => { x with recs := r, err := BitVec.ofNat 8 status })
    match found with
    | .ok (v, sc, s) =>
      if v = 0 then ends s else (ends s).postDone { ctx := ctx, addr := BitVec.ofNat 64 v, scope := sc, status := status }
    | .error (.wait s) => (ends s).postDone { ctx := ctx, addr := h.addr, viaRecord := true, status := status }
    | .error _ => ends s

/-- An engine command abandoned, with the outcome that its chapter gives (R149, R153, R196, R300, R323, R370, R371). -/
def State.abandon (s : State) (kind id rid : Nat) : State :=
  match kind with
  | 1 =>
    match look s.copies id with
    | none => s
    | some c =>
      match c.ending with
      | some st =>
        if c.fault != some rid then s else (s.forgetAll (fun w => w.kind == 1 && w.id == id)).copyGone id c (leastCode [st, 4])
      | none =>
        s.copyEnd id { c with stalled := c.stalled.filter (fun x => x.2 != rid), fault := none }
          (if c.started then leastCode [c.finalStatus, 4] else 4)
  | 2 =>
    match look s.mats id with
    | none => s
    | some c =>
      if c.ended then s
      else
        match c.ending with
        | some _ =>
          if c.fault != some rid then s
          else ((s.forgetAll (fun w => w.kind == 2 && w.id == id)).countEvents c.ctx none (c.evs.flatMap (·.2))).matEnd id { c with evs := [] }
        | none => s.drainEnd id { c with fault := none } 4
  | 3 => (s.flowAbandon id rid).collPump
  | 4 =>
    match look s.colls id with
    | none => s
    | some c =>
      if !(c.fault == some rid || c.stalled.any (fun x => x.2 == rid) || c.wq.any (fun x => x.fault == some rid)) then s
      else if c.ending then (s.collGone id c).collPump
      else (s.setColl id { c with fault := none, stalled := [], redo := false, wq := [], status := 3 }).collPump
  | 5 => (s.forgetAll (fun w => w.kind == 5 && w.id == id)).setDone id none
  | 6 =>
    match ((s.ctx (id / 16)).queue (id % 16)).recs with
    | h :: _ => if h.fault == some rid then s.headFails (id / 16) (id % 16) 4 else s
    | [] => s
  | _ => if (look s.trigs id).any (fun t => t.fault == some rid) then s.setTrig id none else s

/-- END of a record: the team ends; on an engine record as ABANDON; the entries of a team that has ended are discarded. -/
def State.endRec (s : State) (r : FaultRec) (rid : Nat) : State :=
  match r.what with
  | .engine kind id => s.abandon kind id rid
  | _ =>
    if (s.team? r.team).isSome then s.killTeam r.team
    else ((s.discardLog r.core r.ctx (fun e => e.team == r.team)).discardImage r.ctx r.team).dropReqs r.team

/-- ABANDON of an engine record (R386). -/
def State.abandonRec (s : State) (rid : Nat) : State :=
  match s.takeRec rid with
  | none => s
  | some (r, s1) =>
    match r.what with
    | .engine kind id => s1.abandon kind id rid
    | _ => s

/-- The effect of an answer to a record: 0 RESOLVE, 1 END, 2 REPORT, 3 ABANDON (R384, R386). -/
def State.answerNow (s : State) (rid k : Nat) : State :=
  match k with
  | 0 => s.resolveRec rid
  | 3 => s.abandonRec rid
  | _ =>
    match s.takeRec rid with
    | none => s
    | some (r, s) =>
      let s := s.endRec r rid
      if k = 2 then s.reportLoss r.ctx r.info r.addr r.mask else s

/-- An answer to a record acts at once, or, where the record's context is not running because of a SAVE, at its resume (R393). The first
answer to a record stands. -/
def State.answerRec (s : State) (rid k : Nat) : State :=
  match look s.faultQ rid with
  | none => s
  | some r =>
    if (s.ctx r.ctx).res == .running then s.answerNow rid k
    else if s.answers.any (fun a => a.1 == rid) then s
    else { s with answers := s.answers ++ [(rid, k)] }

/-- The answers that waited for a context's resume (R393). -/
def State.answerAll (s : State) (ctx : Nat) : State :=
  let mine (a : Nat × Nat) : Bool := match look s.faultQ a.1 with | some r => r.ctx == ctx | none => true
  (s.answers.filter mine).foldl (fun (s : State) a => s.answerNow a.1 a.2)
    { s with answers := s.answers.filter (fun a => !mine a) }

/-- FAULT_RESOLVE (R384, R386). -/
def execFaultResolve (rid : Nat) (s : State) : Out := .next (s.answerRec rid 0)

/-- FAULT_END (R384, R386). -/
def execFaultEnd (rid : Nat) (s : State) : Out := .next (s.answerRec rid 1)

/-- FAULT_REPORT: as END, and the frame goes to the report registers of the tenant's virtual function (R384). -/
def execFaultReport (rid : Nat) (s : State) : Out := .next (s.answerRec rid 2)

/-- ENGINE_ABANDON. -/
def execEngineAbandon (rid : Nat) (s : State) : Out := .next (s.answerRec rid 3)

/-- LOSS_REPORT: the module kernel reports a loss that has no group (R384). -/
def execLossReport (ctx : Nat) (info addr mask : DWord) (s : State) : Out := .next (s.reportLoss ctx info addr mask)

/-! ### Exception counters (R238 to R240) -/

/-- A counter of a context, updated. -/
def State.updExc (s : State) (ctx cls : Nat) (f : ExcCounter → ExcCounter) : State :=
  s.updCtx ctx (fun c => { c with exc := updAt c.exc cls f })

/-- EXC_INCREMENT: the oldest increment on its way reaches the counter unit, and may fire the class's action (R240). -/
def execExcIncrement (s : State) : Out :=
  match s.excQ with
  | [] => .next s
  | e :: r =>
    let s : State := { s with excQ := r }
    let c := (s.ctx e.ctx).exc.getD e.cls {}
    if !c.en then .next s
    else
      let total := min (c.total.toNat + e.count) 0xFFFFFFFF
      let wcnt := min (c.wcnt.toNat + e.count) 0xFFFFFF
      let level := if c.window = 0 then total else wcnt
      let fire := c.thresh != 0 && decide (c.thresh.toNat < level) && !c.fired && c.act != 0
      let s := s.updExc e.ctx e.cls (fun c =>
        { c with total := BitVec.ofNat 32 total, wcnt := BitVec.ofNat 24 wcnt, fired := c.fired || fire })
      if !fire then .next s
      else
        let live : Option (Nat × Nat) :=
          match e.src with
          | some (t, g) =>
            match s.team? t with
            | some tm => if tm.live g != 0 then some (t, g) else none
            | none => none
          | none => none
        match (if c.act = 1 then live else none) with
        | some (t, g) => .next (s.updGroup t g (fun gr => { gr with numTraps := gr.numTraps ++ [e.cls] }))
        | none => .next (s.raiseInt e.ctx 1)

/-- EXC_WINDOW_START: at a multiple of the window's length, WCNT and FIRED become 0 (R240). -/
def execExcWindowStart (ctx cls : Nat) (s : State) : Out :=
  let c := (s.ctx ctx).exc.getD cls {}
  if c.window != 0 && s.time.toNat % (1000 * c.window.toNat) == 0 then
    .next (s.updExc ctx cls (fun c => { c with wcnt := 0, fired := false }))
  else .next s

/-- A write of an exception control register: ACT = 3 and reserved bits are refused (R239, Table 12.9). -/
def State.writeExcControl (s : State) (ctx cls : Nat) (v : DWord) : State :=
  if bits v 3 2 = 3 || bits v 7 4 != 0 || decide (64 ≤ ctx) then s.raise (.refused 6 (16 * ctx + cls))
  else
    s.updExc ctx cls (fun c =>
      let c : ExcCounter := if bit v 1 then { c with total := 0, wcnt := 0, fired := false } else c
      { c with thresh := BitVec.ofNat 32 (bits v 63 32), window := BitVec.ofNat 24 (bits v 31 8), act := BitVec.ofNat 2 (bits v 3 2),
               en := bit v 0 })

/-- EXC_CONTROL_WRITE. -/
def execExcControlWrite (ctx cls : Nat) (v : DWord) (s : State) : Out := .next (s.writeExcControl ctx cls v)

/-- An exception control register as it is read (Table 12.9). -/
def ExcCounter.control (c : ExcCounter) : DWord :=
  BitVec.ofNat 64 (c.thresh.toNat * 2 ^ 32 + c.window.toNat * 2 ^ 8 + c.act.toNat * 4 + if c.en then 1 else 0)

/-- EXC_CLEAR: the CLR bit alone (R239). -/
def execExcClear (ctx cls : Nat) (s : State) : Out :=
  .next (s.updExc ctx cls (fun c => { c with total := 0, wcnt := 0, fired := false }))

/-! ### Late results (R46) -/

/-- LONG_RESULT_WRITTEN: the result at position `i` of a group's results in flight is written. A register that the program has
written since its issue keeps either value (R46). -/
def execLongResultWritten (team grp i : Nat) (s : State) : Out :=
  match s.team? team with
  | none => .next s
  | some tm =>
    match (tm.group grp).pend[i]? with
    | none => .next s
    | some p =>
      let s := s.updGroup team grp (fun gr => { gr with pend := gr.pend.eraseIdx i })
      .next (s.putRegs team grp (some p.instr) p.writes)

end Sys2Proof.Machine
end

