-- ==== Sys2Proof/Decode.lean ====
section
/-!
DEFINITION. The decoder (R42, R44, R47 to R59): from the words of a packet to an instruction, or to the reason of Table 3.7;
and the encoder beside it, written from the same tables. Words are natural numbers below 2^32; bit numbers are those of
Tables 3.1 to 3.3. Lean's compiled code cannot build a constructor numbered above 244, and `Instr` has one for each of the 417
rows, so what builds an `Instr` is marked noncomputable: it has a body, and Lean's kernel evaluates it.
-/

namespace Sys2Proof

/-! ### Fields -/

/-- The `n`-bit field of a word that begins at bit `lo`. -/
def fld (n w lo : Nat) : BitVec n := BitVec.ofNat n (w / 2 ^ lo)

/-- The same field as a number. -/
def slc (w lo n : Nat) : Nat := w / 2 ^ lo % 2 ^ n

/-- SR, SI (Table 3.2): guard, d, a, and b or the immediate. -/
def decSR (f : BitVec 2 → BitVec 6 → BitVec 6 → BitVec 6 → Instr) (w : Nat) : Option Instr :=
  some (f (fld 2 w 18) (fld 6 w 12) (fld 6 w 6) (fld 6 w 0))

/-- SR of a unary operation, and SF with two registers: bits [5:0] are zero. -/
def decSR2 (f : BitVec 2 → BitVec 6 → BitVec 6 → Instr) (w : Nat) : Option Instr :=
  if slc w 0 6 = 0 then some (f (fld 2 w 18) (fld 6 w 12) (fld 6 w 6)) else none

/-- SU (Table 3.2): bit 18 is zero. -/
def decSU (f : BitVec 1 → BitVec 6 → BitVec 6 → BitVec 6 → Instr) (w : Nat) : Option Instr :=
  if slc w 18 1 = 0 then some (f (fld 1 w 19) (fld 6 w 12) (fld 6 w 6) (fld 6 w 0)) else none

/-- SU of a unary operation: bits [19:18] and [5:0] are zero. -/
def decSU2 (f : BitVec 6 → BitVec 6 → Instr) (w : Nat) : Option Instr :=
  if slc w 18 2 = 0 && slc w 0 6 = 0 then some (f (fld 6 w 12) (fld 6 w 6)) else none

/-- SU of class 1: bits [19:18] are zero (R241). -/
def decSU3 (f : BitVec 6 → BitVec 6 → BitVec 6 → Instr) (w : Nat) : Option Instr :=
  if slc w 18 2 = 0 then some (f (fld 6 w 12) (fld 6 w 6) (fld 6 w 0)) else none

/-- SC, SCI (Table 3.2). -/
def decSC (f : BitVec 2 → BitVec 3 → BitVec 2 → BitVec 1 → BitVec 6 → BitVec 6 → Instr) (w : Nat) : Option Instr :=
  some (f (fld 2 w 18) (fld 3 w 15) (fld 2 w 13) (fld 1 w 12) (fld 6 w 6) (fld 6 w 0))

/-- SB (Table 3.2). -/
def decSB (f : BitVec 2 → BitVec 18 → Instr) (w : Nat) : Option Instr := some (f (fld 2 w 18) (fld 18 w 0))

/-- SF with the guard alone. -/
def decSF0 (f : BitVec 2 → Instr) (w : Nat) : Option Instr := if slc w 0 18 = 0 then some (f (fld 2 w 18)) else none

/-- SF with one register in [17:12]. -/
def decSF1 (f : BitVec 2 → BitVec 6 → Instr) (w : Nat) : Option Instr :=
  if slc w 0 12 = 0 then some (f (fld 2 w 18) (fld 6 w 12)) else none

/-- The LR layout (Table 3.3). -/
def lrOf (w x : Nat) : LR :=
  { t1 := fld 4 w 15, t2 := fld 4 w 11, rm := fld 3 w 8, c := fld 8 w 0, g := fld 3 x 29, d := fld 8 x 21, a := fld 8 x 13,
    b := fld 8 x 5, kd := slc x 4 1 == 1, ka := slc x 3 1 == 1, kb := slc x 2 1 == 1, sat := slc x 1 1 == 1,
    x := slc x 0 1 == 1 }

/-- The LI layout (Table 3.3). -/
def liOf (w x : Nat) : LI :=
  { k := slc w 18 1 == 1, g := fld 2 w 16, d := fld 8 w 8, a := fld 8 w 0, imm := fld 32 x 0 }

/-- A long form that takes LR only (R58). -/
def decLR (f : LR → Instr) (w x : Nat) : Option Instr := if slc w 19 1 = 0 then some (f (lrOf w x)) else none

/-- A long form that takes LI only (R58). -/
def decLI (f : LI → Instr) (w x : Nat) : Option Instr := if slc w 19 1 = 1 then some (f (liOf w x)) else none

/-- A long form that takes both layouts (R58). -/
def decLong (f : Long → Instr) (w x : Nat) : Option Instr :=
  some (f (if slc w 19 1 = 0 then .lr (lrOf w x) else .li (liOf w x)))

/-- `mov` in LR: X = 1 reads a special register (R208, R248). -/
def decMov (w x : Nat) : Option Instr := decLR (if slc x 0 1 = 1 then .movSpecial else .movL) w x

/-! ### The M3 map (Tables 3.8 to 3.11) -/

/-- Class 0: from the form group and index to the layout. -/
def decClass0 (i w x : Nat) : Option Instr :=
  match i with
  | 0x01 => decSR .iaddSr w
  | 0x02 => decSR .isubSr w
  | 0x03 => decSR .imulSr w
  | 0x05 => decSR .imulhiSr w
  | 0x06 => decSR .iadd64Sr w
  | 0x07 => decSR2 .inegSr w
  | 0x08 => decSR2 .iabsSr w
  | 0x09 => decSR .iminSr w
  | 0x0A => decSR .imaxSr w
  | 0x0B => decSR .andSr w
  | 0x0C => decSR .orSr w
  | 0x0D => decSR .xorSr w
  | 0x0E => decSR2 .notSr w
  | 0x0F => decSR .shlSr w
  | 0x10 => decSR .shrSr w
  | 0x11 => decSR .sarSr w
  | 0x12 => decSR .rotlSr w
  | 0x15 => decSR2 .popcSr w
  | 0x16 => decSR2 .clzSr w
  | 0x17 => decSR2 .brevSr w
  | 0x18 => decSR .selSr w
  | 0x19 => decSR2 .movSr w
  | 0x1C => decSC .icmpEqSc w
  | 0x1D => decSC .icmpNeSc w
  | 0x1E => decSC .icmpLtSc w
  | 0x1F => decSC .icmpLeSc w
  | 0x21 => decSR .iaddSi w
  | 0x22 => decSR .isubSi w
  | 0x23 => decSR .imulSi w
  | 0x26 => decSR .iadd64Si w
  | 0x29 => decSR .iminSi w
  | 0x2A => decSR .imaxSi w
  | 0x2B => decSR .andSi w
  | 0x2C => decSR .orSi w
  | 0x2D => decSR .xorSi w
  | 0x2F => decSR .shlSi w
  | 0x30 => decSR .shrSi w
  | 0x31 => decSR .sarSi w
  | 0x32 => decSR .rotlSi w
  | 0x3A => if slc w 6 6 = 0 then some (.moviSi (fld 2 w 18) (fld 6 w 12) (fld 6 w 0)) else none
  | 0x3C => decSC .icmpEqSci w
  | 0x3D => decSC .icmpNeSci w
  | 0x3E => decSC .icmpLtSci w
  | 0x3F => decSC .icmpLeSci w
  | 0x41 => decSU .iaddSu w
  | 0x42 => decSU .isubSu w
  | 0x43 => decSU .imulSu w
  | 0x45 => decSU .imulhiSu w
  | 0x46 => decSU .iadd64Su w
  | 0x47 => decSU2 .inegSu w
  | 0x48 => decSU2 .iabsSu w
  | 0x49 => decSU .iminSu w
  | 0x4A => decSU .imaxSu w
  | 0x4B => decSU .andSu w
  | 0x4C => decSU .orSu w
  | 0x4D => decSU .xorSu w
  | 0x4E => decSU2 .notSu w
  | 0x4F => decSU .shlSu w
  | 0x50 => decSU .shrSu w
  | 0x51 => decSU .sarSu w
  | 0x52 => decSU .rotlSu w
  | 0x55 => decSU2 .popcSu w
  | 0x56 => decSU2 .clzSu w
  | 0x57 => decSU2 .brevSu w
  | 0x59 => decSU2 .movSu w
  | 0x5A => if slc w 6 6 = 0 && slc w 18 2 = 2 then some (.moviSu (fld 6 w 12) (fld 6 w 0)) else none
  | 0x61 => decLong .iaddL w x
  | 0x62 => decLong .isubL w x
  | 0x63 => decLong .imulL w x
  | 0x64 => decLR .imadL w x
  | 0x65 => decLR .imulhiL w x
  | 0x66 => decLong .iadd64L w x
  | 0x67 => decLR .inegL w x
  | 0x68 => decLR .iabsL w x
  | 0x69 => decLong .iminL w x
  | 0x6A => decLong .imaxL w x
  | 0x6B => decLong .andL w x
  | 0x6C => decLong .orL w x
  | 0x6D => decLong .xorL w x
  | 0x6E => decLR .notL w x
  | 0x6F => decLR .shlL w x
  | 0x70 => decLR .shrL w x
  | 0x71 => decLR .sarL w x
  | 0x72 => decLR .rotlL w x
  | 0x73 => decLR .bfxL w x
  | 0x74 => decLR .bfiL w x
  | 0x75 => decLR .popcL w x
  | 0x76 => decLR .clzL w x
  | 0x77 => decLR .brevL w x
  | 0x78 => decLR .selL w x
  | 0x79 => decMov w x
  | 0x7A => decLI .moviLi w x
  | 0x7B => decLong .leaL w x
  | 0x7C => decLR .icmpL w x
  | _ => none

/-- Class 1: from the form group and index to the layout. -/
def decClass1 (i w x : Nat) : Option Instr :=
  match i with
  | 0x01 => decSR .faddSr w
  | 0x02 => decSR .fsubSr w
  | 0x03 => decSR .fmulSr w
  | 0x05 => decSR .fminSr w
  | 0x06 => decSR .fmaxSr w
  | 0x07 => decSR2 .fnegSr w
  | 0x08 => decSR2 .fabsSr w
  | 0x09 => decSR2 .frcpSr w
  | 0x0A => decSR2 .frsqSr w
  | 0x0B => decSR2 .fsqrtSr w
  | 0x0C => decSR2 .fexp2Sr w
  | 0x0D => decSR2 .flog2Sr w
  | 0x0E => decSR2 .fsinSr w
  | 0x0F => decSR2 .fcosSr w
  | 0x10 => decSR2 .ftanhSr w
  | 0x11 => decSR2 .fclassSr w
  | 0x12 => decSR2 .cvtSr w
  | 0x1C => decSC .fcmpEqSc w
  | 0x1D => decSC .fcmpNeSc w
  | 0x1E => decSC .fcmpLtSc w
  | 0x1F => decSC .fcmpLeSc w
  | 0x41 => decSU3 .faddSu w
  | 0x42 => decSU3 .fsubSu w
  | 0x43 => decSU3 .fmulSu w
  | 0x45 => decSU3 .fminSu w
  | 0x46 => decSU3 .fmaxSu w
  | 0x47 => decSU2 .fnegSu w
  | 0x48 => decSU2 .fabsSu w
  | 0x49 => decSU2 .frcpSu w
  | 0x4A => decSU2 .frsqSu w
  | 0x4B => decSU2 .fsqrtSu w
  | 0x4C => decSU2 .fexp2Su w
  | 0x4D => decSU2 .flog2Su w
  | 0x4E => decSU2 .fsinSu w
  | 0x4F => decSU2 .fcosSu w
  | 0x50 => decSU2 .ftanhSu w
  | 0x52 => decSU2 .cvtSu w
  | 0x61 => decLong .faddL w x
  | 0x62 => decLong .fsubL w x
  | 0x63 => decLong .fmulL w x
  | 0x64 => decLR .ffmaL w x
  | 0x65 => decLong .fminL w x
  | 0x66 => decLong .fmaxL w x
  | 0x67 => decLR .fnegL w x
  | 0x68 => decLR .fabsL w x
  | 0x69 => decLR .frcpL w x
  | 0x6A => decLR .frsqL w x
  | 0x6B => decLR .fsqrtL w x
  | 0x6C => decLR .fexp2L w x
  | 0x6D => decLR .flog2L w x
  | 0x6E => decLR .fsinL w x
  | 0x6F => decLR .fcosL w x
  | 0x70 => decLR .ftanhL w x
  | 0x71 => decLR .fclassL w x
  | 0x72 => decLR .cvtL w x
  | 0x7C => decLR .fcmpL w x
  | _ => none

/-- Class 2: from the form group and index to the layout. -/
def decClass2 (i w x : Nat) : Option Instr :=
  match i with
  | 0x01 => decSR .dot4Sr w
  | 0x02 => decSR .dot8Sr w
  | 0x03 => decSR2 .qpackSr w
  | 0x04 => decSR2 .qunpkSr w
  | 0x05 => decSR .shflSr w
  | 0x06 => decSR .xbflySr w
  | 0x07 => decSR .bcastSr w
  | 0x08 => if slc w 0 6 = 0 then some (.voteSf (fld 2 w 18) (fld 3 w 15) (fld 3 w 12) (fld 6 w 6)) else none
  | 0x09 => if slc w 0 15 = 0 then some (.elect (fld 5 w 15)) else none
  | 0x0A => decSR2 .lredSr w
  | 0x0B => decSR2 .lscanSr w
  | 0x25 => decSR .shflRotSi w
  | 0x26 => decSR .xbflySi w
  | 0x27 => decSR .bcastSi w
  | 0x61 => decLR .dot4L w x
  | 0x62 => decLR .dot8L w x
  | 0x63 => decLR .qpackL w x
  | 0x64 => decLR .qunpkL w x
  | 0x65 => decLR .shflL w x
  | 0x66 => decLR .xbflyL w x
  | 0x67 => decLR .bcastL w x
  | 0x68 => decLR .voteL w x
  | 0x6A => decLR .lredL w x
  | 0x6B => decLR .lscanL w x
  | 0x6C => decLR .vfacL w x
  | _ => none

/-- Class 3: from the form group and index to the layout. -/
def decClass3 (i w x : Nat) : Option Instr :=
  match i with
  | 0x21 => decSR .ldSi w
  | 0x22 => decSR .stSi w
  | 0x23 => decSR .prefSi w
  | 0x61 => decLong .ldL w x
  | 0x62 => decLong .stL w x
  | 0x63 => decLong .prefL w x
  | _ => none

/-- Class 4: from the form group and index to the layout. -/
def decClass4 (i w x : Nat) : Option Instr :=
  match i with
  | 0x0D => decSF1 .odoRd w
  | 0x0E => if slc w 6 6 = 0 then some (.odoAdv (fld 2 w 18) (fld 6 w 12) (fld 6 w 0)) else none
  | 0x10 => if slc w 3 17 = 0 then some (.lbind (fld 3 w 0)) else none
  | 0x11 => if slc w 0 20 = 0 then some .lfree else none
  | 0x12 => decSR .laddSr w
  | 0x13 => decSR .ladcSr w
  | 0x14 => decSR .lsubSr w
  | 0x15 => decSR .lsbcSr w
  | 0x16 => decSR2 .lnegSr w
  | 0x17 => decSR .lshlSr w
  | 0x18 => decSR .lshrSr w
  | 0x19 => decSC .lcmpSc w
  | 0x1B => decSR .lcarrySr w
  | 0x28 => decSR .dldSi w
  | 0x29 => decSR .dstSi w
  | 0x37 => decSR .lshlSi w
  | 0x38 => decSR .lshrSi w
  | 0x61 => decLR .atomL w x
  | 0x62 => decLR .redL w x
  | 0x63 => decLR .casL w x
  | 0x64 => decLR .cas64L w x
  | 0x65 => decLR .cas128L w x
  | 0x68 => decLR .dldL w x
  | 0x69 => decLR .dstL w x
  | 0x6A => decLR .daddL w x
  | 0x6B => decLR .demaL w x
  | 0x6C => decLR .dmrgL w x
  | 0x72 => decLR .laddL w x
  | 0x73 => decLR .ladcL w x
  | 0x74 => decLR .lsubL w x
  | 0x75 => decLR .lsbcL w x
  | 0x76 => decLR .lnegL w x
  | 0x77 => decLR .lshlL w x
  | 0x78 => decLR .lshrL w x
  | 0x79 => decLR .lcmpL w x
  | 0x7A => decLR .lmadL w x
  | 0x7B => decLR .lcarryL w x
  | _ => none

/-- Class 5: from the form group and index to the layout. -/
noncomputable def decClass5 (i w x : Nat) : Option Instr :=
  match i with
  | 0x01 => if slc w 0 11 = 0 then some (.mma (fld 2 w 18) (fld 6 w 12) (fld 1 w 11)) else none
  | 0x02 => if slc w 3 15 = 0 then some (.mmaWait (fld 2 w 18) (fld 3 w 0)) else none
  | 0x03 => if slc w 0 11 = 0 then some (.mmaDrainSf (fld 2 w 18) (fld 6 w 12) (fld 1 w 11)) else none
  | 0x04 => decSF0 .ofence w
  | 0x05 => decSF1 .accClrSf w
  | 0x08 => if slc w 4 8 = 0 then some (.accGrow (fld 2 w 18) (fld 6 w 12) (fld 4 w 0)) else none
  | 0x0C => decSF1 .cpySf w
  | 0x0D => decSF1 .cpyQSf w
  | 0x0E => decSF1 .cpyMcSf w
  | 0x0F => if slc w 6 12 = 0 then some (.cpyWait (fld 2 w 18) (fld 6 w 0)) else none
  | 0x10 => decSF1 .cpyPoll w
  | 0x14 => decSR .flowSendSf w
  | 0x15 => decSR .flowMcastSf w
  | 0x16 => decSR2 .flowWaitSf w
  | 0x17 => decSR .flowStatSf w
  | 0x1A => decSF1 .collStartSf w
  | 0x1B => if slc w 3 15 = 0 then some (.collWaitSf (fld 2 w 18) (fld 3 w 0)) else none
  | 0x1C => decSR .collStatSf w
  | 0x1D => decSR2 .trigAtSf w
  | 0x1E => decSR .trigOnSf w
  | 0x63 => decLR .mmaDrainL w x
  | 0x65 => decLR .accClrL w x
  | 0x66 => decLR .accLd w x
  | 0x67 => decLR .accSt w x
  | 0x6C => decLR .cpyL w x
  | 0x6D => decLR .cpyQL w x
  | 0x6E => decLR .cpyMcL w x
  | 0x74 => decLR .flowSendL w x
  | 0x75 => decLR .flowMcastL w x
  | 0x76 => decLR .flowWaitL w x
  | 0x77 => decLR .flowStatL w x
  | 0x7A => decLR .collStartL w x
  | 0x7B => decLR .collWaitL w x
  | 0x7C => decLR .collStatL w x
  | 0x7D => decLR .trigAtL w x
  | 0x7E => decLR .trigOnL w x
  | _ => none

/-- Class 6: from the form group and index to the layout. -/
noncomputable def decClass6 (i w x : Nat) : Option Instr :=
  match i with
  | 0x01 => decSB .braSb w
  | 0x02 => if slc w 0 6 = 0 && slc w 12 6 = 0 then some (.brxSf (fld 2 w 18) (fld 6 w 6)) else none
  | 0x03 => decSB .callSb w
  | 0x04 => decSF0 .ret w
  | 0x05 => decSB .meetSb w
  | 0x06 => decSF0 .exit w
  | 0x07 => if slc w 2 16 = 0 then some (.regroup (fld 2 w 18) (fld 2 w 0)) else none
  | 0x08 => decSF0 .rgn w
  | 0x09 => decSF0 .yield w
  | 0x0A => decSF0 .nop w
  | 0x0B => if slc w 0 3 = 0 && slc w 18 2 = 0 then some (.rep (fld 6 w 12) (fld 1 w 11) (fld 2 w 9) (fld 1 w 8) (fld 2 w 6) (fld 1 w 5) (fld 2 w 3)) else none
  | 0x10 => some (.barArriveSf (fld 2 w 18) (fld 6 w 12) (fld 12 w 0))
  | 0x11 => if slc w 1 5 = 0 then some (.barExpSf (fld 2 w 18) (fld 6 w 12) (fld 6 w 6) (fld 1 w 0)) else none
  | 0x12 => if slc w 1 11 = 0 then some (.barWaitSf (fld 2 w 18) (fld 6 w 12) (fld 1 w 0)) else none
  | 0x13 => if slc w 3 15 = 0 then some (.fence (fld 2 w 18) (fld 3 w 0)) else none
  | 0x14 => decSR2 .tokAcqSf w
  | 0x15 => decSR2 .tokRelSf w
  | 0x61 => decLI .braLi w x
  | 0x62 => decLR .brxL w x
  | 0x63 => decLI .callLi w x
  | 0x65 => decLI .meetLi w x
  | 0x70 => decLR .barArriveL w x
  | 0x71 => decLR .barExpL w x
  | 0x72 => decLR .barWaitL w x
  | 0x74 => decLR .tokAcqL w x
  | 0x75 => decLR .tokRelL w x
  | _ => none

/-- Class 7: from the form group and index to the layout. -/
noncomputable def decClass7 (i w x : Nat) : Option Instr :=
  match i with
  | 0x01 => if slc w 8 10 = 0 then some (.trap (fld 2 w 18) (fld 8 w 0)) else none
  | 0x02 => if slc w 8 10 = 0 then some (.brk (fld 2 w 18) (fld 8 w 0)) else none
  | 0x03 => some (.sysRdSf (fld 2 w 18) (fld 6 w 12) (fld 12 w 0))
  | 0x04 => some (.sysWrSf (fld 2 w 18) (fld 6 w 12) (fld 12 w 0))
  | 0x05 => decSF1 .launchSf w
  | 0x06 => decSF1 .tstamp w
  | 0x07 => some (.cntRdSf (fld 2 w 18) (fld 6 w 12) (fld 12 w 0))
  | 0x63 => decLR .sysRdL w x
  | 0x64 => decLR .sysWrL w x
  | 0x65 => decLR .launchL w x
  | 0x67 => decLR .cntRdL w x
  | 0x73 => decLR .sysRdK w x
  | 0x74 => decLR .sysWrK w x
  | _ => none

/-- The instruction that an operation and its operand bits name; none where a fixed bit differs or the layout is not one that
the operation takes (R47, R58). -/
noncomputable def decodeOps (op w x : Nat) : Option Instr :=
  match op / 128 with
  | 0 => decClass0 (op % 128) w x
  | 1 => decClass1 (op % 128) w x
  | 2 => decClass2 (op % 128) w x
  | 3 => decClass3 (op % 128) w x
  | 4 => decClass4 (op % 128) w x
  | 5 => decClass5 (op % 128) w x
  | 6 => decClass6 (op % 128) w x
  | 7 => decClass7 (op % 128) w x
  | _ => none

/-- The values that M3 assigns (Tables 3.8 to 3.11): bit i of the word of a class and form group is index i. -/
def m3Row : Nat → Nat
  | 0 => 0xF3E7FFEE
  | 1 => 0xF407BE4E
  | 2 => 0x06E7FFEE
  | 3 => 0x1FFFFFFE
  | 4 => 0xF007FFEE
  | 6 => 0x0005FFEE
  | 7 => 0x1007FFFE
  | 8 => 0x00000FFE
  | 9 => 0x000000E0
  | 11 => 0x00001DFE
  | 13 => 0x0000000E
  | 15 => 0x0000000E
  | 16 => 0x0BFF6000
  | 17 => 0x01800300
  | 19 => 0x0FFC1F3E
  | 20 => 0x7CF1F13E
  | 23 => 0x7CF070E8
  | 24 => 0x003F0FFE
  | 27 => 0x0037002E
  | 28 => 0x000000FE
  | 31 => 0x001800B8
  | _ => 0

/-- Whether M3 assigns a value. -/
def m3Assigned (op : Nat) : Bool := (m3Row (op / 32)).testBit (op % 32)

/-- The operation, as its M3 opcode, that M2 gives a value, where it assigns it (R59). -/
def m2Op (opc : Nat) : Option Nat :=
  let cls := opc / 128
  let i := opc % 32
  if cls = 7 && decide (24 ≤ i) && decide (i ≤ 30) then
    let op := opc - 7 * 128 + 2 * 128 - 19
    if m3Assigned op then some op else none
  else if cls = 2 && decide (5 ≤ i) then none
  else if opc = 0x265 then none
  else if cls = 4 && decide (8 ≤ i) && decide (i ≤ 27) then none
  else if cls = 5 && (i == 8 || i == 13 || i == 14 || (decide (20 ≤ i) && decide (i ≤ 30))) then none
  else if m3Assigned opc then some opc
  else none

/-- The M3 map (R58). -/
def m3Op (opc : Nat) : Option Nat := if m3Assigned opc then some opc else none

/-- A long form: form group 11 (R58). -/
def isLong (op : Nat) : Bool := op / 32 % 4 == 3

/-- The privileged operations (Table 3.11). -/
def isPriv (op : Nat) : Bool := op == 0x3F3 || op == 0x3F4

/-- The control transfers (R333). -/
def isControl (op : Nat) : Bool := [0x301, 0x361, 0x302, 0x362, 0x303, 0x363, 0x304, 0x306].contains op

/-- `rep` (R52). -/
def opRep : Nat := 0x30B

/-- What `rep` may repeat (R54): an operation of classes 0 to 4. The word that names it has to have an opcode of those classes too (`repBad`). -/
def isRepeatable (op : Nat) : Bool := decide (op / 128 ≤ 4) && op != 0x210 && op != 0x211

/-- The format code of an operation (Table 3.2). -/
def fmtOp (op : Nat) : Nat :=
  let cls := op / 128
  let i := op % 32
  match op / 32 % 4 with
  | 0 =>
    if (cls ≤ 1 && decide (28 ≤ i)) || op = 0x219 then 2
    else if op = 0x301 || op = 0x303 || op = 0x305 then 4
    else if op = 0x108 || op = 0x109 || op = 0x20D || op = 0x20E || op = 0x210 || op = 0x211 || decide (5 ≤ cls) then 5
    else 0
  | 1 => if cls = 0 && decide (28 ≤ i) then 3 else 1
  | 2 => 6
  | _ => 7

/-- The pipe of an operation: 0 A, 1 M, 2 K (R45, Tables 3.8 to 3.11). -/
def pipeOp (op : Nat) : Nat :=
  let i := op % 32
  match op / 128 with
  | 3 => 1
  | 4 => if i ≤ 14 then 1 else 0
  | 5 => if i ≤ 8 then 2 else 1
  | 6 => 2
  | 7 => 2
  | _ => 0

/-- Whether the result class of an operation is long (R45, Tables 3.8 to 3.11). -/
def longClass (op : Nat) : Bool :=
  let i := op % 32
  match op / 128 with
  | 1 => decide (9 ≤ i) && decide (i ≤ 16)
  | 2 => decide (5 ≤ i)
  | 3 => i == 1
  | 4 => [1, 3, 4, 5, 8, 13, 14].contains i
  | 5 => [6, 8, 16, 23, 28].contains i
  | 7 => [3, 6, 7, 19].contains i
  | _ => false

/-- A decode table entry as read (Table 3.6): V, and the fields that the hardware fills from the operation that OP names; an
OP of 0, which names no operation, reads as zero. -/
def entryBits (v : Bool) (op : Nat) : Nat :=
  if op = 0 then 0
  else
    (if v then 2 ^ 31 else 0) + (if isPriv op then 2 ^ 30 else 0) + fmtOp op * 2 ^ 27 + pipeOp op * 2 ^ 25
      + (if longClass op then 2 ^ 24 else 0) + op

/-! ### One instruction of a packet -/

/-- An instruction as it issues: C and S of its first word, and its length in bytes. -/
structure Decoded where
  instr : Instr
  c : Bool
  s : Bool
  len : Nat
deriving DecidableEq, Repr

/-- The operand checks of decode: an instruction, or the reason FIELD or PRED_DUP (R47, R49, R51, R57). -/
noncomputable def decodeOp (op w x : Nat) : Except Nat Instr :=
  match decodeOps op w x with
  | none => .error 5
  | some i =>
    match i.reason with
    | some r => .error r
    | none => .ok i

/-- The operation of the word in a slot, by the context's table (R55). -/
def slotOp (tbl : Nat → Option Nat) (ws : List Nat) (slot : Nat) : Option Nat :=
  if 3 ≤ slot then none else tbl (slc (ws.getD slot 0) 20 10)

/-- Which of the fields d, a and b the form holds as registers (R54), from its operation and words. -/
def stepFields (op w x : Nat) : Bool × Bool × Bool :=
  let cls := op / 128
  let i := op % 32
  let unary := (cls == 0 && [7, 8, 14, 21, 22, 23, 25].contains i) || (cls == 1 && decide (7 ≤ i) && decide (i ≤ 18))
    || (cls == 2 && [3, 4, 10, 11].contains i) || (cls == 4 && i == 22)
  let cmp := (decide (cls ≤ 1) && decide (28 ≤ i)) || (cls == 4 && i == 25)
  match op / 32 % 4 with
  | 0 =>
    if op = 0x108 then (slc w 15 3 == 3, false, false)
    else if op = 0x109 then (false, false, false)
    else if op = 0x20D || op = 0x20E then (true, false, false)
    else (!cmp, true, !unary)
  | 1 => if op = 0x03A then (true, false, false) else (!cmp && cls * 32 + i != 99, true, false)
  | 2 => if op = 0x05A then (true, false, false) else (true, true, !unary && slc w 19 1 == 0)
  | _ =>
    if slc w 19 1 = 1 then (op != 0x1E3, op != 0x07A, false)
    else if op = 0x168 then (slc w 11 4 == 3, false, false)
    else if op = 0x079 && slc x 0 1 = 1 then (true, false, false)
    else if op = 0x073 && slc x 0 1 = 1 then (true, true, false)
    else if cls = 3 then (i != 3, true, false)
    else if op = 0x268 || op = 0x269 then (true, true, false)
    else if op = 0x262 || op = 0x26A || op = 0x26B || op = 0x26C then (false, true, true)
    else (!cmp, true, !unary)

/-- The steps of a `rep` word on d, a and b for one repeat: the increment times the repeat index (R52, R53). -/
def repStep (r k : Nat) : Nat × Nat × Nat :=
  (if slc r 11 1 = 1 then k * 2 ^ slc r 9 2 else 0, if slc r 8 1 = 1 then k * 2 ^ slc r 6 2 else 0,
    if slc r 5 1 = 1 then k * 2 ^ slc r 3 2 else 0)

/-- A field of a word advanced by a step, where it stays within `max` (R53). A field that the repeat leaves as it is (its step is 0, or the
repeat is the first) is not looked at here: one that is beyond its range in the word itself has reason FIELD (DESIGN CHOICE, log
entry 96). -/
def addField (w lo n max step : Nat) : Option Nat :=
  if step = 0 then some w
  else if slc w lo n + step ≤ max then some (w + step * 2 ^ lo)
  else none

/-- The words of a repeated instruction with its fields stepped; none where one is beyond its range (R53). -/
def stepWords (op w x : Nat) (st : Nat × Nat × Nat) : Option (Nat × Nat) :=
  let top (k : Bool) : Nat := if k then 95 else 255
  if isLong op then
    if slc w 19 1 = 1 then
      let k := slc w 18 1 == 1
      (addField w 8 8 (top k) st.1).bind fun w => (addField w 0 8 (top k) st.2.1).map fun w => (w, x)
    else
      (addField x 21 8 (top (slc x 4 1 == 1)) st.1).bind fun x =>
        (addField x 13 8 (top (slc x 3 1 == 1)) st.2.1).bind fun x =>
          (addField x 5 8 (top (slc x 2 1 == 1)) st.2.2).map fun x => (w, x)
  else if op = 0x108 then (addField w 6 6 63 st.1).map fun w => (w, x)
  else
    (addField w 12 6 63 st.1).bind fun w =>
      (addField w 6 6 63 st.2.1).bind fun w => (addField w 0 6 63 st.2.2).map fun w => (w, x)

/-- The checks on a `rep` word and on what follows it (R54). A word after the `rep` whose decode entry is invalid is no
instruction, and R54 does not speak of it: the `rep` is accepted, and the repeat traps with reason INVALID_ENTRY at the `rep`
(DESIGN CHOICE, log entry 9). The classes that may be repeated are those of the loaded map (R32): under M2 the words of class 7 may not
(R59); in a table whose entries were written one by one, both the opcode and the operation are of classes 0 to 4 (DESIGN CHOICE, log
entry 97). -/
def repBad (tbl : Nat → Option Nat) (ws : List Nat) (slot w : Nat) : Bool :=
  slot == 2 || slc w 30 2 != 0 || slc w 18 2 != 0 || slc w 0 3 != 0 ||
    (match slotOp tbl ws (slot + 1) with
     | none => false
     | some op =>
       let f := stepFields op (ws.getD (slot + 1) 0) (ws.getD (slot + 2) 0)
       let st := repStep w 1
       !isRepeatable op || decide (4 < slc (ws.getD (slot + 1) 0) 27 3) || (isLong op && slot + 1 == 2) || (st.1 != 0 && !f.1) || (st.2.1 != 0 && !f.2.1)
         || (st.2.2 != 0 && !f.2.2))

/-- The operation that follows the one in a slot of its packet. -/
def nextOp (tbl : Nat → Option Nat) (ws : List Nat) (slot : Nat) : Option Nat :=
  slotOp tbl ws (slot + if ((slotOp tbl ws slot).map isLong).getD false then 2 else 1)

/-- The guard field of a word by the format of its operation (Tables 3.2 and 3.3); p0 for a form that has none, and for a long form whose
extension word lies in no slot. -/
def guardField (op w x slot : Nat) : Nat :=
  match fmtOp op with
  | 6 => 0
  | 7 => if slc w 19 1 = 1 then slc w 16 2 else if slot = 2 then 0 else slc x 29 3
  | _ => slc w 18 2

/-- The checks on the form's place in its packet and on C (R44, R48, R57): the reason, if one fails. R56 gives the order of V,
PRIV, LONG_AT_SLOT2 and the operand fields; a word that breaks CHAIN_END as well has that reason after LONG_AT_SLOT2 and before
FIELD and PRED_DUP (DESIGN CHOICE, log entry 8). -/
def placeBad (tbl : Nat → Option Nat) (ws : List Nat) (slot op : Nat) (c : Bool) : Option Nat :=
  let next := nextOp tbl ws slot
  if isLong op && slot == 2 then some 3
  else if c && (slot == 2 || (isLong op && slot == 1) || isControl op || (next.map isControl).getD false) then some 4
  else none

/-- Decode of the instruction that begins in a slot of a packet (R56, R57), by the table of a context; `kernel`: it is context
0. `w` and `x` stand for the words in the slot and after it, so that a repeat can be decoded with its fields stepped. -/
noncomputable def decodeWith (tbl : Nat → Option Nat) (kernel : Bool) (ws : List Nat) (slot w x : Nat) : Except Nat Decoded :=
  let c := slc w 31 1 == 1
  -- the word before a `rep` has reason REP whatever else it breaks (R44)
  if c && nextOp tbl ws slot == some opRep then .error 6
  else
    match tbl (slc w 20 10) with
    | none => .error 1
    | some op =>
      if op = opRep then
        if repBad tbl ws slot w then .error 6
        else
          match decodeOp op w x with
          | .error _ => .error 6
          | .ok i =>
            let n := match slotOp tbl ws (slot + 1) with | some o => if isLong o then 8 else 4 | none => 4
            .ok { instr := i, c := false, s := false, len := 4 + n }
      else if isPriv op && !kernel then .error 2
      else
        match placeBad tbl ws slot op c with
        | some r => .error r
        | none =>
          match decodeOp op w x with
          | .error r => .error r
          | .ok i => .ok { instr := i, c := c, s := slc w 30 1 == 1, len := if isLong op then 8 else 4 }

/-- Decode of the instruction that begins in a slot. -/
noncomputable def decodeSlot (tbl : Nat → Option Nat) (kernel : Bool) (ws : List Nat) (slot : Nat) : Except Nat Decoded :=
  decodeWith tbl kernel ws slot (ws.getD slot 0) (ws.getD (slot + 1) 0)

/-- Repeat `k` of the instruction that follows the `rep` in a slot (R53). -/
noncomputable def decodeRepeat (tbl : Nat → Option Nat) (kernel : Bool) (ws : List Nat) (slot k : Nat) : Except Nat Decoded :=
  let w := ws.getD (slot + 1) 0
  let x := ws.getD (slot + 2) 0
  match slotOp tbl ws (slot + 1) with
  | none => .error 1
  | some op =>
    match stepWords op w x (repStep (ws.getD slot 0) k) with
    | none => .error 7
    | some (w, x) => decodeWith tbl kernel ws (slot + 1) w x

/-! ### The encoder -/

/-- A word from its opcode and its operand bits (Table 3.1). -/
def encSR (op : Nat) (g : BitVec 2) (d a b : BitVec 6) : Nat :=
  op * 2 ^ 20 + g.toNat * 2 ^ 18 + d.toNat * 2 ^ 12 + a.toNat * 2 ^ 6 + b.toNat
def encSR2 (op : Nat) (g : BitVec 2) (d a : BitVec 6) : Nat :=
  op * 2 ^ 20 + g.toNat * 2 ^ 18 + d.toNat * 2 ^ 12 + a.toNat * 2 ^ 6
def encSU (op : Nat) (k : BitVec 1) (d a b : BitVec 6) : Nat :=
  op * 2 ^ 20 + k.toNat * 2 ^ 19 + d.toNat * 2 ^ 12 + a.toNat * 2 ^ 6 + b.toNat
def encSU2 (op : Nat) (d a : BitVec 6) : Nat := op * 2 ^ 20 + d.toNat * 2 ^ 12 + a.toNat * 2 ^ 6
def encSU3 (op : Nat) (d a b : BitVec 6) : Nat := op * 2 ^ 20 + d.toNat * 2 ^ 12 + a.toNat * 2 ^ 6 + b.toNat
def encSC (op : Nat) (g : BitVec 2) (t : BitVec 3) (q : BitVec 2) (w : BitVec 1) (a b : BitVec 6) : Nat :=
  op * 2 ^ 20 + g.toNat * 2 ^ 18 + t.toNat * 2 ^ 15 + q.toNat * 2 ^ 13 + w.toNat * 2 ^ 12 + a.toNat * 2 ^ 6 + b.toNat
def encSB (op : Nat) (g : BitVec 2) (d : BitVec 18) : Nat := op * 2 ^ 20 + g.toNat * 2 ^ 18 + d.toNat
def encSF0 (op : Nat) (g : BitVec 2) : Nat := op * 2 ^ 20 + g.toNat * 2 ^ 18
def encSF1 (op : Nat) (g : BitVec 2) (d : BitVec 6) : Nat := op * 2 ^ 20 + g.toNat * 2 ^ 18 + d.toNat * 2 ^ 12

/-- The two words of an LR form (Table 3.3). -/
def encLR (op : Nat) (o : LR) : List Nat :=
  [op * 2 ^ 20 + o.t1.toNat * 2 ^ 15 + o.t2.toNat * 2 ^ 11 + o.rm.toNat * 2 ^ 8 + o.c.toNat,
   o.g.toNat * 2 ^ 29 + o.d.toNat * 2 ^ 21 + o.a.toNat * 2 ^ 13 + o.b.toNat * 2 ^ 5 + o.kd.toNat * 2 ^ 4
     + o.ka.toNat * 2 ^ 3 + o.kb.toNat * 2 ^ 2 + o.sat.toNat * 2 + o.x.toNat]

/-- The two words of an LI form (Table 3.3). -/
def encLI (op : Nat) (o : LI) : List Nat :=
  [op * 2 ^ 20 + 2 ^ 19 + o.k.toNat * 2 ^ 18 + o.g.toNat * 2 ^ 16 + o.d.toNat * 2 ^ 8 + o.a.toNat, o.imm.toNat]

/-- A long form in its layout. -/
def encLong (op : Nat) : Long → List Nat
  | .lr o => encLR op o
  | .li o => encLI op o

/-- The words of an instruction, with C and S 0; none for the steps that are no instruction words. -/
def Instr.encode : Instr → List Nat
  | .iaddSr g d a b => [encSR 0x001 g d a b]
  | .iaddSi g d a i => [encSR 0x021 g d a i]
  | .iaddSu k d a b => [encSU 0x041 k d a b]
  | .iaddL o => encLong 0x061 o
  | .isubSr g d a b => [encSR 0x002 g d a b]
  | .isubSi g d a i => [encSR 0x022 g d a i]
  | .isubSu k d a b => [encSU 0x042 k d a b]
  | .isubL o => encLong 0x062 o
  | .imulSr g d a b => [encSR 0x003 g d a b]
  | .imulSi g d a i => [encSR 0x023 g d a i]
  | .imulSu k d a b => [encSU 0x043 k d a b]
  | .imulL o => encLong 0x063 o
  | .imadL o => encLR 0x064 o
  | .imulhiSr g d a b => [encSR 0x005 g d a b]
  | .imulhiSu k d a b => [encSU 0x045 k d a b]
  | .imulhiL o => encLR 0x065 o
  | .iadd64Sr g d a b => [encSR 0x006 g d a b]
  | .iadd64Si g d a i => [encSR 0x026 g d a i]
  | .iadd64Su k d a b => [encSU 0x046 k d a b]
  | .iadd64L o => encLong 0x066 o
  | .inegSr g d a => [encSR2 0x007 g d a]
  | .inegSu d a => [encSU2 0x047 d a]
  | .inegL o => encLR 0x067 o
  | .iabsSr g d a => [encSR2 0x008 g d a]
  | .iabsSu d a => [encSU2 0x048 d a]
  | .iabsL o => encLR 0x068 o
  | .iminSr g d a b => [encSR 0x009 g d a b]
  | .iminSi g d a i => [encSR 0x029 g d a i]
  | .iminSu k d a b => [encSU 0x049 k d a b]
  | .iminL o => encLong 0x069 o
  | .imaxSr g d a b => [encSR 0x00A g d a b]
  | .imaxSi g d a i => [encSR 0x02A g d a i]
  | .imaxSu k d a b => [encSU 0x04A k d a b]
  | .imaxL o => encLong 0x06A o
  | .andSr g d a b => [encSR 0x00B g d a b]
  | .andSi g d a i => [encSR 0x02B g d a i]
  | .andSu k d a b => [encSU 0x04B k d a b]
  | .andL o => encLong 0x06B o
  | .orSr g d a b => [encSR 0x00C g d a b]
  | .orSi g d a i => [encSR 0x02C g d a i]
  | .orSu k d a b => [encSU 0x04C k d a b]
  | .orL o => encLong 0x06C o
  | .xorSr g d a b => [encSR 0x00D g d a b]
  | .xorSi g d a i => [encSR 0x02D g d a i]
  | .xorSu k d a b => [encSU 0x04D k d a b]
  | .xorL o => encLong 0x06D o
  | .notSr g d a => [encSR2 0x00E g d a]
  | .notSu d a => [encSU2 0x04E d a]
  | .notL o => encLR 0x06E o
  | .shlSr g d a b => [encSR 0x00F g d a b]
  | .shlSi g d a i => [encSR 0x02F g d a i]
  | .shlSu k d a b => [encSU 0x04F k d a b]
  | .shlL o => encLR 0x06F o
  | .shrSr g d a b => [encSR 0x010 g d a b]
  | .shrSi g d a i => [encSR 0x030 g d a i]
  | .shrSu k d a b => [encSU 0x050 k d a b]
  | .shrL o => encLR 0x070 o
  | .sarSr g d a b => [encSR 0x011 g d a b]
  | .sarSi g d a i => [encSR 0x031 g d a i]
  | .sarSu k d a b => [encSU 0x051 k d a b]
  | .sarL o => encLR 0x071 o
  | .rotlSr g d a b => [encSR 0x012 g d a b]
  | .rotlSi g d a i => [encSR 0x032 g d a i]
  | .rotlSu k d a b => [encSU 0x052 k d a b]
  | .rotlL o => encLR 0x072 o
  | .bfxL o => encLR 0x073 o
  | .bfiL o => encLR 0x074 o
  | .popcSr g d a => [encSR2 0x015 g d a]
  | .popcSu d a => [encSU2 0x055 d a]
  | .popcL o => encLR 0x075 o
  | .clzSr g d a => [encSR2 0x016 g d a]
  | .clzSu d a => [encSU2 0x056 d a]
  | .clzL o => encLR 0x076 o
  | .brevSr g d a => [encSR2 0x017 g d a]
  | .brevSu d a => [encSU2 0x057 d a]
  | .brevL o => encLR 0x077 o
  | .selSr p d a b => [encSR 0x018 p d a b]
  | .selL o => encLR 0x078 o
  | .movSr g d a => [encSR2 0x019 g d a]
  | .movSu d a => [encSU2 0x059 d a]
  | .movL o => encLR 0x079 o
  | .movSpecial o => encLR 0x079 o
  | .moviSi g d i => [0x03A00000 + g.toNat * 2 ^ 18 + d.toNat * 2 ^ 12 + i.toNat]
  | .moviSu d i => [0x05A80000 + d.toNat * 2 ^ 12 + i.toNat]
  | .moviLi o => encLI 0x07A o
  | .leaL o => encLong 0x07B o
  | .icmpEqSc g t q w a b => [encSC 0x01C g t q w a b]
  | .icmpEqSci g t q w a i => [encSC 0x03C g t q w a i]
  | .icmpNeSc g t q w a b => [encSC 0x01D g t q w a b]
  | .icmpNeSci g t q w a i => [encSC 0x03D g t q w a i]
  | .icmpLtSc g t q w a b => [encSC 0x01E g t q w a b]
  | .icmpLtSci g t q w a i => [encSC 0x03E g t q w a i]
  | .icmpLeSc g t q w a b => [encSC 0x01F g t q w a b]
  | .icmpLeSci g t q w a i => [encSC 0x03F g t q w a i]
  | .icmpL o => encLR 0x07C o
  | .faddSr g d a b => [encSR 0x081 g d a b]
  | .faddSu d a b => [encSU3 0x0C1 d a b]
  | .faddL o => encLong 0x0E1 o
  | .fsubSr g d a b => [encSR 0x082 g d a b]
  | .fsubSu d a b => [encSU3 0x0C2 d a b]
  | .fsubL o => encLong 0x0E2 o
  | .fmulSr g d a b => [encSR 0x083 g d a b]
  | .fmulSu d a b => [encSU3 0x0C3 d a b]
  | .fmulL o => encLong 0x0E3 o
  | .ffmaL o => encLR 0x0E4 o
  | .fminSr g d a b => [encSR 0x085 g d a b]
  | .fminSu d a b => [encSU3 0x0C5 d a b]
  | .fminL o => encLong 0x0E5 o
  | .fmaxSr g d a b => [encSR 0x086 g d a b]
  | .fmaxSu d a b => [encSU3 0x0C6 d a b]
  | .fmaxL o => encLong 0x0E6 o
  | .fnegSr g d a => [encSR2 0x087 g d a]
  | .fnegSu d a => [encSU2 0x0C7 d a]
  | .fnegL o => encLR 0x0E7 o
  | .fabsSr g d a => [encSR2 0x088 g d a]
  | .fabsSu d a => [encSU2 0x0C8 d a]
  | .fabsL o => encLR 0x0E8 o
  | .frcpSr g d a => [encSR2 0x089 g d a]
  | .frcpSu d a => [encSU2 0x0C9 d a]
  | .frcpL o => encLR 0x0E9 o
  | .frsqSr g d a => [encSR2 0x08A g d a]
  | .frsqSu d a => [encSU2 0x0CA d a]
  | .frsqL o => encLR 0x0EA o
  | .fsqrtSr g d a => [encSR2 0x08B g d a]
  | .fsqrtSu d a => [encSU2 0x0CB d a]
  | .fsqrtL o => encLR 0x0EB o
  | .fexp2Sr g d a => [encSR2 0x08C g d a]
  | .fexp2Su d a => [encSU2 0x0CC d a]
  | .fexp2L o => encLR 0x0EC o
  | .flog2Sr g d a => [encSR2 0x08D g d a]
  | .flog2Su d a => [encSU2 0x0CD d a]
  | .flog2L o => encLR 0x0ED o
  | .fsinSr g d a => [encSR2 0x08E g d a]
  | .fsinSu d a => [encSU2 0x0CE d a]
  | .fsinL o => encLR 0x0EE o
  | .fcosSr g d a => [encSR2 0x08F g d a]
  | .fcosSu d a => [encSU2 0x0CF d a]
  | .fcosL o => encLR 0x0EF o
  | .ftanhSr g d a => [encSR2 0x090 g d a]
  | .ftanhSu d a => [encSU2 0x0D0 d a]
  | .ftanhL o => encLR 0x0F0 o
  | .fclassSr g d a => [encSR2 0x091 g d a]
  | .fclassL o => encLR 0x0F1 o
  | .cvtSr g d a => [encSR2 0x092 g d a]
  | .cvtSu d a => [encSU2 0x0D2 d a]
  | .cvtL o => encLR 0x0F2 o
  | .fcmpEqSc g t q w a b => [encSC 0x09C g t q w a b]
  | .fcmpNeSc g t q w a b => [encSC 0x09D g t q w a b]
  | .fcmpLtSc g t q w a b => [encSC 0x09E g t q w a b]
  | .fcmpLeSc g t q w a b => [encSC 0x09F g t q w a b]
  | .fcmpL o => encLR 0x0FC o
  | .dot4Sr g d a b => [encSR 0x101 g d a b]
  | .dot4L o => encLR 0x161 o
  | .dot8Sr g d a b => [encSR 0x102 g d a b]
  | .dot8L o => encLR 0x162 o
  | .qpackSr g d a => [encSR2 0x103 g d a]
  | .qpackL o => encLR 0x163 o
  | .qunpkSr g d a => [encSR2 0x104 g d a]
  | .qunpkL o => encLR 0x164 o
  | .shflSr g d a b => [encSR 0x105 g d a b]
  | .shflRotSi g d a i => [encSR 0x125 g d a i]
  | .shflL o => encLR 0x165 o
  | .xbflySr g d a b => [encSR 0x106 g d a b]
  | .xbflySi g d a i => [encSR 0x126 g d a i]
  | .xbflyL o => encLR 0x166 o
  | .bcastSr g d a b => [encSR 0x107 g d a b]
  | .bcastSi g d a i => [encSR 0x127 g d a i]
  | .bcastL o => encLR 0x167 o
  | .voteSf g m p d => [0x10800000 + g.toNat * 2 ^ 18 + m.toNat * 2 ^ 15 + p.toNat * 2 ^ 12 + d.toNat * 2 ^ 6]
  | .voteL o => encLR 0x168 o
  | .elect p => [0x10900000 + p.toNat * 2 ^ 15]
  | .lredSr g d a => [encSR2 0x10A g d a]
  | .lredL o => encLR 0x16A o
  | .lscanSr g d a => [encSR2 0x10B g d a]
  | .lscanL o => encLR 0x16B o
  | .vfacL o => encLR 0x16C o
  | .ldSi g d a i => [encSR 0x1A1 g d a i]
  | .ldL o => encLong 0x1E1 o
  | .stSi g d a i => [encSR 0x1A2 g d a i]
  | .stL o => encLong 0x1E2 o
  | .prefSi g l a i => [encSR 0x1A3 g l a i]
  | .prefL o => encLong 0x1E3 o
  | .atomL o => encLR 0x261 o
  | .redL o => encLR 0x262 o
  | .casL o => encLR 0x263 o
  | .cas64L o => encLR 0x264 o
  | .cas128L o => encLR 0x265 o
  | .dldSi g d a i => [encSR 0x228 g d a i]
  | .dldL o => encLR 0x268 o
  | .dstSi g d a i => [encSR 0x229 g d a i]
  | .dstL o => encLR 0x269 o
  | .daddL o => encLR 0x26A o
  | .demaL o => encLR 0x26B o
  | .dmrgL o => encLR 0x26C o
  | .odoRd g d => [encSF1 0x20D g d]
  | .odoAdv g d n => [0x20E00000 + g.toNat * 2 ^ 18 + d.toNat * 2 ^ 12 + n.toNat]
  | .lbind n => [0x21000000 + n.toNat]
  | .lfree => [0x21100000]
  | .laddSr g d a b => [encSR 0x212 g d a b]
  | .laddL o => encLR 0x272 o
  | .ladcSr g d a b => [encSR 0x213 g d a b]
  | .ladcL o => encLR 0x273 o
  | .lsubSr g d a b => [encSR 0x214 g d a b]
  | .lsubL o => encLR 0x274 o
  | .lsbcSr g d a b => [encSR 0x215 g d a b]
  | .lsbcL o => encLR 0x275 o
  | .lnegSr g d a => [encSR2 0x216 g d a]
  | .lnegL o => encLR 0x276 o
  | .lshlSr g d a b => [encSR 0x217 g d a b]
  | .lshlSi g d a k => [encSR 0x237 g d a k]
  | .lshlL o => encLR 0x277 o
  | .lshrSr g d a b => [encSR 0x218 g d a b]
  | .lshrSi g d a k => [encSR 0x238 g d a k]
  | .lshrL o => encLR 0x278 o
  | .lcmpSc g t q w a b => [encSC 0x219 g t q w a b]
  | .lcmpL o => encLR 0x279 o
  | .lmadL o => encLR 0x27A o
  | .lcarrySr g d a b => [encSR 0x21B g d a b]
  | .lcarryL o => encLR 0x27B o
  | .mma g q l => [0x28100000 + g.toNat * 2 ^ 18 + q.toNat * 2 ^ 12 + l.toNat * 2 ^ 11]
  | .mmaWait g n => [0x28200000 + g.toNat * 2 ^ 18 + n.toNat]
  | .mmaDrainSf g q l => [0x28300000 + g.toNat * 2 ^ 18 + q.toNat * 2 ^ 12 + l.toNat * 2 ^ 11]
  | .mmaDrainL o => encLR 0x2E3 o
  | .ofence g => [encSF0 0x284 g]
  | .accClrSf g k => [encSF1 0x285 g k]
  | .accClrL o => encLR 0x2E5 o
  | .accLd o => encLR 0x2E6 o
  | .accSt o => encLR 0x2E7 o
  | .accGrow g d k => [0x28800000 + g.toNat * 2 ^ 18 + d.toNat * 2 ^ 12 + k.toNat]
  | .cpySf g a => [encSF1 0x28C g a]
  | .cpyL o => encLR 0x2EC o
  | .cpyQSf g a => [encSF1 0x28D g a]
  | .cpyQL o => encLR 0x2ED o
  | .cpyMcSf g a => [encSF1 0x28E g a]
  | .cpyMcL o => encLR 0x2EE o
  | .cpyWait g n => [0x28F00000 + g.toNat * 2 ^ 18 + n.toNat]
  | .cpyPoll g d => [encSF1 0x290 g d]
  | .flowSendSf g f a l => [encSR 0x294 g f a l]
  | .flowSendL o => encLR 0x2F4 o
  | .flowMcastSf g f a l => [encSR 0x295 g f a l]
  | .flowMcastL o => encLR 0x2F5 o
  | .flowWaitSf p f e => [encSR2 0x296 p f e]
  | .flowWaitL o => encLR 0x2F6 o
  | .flowStatSf g d f e => [encSR 0x297 g d f e]
  | .flowStatL o => encLR 0x2F7 o
  | .collStartSf g a => [encSF1 0x29A g a]
  | .collStartL o => encLR 0x2FA o
  | .collWaitSf g n => [0x29B00000 + g.toNat * 2 ^ 18 + n.toNat]
  | .collWaitL o => encLR 0x2FB o
  | .collStatSf g d p e => [encSR 0x29C g d p e]
  | .collStatL o => encLR 0x2FC o
  | .trigAtSf g r t => [encSR2 0x29D g r t]
  | .trigAtL o => encLR 0x2FD o
  | .trigOnSf g r w v => [encSR 0x29E g r w v]
  | .trigOnL o => encLR 0x2FE o
  | .braSb g d => [encSB 0x301 g d]
  | .braLi o => encLI 0x361 o
  | .brxSf g a => [0x30200000 + g.toNat * 2 ^ 18 + a.toNat * 2 ^ 6]
  | .brxL o => encLR 0x362 o
  | .callSb g d => [encSB 0x303 g d]
  | .callLi o => encLI 0x363 o
  | .ret g => [encSF0 0x304 g]
  | .meetSb g d => [encSB 0x305 g d]
  | .meetLi o => encLI 0x365 o
  | .exit g => [encSF0 0x306 g]
  | .regroup g w => [0x30700000 + g.toNat * 2 ^ 18 + w.toNat]
  | .rgn g => [encSF0 0x308 g]
  | .yield g => [encSF0 0x309 g]
  | .nop g => [encSF0 0x30A g]
  | .rep n e k f j h m => [0x30B00000 + n.toNat * 2 ^ 12 + e.toNat * 2 ^ 11 + k.toNat * 2 ^ 9 + f.toNat * 2 ^ 8 + j.toNat * 2 ^ 6 + h.toNat * 2 ^ 5 + m.toNat * 2 ^ 3]
  | .barArriveSf g l n => [0x31000000 + g.toNat * 2 ^ 18 + l.toNat * 2 ^ 12 + n.toNat]
  | .barArriveL o => encLR 0x370 o
  | .barExpSf g l b v => [0x31100000 + g.toNat * 2 ^ 18 + l.toNat * 2 ^ 12 + b.toNat * 2 ^ 6 + v.toNat]
  | .barExpL o => encLR 0x371 o
  | .barWaitSf g l h => [0x31200000 + g.toNat * 2 ^ 18 + l.toNat * 2 ^ 12 + h.toNat]
  | .barWaitL o => encLR 0x372 o
  | .fence g e => [0x31300000 + g.toNat * 2 ^ 18 + e.toNat]
  | .tokAcqSf g d a => [encSR2 0x314 g d a]
  | .tokAcqL o => encLR 0x374 o
  | .tokRelSf g d a => [encSR2 0x315 g d a]
  | .tokRelL o => encLR 0x375 o
  | .trap g n => [0x38100000 + g.toNat * 2 ^ 18 + n.toNat]
  | .brk g n => [0x38200000 + g.toNat * 2 ^ 18 + n.toNat]
  | .sysRdSf g d n => [0x38300000 + g.toNat * 2 ^ 18 + d.toNat * 2 ^ 12 + n.toNat]
  | .sysRdL o => encLR 0x3E3 o
  | .sysWrSf g d n => [0x38400000 + g.toNat * 2 ^ 18 + d.toNat * 2 ^ 12 + n.toNat]
  | .sysWrL o => encLR 0x3E4 o
  | .sysRdK o => encLR 0x3F3 o
  | .sysWrK o => encLR 0x3F4 o
  | .launchSf g a => [encSF1 0x385 g a]
  | .launchL o => encLR 0x3E5 o
  | .tstamp g d => [encSF1 0x386 g d]
  | .cntRdSf g d n => [0x38700000 + g.toNat * 2 ^ 18 + d.toNat * 2 ^ 12 + n.toNat]
  | .cntRdL o => encLR 0x3E7 o
  | .handlerRetry _ _ => []
  | .handlerSkip _ _ => []
  | .handlerEnd _ _ => []
  | .hostdbWrite => []
  | .pendingTrapTaken _ _ => []
  | .loadSectorArrival _ => []
  | .storeAck _ => []
  | .storeRefused _ => []
  | .sliceOperation _ _ => []
  | .migrationStart _ _ _ _ => []
  | .migrationLineCopy _ _ => []
  | .migrationClose _ => []
  | .sweepPassStart _ => []
  | .sweepVisit _ _ => []
  | .invOnePage _ _ => []
  | .invVirtualRange _ _ _ => []
  | .invWholeContext _ => []
  | .invRangeEntry _ _ => []
  | .invEveryContext => []
  | .invComplete => []
  | .faultResolve _ => []
  | .faultEnd _ => []
  | .faultReport _ => []
  | .lossReport _ _ _ _ => []
  | .engineAbandon _ => []
  | .sideLogReplay _ _ => []
  | .sideLogDiscard _ _ => []
  | .excIncrement => []
  | .excWindowStart _ _ => []
  | .fabricRead _ _ _ _ _ _ => []
  | .fabricWrite _ _ _ _ _ _ => []
  | .fabricAtomic _ _ _ _ _ _ _ _ => []
  | .fabricResponse _ _ _ _ => []
  | .tokenAcquire _ _ _ _ => []
  | .tokenRelease _ _ _ _ => []
  | .tokenRecall _ _ _ _ => []
  | .grant _ _ _ _ _ _ => []
  | .grantAck _ _ _ => []
  | .recallGrant _ _ _ _ => []
  | .recallAck _ _ _ => []
  | .recallDeadline _ => []
  | .deny _ => []
  | .ptpMessage _ _ => []
  | .timeStep _ => []
  | .flitReplayRequest _ _ => []
  | .downFlit _ => []
  | .linkSilence _ => []
  | .portDown _ => []
  | .retrainTimer _ => []
  | .trainingComplete _ _ => []
  | .routeChangeBroadcast _ _ _ _ => []
  | .routeRestored _ _ => []
  | .laneSample _ _ _ _ _ => []
  | .shift _ _ _ => []
  | .shiftAck _ _ _ => []
  | .shiftAckTimeout _ => []
  | .laneMapSwitch _ => []
  | .heartbeatTimer => []
  | .heartbeat _ _ => []
  | .memberFail _ => []
  | .flowTransferStart _ _ => []
  | .blocks _ _ _ _ _ _ _ => []
  | .thdr _ _ _ _ _ _ => []
  | .tail _ _ _ _ _ => []
  | .resync _ _ _ _ _ => []
  | .ack _ _ _ _ _ => []
  | .abort _ _ _ _ _ => []
  | .flowDeadline _ _ => []
  | .flowEndCreate _ _ _ _ => []
  | .flowEndDestroy _ _ _ => []
  | .mcastSlotWrite _ _ _ => []
  | .collAbort _ _ _ _ _ => []
  | .pelotonShrink _ _ _ _ => []
  | .pelotonGrow _ _ _ _ => []
  | .pelotonRerun _ _ _ => []
  | .pelotonWrite _ _ => []
  | .triggerTimeFire _ => []
  | .triggerWatchFire _ => []
  | .doorbell _ _ _ => []
  | .queueHead _ _ _ => []
  | .dependenceMet _ _ => []
  | .teamPlacement _ => []
  | .teamEnd _ => []
  | .regroupEffect _ => []
  | .copyStart _ _ => []
  | .copyPiece _ _ _ _ _ => []
  | .mmaPerform _ => []
  | .drainPerform _ _ _ _ => []
  | .preemptSave _ => []
  | .saveResultTimeout _ _ => []
  | .saveImageWritten _ => []
  | .preemptResume _ => []
  | .tenantCreate _ _ _ _ _ _ => []
  | .tenantReset _ => []
  | .resetNRelease => []
  | .recoveryGo _ => []
  | .measurementExtend _ _ => []
  | .attestationRequest _ _ => []
  | .mctpMessage _ _ _ => []
  | .bar2Read _ _ _ => []
  | .bar2Write _ _ _ => []
  | .winbaseWrite _ _ => []
  | .thermalLimit _ => []
  | .thermalClear _ => []
  | .thermtrip _ => []
  | .wearUpdate _ => []
  | .decodeEntryWrite _ _ _ _ => []
  | .decodeTableLoad _ _ => []
  | .rangeEntryWrite _ _ _ => []
  | .decayClassWrite _ _ _ => []
  | .sweepRangeWrite _ _ => []
  | .pannierWrite _ _ _ => []
  | .launchCounterWrite _ _ _ => []
  | .queueControlWrite _ _ _ => []
  | .excControlWrite _ _ _ => []
  | .excClear _ _ => []
  | .registerWrite _ _ => []
  | .flowSourceBlockRead _ _ _ => []
  | .historyZeroingDone _ _ => []
  | .longResultWritten _ _ _ => []
  | .collFlowDeadline _ => []
  | .podWrite _ _ _ _ => []
  | .powerLoss => []

/-- Whether a step of the table is an instruction word. -/
def Instr.isWord (i : Instr) : Bool := !i.encode.isEmpty

/-- The instruction read from the bits of a table row, the rest of its packet zero: M3, in slot 0, in context 0. -/
noncomputable def decodeTableWord (nbits w : Nat) : Option Instr :=
  let v := w % 2 ^ nbits
  match decodeSlot m3Op true [v % 2 ^ 32, v / 2 ^ 32 % 2 ^ 32, v / 2 ^ 64 % 2 ^ 32] 0 with
  | .ok d => some d.instr
  | .error _ => none

end Sys2Proof
end

