-- ==== Sys2Proof/Machine/Crypto.lean ====
section
/-!
DEFINITION. The two published algorithms of firmware verification, measurement and attestation (Table 0.1, R400 to R403): SHA-512
of FIPS 180-4, and the verification of an RSASSA-PSS signature of RFC 8017 with the options of R400. The spec names them by
their standards; their text is the standards' own (log entry 7).
-/

namespace Sys2Proof.Machine

/-! ### SHA-512 -/

/-- The round constants. -/
def shaK : List DWord :=
  [0x428A2F98D728AE22#64, 0x7137449123EF65CD#64, 0xB5C0FBCFEC4D3B2F#64, 0xE9B5DBA58189DBBC#64] ++
   [0x3956C25BF348B538#64, 0x59F111F1B605D019#64, 0x923F82A4AF194F9B#64, 0xAB1C5ED5DA6D8118#64] ++
   [0xD807AA98A3030242#64, 0x12835B0145706FBE#64, 0x243185BE4EE4B28C#64, 0x550C7DC3D5FFB4E2#64] ++
   [0x72BE5D74F27B896F#64, 0x80DEB1FE3B1696B1#64, 0x9BDC06A725C71235#64, 0xC19BF174CF692694#64] ++
   [0xE49B69C19EF14AD2#64, 0xEFBE4786384F25E3#64, 0x0FC19DC68B8CD5B5#64, 0x240CA1CC77AC9C65#64] ++
   [0x2DE92C6F592B0275#64, 0x4A7484AA6EA6E483#64, 0x5CB0A9DCBD41FBD4#64, 0x76F988DA831153B5#64] ++
   [0x983E5152EE66DFAB#64, 0xA831C66D2DB43210#64, 0xB00327C898FB213F#64, 0xBF597FC7BEEF0EE4#64] ++
   [0xC6E00BF33DA88FC2#64, 0xD5A79147930AA725#64, 0x06CA6351E003826F#64, 0x142929670A0E6E70#64] ++
   [0x27B70A8546D22FFC#64, 0x2E1B21385C26C926#64, 0x4D2C6DFC5AC42AED#64, 0x53380D139D95B3DF#64] ++
   [0x650A73548BAF63DE#64, 0x766A0ABB3C77B2A8#64, 0x81C2C92E47EDAEE6#64, 0x92722C851482353B#64] ++
   [0xA2BFE8A14CF10364#64, 0xA81A664BBC423001#64, 0xC24B8B70D0F89791#64, 0xC76C51A30654BE30#64] ++
   [0xD192E819D6EF5218#64, 0xD69906245565A910#64, 0xF40E35855771202A#64, 0x106AA07032BBD1B8#64] ++
   [0x19A4C116B8D2D0C8#64, 0x1E376C085141AB53#64, 0x2748774CDF8EEB99#64, 0x34B0BCB5E19B48A8#64] ++
   [0x391C0CB3C5C95A63#64, 0x4ED8AA4AE3418ACB#64, 0x5B9CCA4F7763E373#64, 0x682E6FF3D6B2B8A3#64] ++
   [0x748F82EE5DEFB2FC#64, 0x78A5636F43172F60#64, 0x84C87814A1F0AB72#64, 0x8CC702081A6439EC#64] ++
   [0x90BEFFFA23631E28#64, 0xA4506CEBDE82BDE9#64, 0xBEF9A3F7B2C67915#64, 0xC67178F2E372532B#64] ++
   [0xCA273ECEEA26619C#64, 0xD186B8C721C0C207#64, 0xEADA7DD6CDE0EB1E#64, 0xF57D4F7FEE6ED178#64] ++
   [0x06F067AA72176FBA#64, 0x0A637DC5A2C898A6#64, 0x113F9804BEF90DAE#64, 0x1B710B35131C471B#64] ++
   [0x28DB77F523047D84#64, 0x32CAAB7B40C72493#64, 0x3C9EBE0A15C9BEBC#64, 0x431D67C49C100D4C#64] ++
   [0x4CC5D4BECB3E42B6#64, 0x597F299CFC657E2A#64, 0x5FCB6FAB3AD6FAEC#64, 0x6C44198C4A475817#64]

/-- The initial hash value. -/
def shaInit : List DWord :=
  [0x6A09E667F3BCC908#64, 0xBB67AE8584CAA73B#64, 0x3C6EF372FE94F82B#64, 0xA54FF53A5F1D36F1#64] ++
   [0x510E527FADE682D1#64, 0x9B05688C2B3E6C1F#64, 0x1F83D9ABFB41BD6B#64, 0x5BE0CD19137E2179#64]

/-- The small sigma functions of the message schedule. -/
def shaSmall (r1 r2 k : Nat) (x : DWord) : DWord := x.rotateRight r1 ^^^ x.rotateRight r2 ^^^ (x >>> k)

/-- The big sigma functions of a round. -/
def shaBig (r1 r2 r3 : Nat) (x : DWord) : DWord := x.rotateRight r1 ^^^ x.rotateRight r2 ^^^ x.rotateRight r3

/-- The eight working variables of a round. -/
structure ShaVars where
  a : DWord
  b : DWord
  c : DWord
  d : DWord
  e : DWord
  f : DWord
  g : DWord
  h : DWord
deriving DecidableEq, Repr

/-- The word that follows sixteen words of the message schedule, the oldest first. -/
def shaNext (w : List DWord) : DWord :=
  shaSmall 19 61 6 (w.getD 14 0) + w.getD 9 0 + shaSmall 1 8 7 (w.getD 1 0) + w.getD 0 0

/-- One round with constant `k` and schedule word `w`. -/
def ShaVars.round (v : ShaVars) (k w : DWord) : ShaVars :=
  let t1 := v.h + shaBig 14 18 41 v.e + ((v.e &&& v.f) ^^^ (~~~v.e &&& v.g)) + k + w
  let t2 := shaBig 28 34 39 v.a + ((v.a &&& v.b) ^^^ (v.a &&& v.c) ^^^ (v.b &&& v.c))
  { a := t1 + t2, b := v.a, c := v.b, d := v.c, e := v.d + t1, f := v.e, g := v.f, h := v.g }

/-- The rounds of one block over the constants left; `w` holds the next sixteen schedule words. -/
def shaRounds : List DWord → List DWord → ShaVars → ShaVars
  | [], _, v => v
  | k :: ks, w, v => shaRounds ks (w.drop 1 ++ [shaNext w]) (v.round k (w.getD 0 0))

/-- The hash value after one block of sixteen words. -/
def shaBlock (hv w : List DWord) : List DWord :=
  let x (i : Nat) : DWord := hv.getD i 0
  let v := shaRounds shaK w ⟨x 0, x 1, x 2, x 3, x 4, x 5, x 6, x 7⟩
  [x 0 + v.a, x 1 + v.b, x 2 + v.c, x 3 + v.d, x 4 + v.e, x 5 + v.f, x 6 + v.g, x 7 + v.h]

/-- A big-endian number of bytes. -/
def beNat (bs : List Byte) : Nat := bs.foldl (fun n b => 256 * n + b.toNat) 0

/-- `n` big-endian bytes of a number. -/
def beBytes (v n : Nat) : List Byte := (leBytes v n).reverse

/-- The message padded to whole blocks: the bit 1, zeros, and its length in bits as 128 bits. -/
def shaPad (m : List Byte) : List Byte :=
  m ++ [0x80#8] ++ List.replicate ((239 - m.length % 128) % 128) 0 ++ beBytes (8 * m.length) 16

/-- The hash value of the blocks of a padded message; `n` bounds their number. -/
def shaBlocks : Nat → List Byte → List DWord → List DWord
  | 0, _, hv => hv
  | n + 1, m, hv =>
    shaBlocks n (m.drop 128) (shaBlock hv ((List.range 16).map (fun i => BitVec.ofNat 64 (beNat ((m.drop (8 * i)).take 8)))))

/-- The digest of a message as 64 bytes. -/
def shaBytes (m : List Byte) : List Byte :=
  let p := shaPad m
  (shaBlocks (p.length / 128) p shaInit).flatMap (fun x => beBytes x.toNat 8)

/-- SHA-512 of a byte string (R399 to R403): byte `i` of the digest is bits [8i+7:8i]. -/
def sha512 (m : List Byte) : BitVec 512 := BitVec.ofNat 512 (leNat (shaBytes m))

/-! ### RSASSA-PSS (R400) -/

/-- `x` squared `k` times modulo `n`. -/
def squarings (n : Nat) : Nat → Nat → Nat
  | 0, x => x
  | k + 1, x => squarings n k (x * x % n)

/-- A signature raised to the exponent 65,537 modulo `n` (Table 21.2). -/
def rsaOpen (n sig : Nat) : Nat := squarings n 16 sig * sig % n

/-- The mask generation function MGF1 with SHA-512. -/
def mgf1 (seed : List Byte) (len : Nat) : List Byte :=
  ((List.range ((len + 63) / 64)).flatMap (fun c => shaBytes (seed ++ beBytes c 4))).take len

/-- Whether a message of 512 bytes encodes a digest as EMSA-PSS with 4,095 bits and a 64-byte salt: trailer 0xBC, the leftmost
bit 0, 382 zero bytes, 0x01 and the salt under the mask, and the digest of eight zero bytes, the digest and the salt. -/
def pssDecode (digest : List Byte) (em : List Byte) : Bool :=
  let masked := em.take 447
  let h := (em.drop 447).take 64
  let db := (masked.zip (mgf1 h 447)).mapIdx (fun i x => if i = 0 then (x.1 ^^^ x.2) &&& 0x7F#8 else x.1 ^^^ x.2)
  let salt := db.drop 383
  em.getD 511 0 == 0xBC#8 && !(em.getD 0 0).getLsbD 7 && (db.take 382).all (· == 0) && db.getD 382 0 == 1#8
    && shaBytes (List.replicate 8 0 ++ digest ++ salt) == h

/-- A digest encoded as EMSA-PSS with 4,095 bits and a 64-byte salt. -/
def pssEncode (digest salt : List Byte) : List Byte :=
  let h := shaBytes (List.replicate 8 0 ++ digest ++ salt)
  let db := List.replicate 382 0 ++ [1#8] ++ salt
  (db.zip (mgf1 h 447)).mapIdx (fun i x => if i = 0 then (x.1 ^^^ x.2) &&& 0x7F#8 else x.1 ^^^ x.2) ++ h ++ [0xBC#8]

/-- `x` raised modulo `n` to an exponent of `k` bits, from its highest bit on. -/
def powMod (n x e : Nat) : Nat → Nat → Nat
  | 0, r => r
  | k + 1, r => powMod n x e k (if e.testBit k then r * r % n * x % n else r * r % n)

/-- The RSASSA-PSS signature of a digest by the key with modulus `n` and private exponent `d` (R400, R403), 512 big-endian bytes. -/
def pssSign (n d : Nat) (digest salt : BitVec 512) : List Byte :=
  beBytes (powMod n (beNat (pssEncode (leBytes digest.toNat 64) (leBytes salt.toNat 64))) d 4096 1) 512

/-- Whether a signature over a digest verifies under a 4,096-bit modulus (R400, step 3). Both are big-endian. -/
def pssVerify (digest : BitVec 512) (modulus signature : List Byte) : Bool :=
  let n := beNat modulus
  let x := beNat signature
  decide (2 ^ 4095 ≤ n) && decide (x < n) && pssDecode (leBytes digest.toNat 64) (beBytes (rsaOpen n x) 512)

end Sys2Proof.Machine
end

