-- ==== Sys2Proof/Machine/Sched.lean ====
section
/-!
DEFINITION. From launch to issue slot (19_scheduling.md): launch records and their checks, queue heads and dependences, the
placement of teams, the end of teams and grids.
-/

namespace Sys2Proof.Machine

/-! ### The launch record (R367 to R369, Table 19.1) -/

namespace LRec
variable (d : List DWord)
def segbase : DWord := d.getD 0 0
def entry : Nat := dwBits d 1 59 40
def t : Nat := dwBits d 1 19 8
def w : Nat := 8 * 2 ^ dwBits d 1 7 6
def wmin : Nat := 8 * 2 ^ dwBits d 1 5 4
def nv : Nat := 8 * (dwBits d 2 63 59 + 1)
def ns : Nat := 8 * (dwBits d 2 58 55 + 1)
def lmemUnits : Nat := dwBits d 2 54 44
def depth : Nat := dwBits d 2 43 36
def accb : Nat := dwBits d 2 35 31
def rstep : Nat := dwBits d 2 30 24
def narg : Nat := dwBits d 2 23 20
def nCopy : Nat := dwBits d 3 63 55
def nMat : Nat := dwBits d 3 54 46
def thv : Bool := dwBits d 3 41 41 == 1
def thandler : Nat := dwBits d 3 40 21
def dscope : Nat := dwBits d 3 20 18
def waitv : Bool := dwBits d 3 17 17 == 1
def waitaddr : DWord := d.getD 4 0
def waitval : Word := BitVec.ofNat 32 (dwBits d 5 63 32)
def rseed : DWord := d.getD 6 0
def done : DWord := d.getD 7 0
def arg (i : Nat) : Word := BitVec.ofNat 32 (dwBits d (8 + i / 2) (32 * (i % 2) + 31) (32 * (i % 2)))
def cdesc : DWord := d.getD 12 0
def ctbase : DWord := d.getD 13 0
def cfirst : Nat := dwBits d 14 63 32
def tpc : Nat := dwBits d 14 31 12
def cmode : Bool := dwBits d 14 11 11 == 1

/-- Bytes of local memory on each core (R368). -/
def lbytes : Nat := 256 * lmemUnits d + 8 * depth d * t d

/-- Whether a team takes a tandem (R12). -/
def tandem : Bool := decide (2048 < t d)

/-- Threads on the first core of a tandem (R202); all of them on a core. -/
def first : Nat := if tandem d then 64 * ((t d + 127) / 128) else t d

/-- Group slots reserved (R368). -/
def slots : Nat := t d / wmin d

/-- Whether a record is malformed (R369). `counter`: a launch counter submitted it. -/
def malformed (counter : Bool) : Bool :=
  dwBits d 1 63 60 != 0 || dwBits d 1 3 0 != 0 || dwBits d 2 19 0 != 0 || dwBits d 3 16 0 != 0 || dwBits d 5 31 0 != 0
    || dwBits d 14 10 0 != 0 || (d.getD 15 0) != 0
    || !canonical (segbase d) || bits (segbase d) 15 0 != 0
    || t d % 64 != 0 || decide (t d < 64) || decide (3072 < t d)
    || decide (w d < wmin d)
    || decide (11 < dwBits d 2 58 55) || decide (1536 < lmemUnits d) || decide (240 < depth d) || decide (16 < accb d)
    || decide (t d / w d < nCopy d + nMat d) || (nMat d != 0 && w d != 64)
    || decide (ns d ≤ rstep d) || decide (8 < narg d)
    || (done d).toNat % 16 != 0 || (waitv d && (waitaddr d).toNat % 8 != 0) || (cdesc d).toNat % 128 != 0
    || (if done d = 0 then dscope d != 0 else dscope d == 0 || decide (5 < dscope d))
    || (cdesc d != 0 && tpc d == 0) || (cmode d && !counter)

/-- Whether slot `s` lies on the first core. -/
def slotFirst (s : Nat) : Bool := decide (s * wmin d < first d)

/-- What a team is charged on a core (R368): threads, register bytes, slots in each partition, local memory and accumulator
blocks. `second`: on the second core of a tandem. -/
def charge (second : Bool) : Nat × Nat × List Nat × Nat × Nat :=
  let th := if second then t d - first d else first d
  let part (p : Nat) : Nat :=
    ((List.range (slots d)).filter (fun s => s % 4 == p && slotFirst d s != second)).length
  (th, th * nv d * 4, (List.range 4).map part, lbytes d, accb d)

end LRec

/-- What a core has free (R12, R368): threads, register bytes, slots in each partition, local memory, accumulator blocks. -/
structure CoreFree where
  threads : Nat
  regs : Nat
  slots : List Nat
  lmem : Nat
  acc : Nat
deriving DecidableEq, Repr

/-- An empty core. -/
def CoreFree.all : CoreFree := ⟨2048, 524288, [64, 64, 64, 64], 393216, 16⟩

/-- Whether a charge fits. -/
def CoreFree.fits (f : CoreFree) (c : Nat × Nat × List Nat × Nat × Nat) : Bool :=
  decide (c.1 ≤ f.threads) && decide (c.2.1 ≤ f.regs) &&
    (List.range 4).all (fun p => decide (c.2.2.1.getD p 0 ≤ f.slots.getD p 0)) &&
    decide (c.2.2.2.1 ≤ f.lmem) && decide (c.2.2.2.2 ≤ f.acc)

/-- Whether a record is unplaceable (R369). -/
def LRec.unplaceable (d : List DWord) : Bool :=
  !CoreFree.all.fits (LRec.charge d false) || (LRec.tandem d && !CoreFree.all.fits (LRec.charge d true))

/-! ### What is in use on a core -/

/-- Threads of a team on a core. -/
def Team.threadsOn (tm : Team) (core : Nat) : Nat :=
  let h := 64 * ((tm.t + 127) / 128)
  if tm.saved then 0
  else if tm.core = core then (if tm.tandem then h else tm.t)
  else if tm.tandem && tm.core + 1 = core then tm.t - h
  else 0

/-- Hardware slots of a team on a core (R376). -/
def Team.slotsOn (tm : Team) (core : Nat) : List Nat :=
  let h := 64 * ((tm.t + 127) / 128)
  if tm.saved then []
  else (tm.slots.zipIdx.filter (fun s =>
    let second := tm.tandem && decide (h ≤ s.2 * tm.wmin)
    (if second then tm.core + 1 else tm.core) == core)).map (·.1)

/-- Hardware slots in use on a core. -/
def State.slotsUsed (s : State) (core : Nat) : List Nat := s.teams.flatMap (fun t => t.2.slotsOn core)

/-- What a core has free. -/
def State.coreFree (s : State) (core : Nat) : CoreFree :=
  let th := (s.teams.map (fun t => t.2.threadsOn core)).foldl (· + ·) 0
  let rg := (s.teams.map (fun t => t.2.threadsOn core * t.2.nv * 4)).foldl (· + ·) 0
  let lm := (s.teams.map (fun t => if t.2.threadsOn core = 0 then 0 else t.2.lmem)).foldl (· + ·) 0
  let used := s.slotsUsed core
  ⟨2048 - th, 524288 - rg, (List.range 4).map (fun p => 64 - (used.filter (fun x => x % 4 == p)).length), 393216 - lm,
    16 - (s.accUsed core).length⟩

/-! ### Queue heads (R370, R371) -/

/-- The head of a queue replaced. -/
def State.setHead (s : State) (ctx q : Nat) (h : QRec) : State :=
  s.updQueue ctx q (fun x => { x with recs := match x.recs with | _ :: r => h :: r | [] => [] })

/-- Whether a watched COUNT has reached a value (R371). -/
def countReached (count target : Word) : Bool := decide ((count - target).toNat < 2 ^ 31)

/-- WAITADDR of a head translated, once (R371): it must lie in main memory of this module. -/
def State.waitTarget (s : State) (ctx : Nat) (h : QRec) : Except EStop (Target × State) :=
  match h.target with
  | some t => .ok (t, s)
  | none =>
    match s.engTarget hubCore ctx .engRead (LRec.waitaddr h.dws) with
    | .error e => .error e
    | .ok (t, s) => if t.ap != 0 then .error (.fault 0x05 1 .engRead (LRec.waitaddr h.dws)) else .ok (t, s)

/-- The COUNT at a place of main memory, read by the hub. -/
def State.countAt (s : State) (w : Who) (ctx : Nat) (t : Target) : Except EStop (Nat × State) :=
  if t.nowhere then .ok (0, s.log (.nonexistent ctx t.pa)) else s.physRead w ctx t.pa 8

/-- The dependence of a head examined (R371). -/
def State.examine (s : State) (ctx q : Nat) (h : QRec) : State :=
  let stop (h : QRec) (s : State) : EStop → State
    | .wait s => s.setHead ctx q h
    | .fault cause stage _ _ =>
      let (s, rid) := s.engineFault ctx hubCore 0 0 6 (16 * ctx + q) h.addr cause stage .engRead (LRec.waitaddr h.dws)
      s.setHead ctx q { h with fault := some rid }
  if !LRec.waitv h.dws then s.setHead ctx q { h with met := true }
  else
    match s.waitTarget ctx h with
    | .error e => stop h s e
    | .ok (t, s) =>
      let h := { h with target := some t }
      match s.countAt (headWho ctx q 1) ctx t with
      | .error e => stop h s e
      | .ok (v, s) => (s.forget (headWho ctx q 1)).setHead ctx q { h with met := countReached (BitVec.ofNat 32 v) (LRec.waitval h.dws) }

/-- QUEUE_HEAD: the head record of a queue is read and checked; one whose fault has been resolved is examined again. A record on a
peer or on the host is asked for, and looked at once its response has come; nothing is taken from `_data`. -/
def execQueueHead (ctx q : Nat) (_data : List Byte) (s : State) : Out :=
  let s := s.retryDone
  match ((s.ctx ctx).queue q).recs with
  | [] => .next s
  | h :: _ =>
    if h.fault.isSome || h.met then .next s
    else if !h.dws.isEmpty then .next (s.examine ctx q h)
    else
      match s.engLoadDws (headWho ctx q 0) hubCore ctx h.addr 16 with
      | .error (.wait s) => .next s
      | .error (.fault cause stage k va) =>
        let (s, rid) := (s.forget (headWho ctx q 0)).engineFault ctx hubCore 0 0 6 (16 * ctx + q) h.addr cause stage k va
        .next (s.setHead ctx q { h with fault := some rid })
      | .ok (d, s) =>
        let h := { h with dws := d }
        let s := (s.forget (headWho ctx q 0)).setHead ctx q h
        if LRec.malformed d h.counter.isSome then .next (s.headFails ctx q 1)
        else if LRec.unplaceable d then .next (s.headFails ctx q 2)
        else .next (s.examine ctx q h)

/-- DEPENDENCE_MET: the home slice reports a write to the watched COUNT, and the head may be placed (R371). -/
def execDependenceMet (ctx q : Nat) (s : State) : Out :=
  match ((s.ctx ctx).queue q).recs with
  | [] => .next s
  | h :: _ => if h.dws.isEmpty || h.met || h.fault.isSome then .next s else .next (s.examine ctx q h)

/-! ### Placement (R373 to R375) -/

/-- Whether a team of a record fits at a core: a core of the tenant's mask, or the first core of a tandem in it (R373, R374). -/
def State.fitsAt (s : State) (c : Ctx) (ctx : Nat) (d : List DWord) (core : Nat) : Bool :=
  let masked (x : Nat) : Bool := decide (x < Config.cores) && (ctx == 0 || c.cmask.getLsbD x)
  masked core && (s.coreFree core).fits (LRec.charge d false) &&
    (!LRec.tandem d || (core % 2 == 0 && masked (core + 1) && (s.coreFree (core + 1)).fits (LRec.charge d true)))

/-- Copy commands of a team with each of its cores, the first and the second (R152). -/
def State.copiesOf (s : State) (team core : Nat) : Nat := (s.copies.filter (fun c => c.2.team == team && c.2.core == core)).length

/-- Whether a saved team fits at a core of the die it left (R375), where the copy engines have places for its commands (R152). -/
def State.restoresAt (s : State) (ctx id : Nat) (tm : Team) (core : Nat) : Bool :=
  let d := tm.slots.zipIdx
  let h := 64 * ((tm.t + 127) / 128)
  let charge (second : Bool) : Nat × Nat × List Nat × Nat × Nat :=
    let th := if tm.tandem then (if second then tm.t - h else h) else tm.t
    let part (p : Nat) : Nat :=
      (d.filter (fun x => x.2 % 4 == p && (tm.tandem && decide (h ≤ x.2 * tm.wmin)) == second)).length
    (th, th * tm.nv * 4, (List.range 4).map part, tm.lmem, (if second then tm.acc1 else tm.acc0).blocks.length)
  let masked (x : Nat) : Bool := decide (x < Config.cores) && (ctx == 0 || (s.ctx ctx).cmask.getLsbD x)
  let places (i : Nat) : Bool := decide (s.copyQueue (core + i) + s.copiesOf id (tm.core + i) ≤ 64)
  core / 48 == tm.core / 48 && masked core && (s.coreFree core).fits (charge false) && places 0 && (!tm.tandem || places 1) &&
    (!tm.tandem || (core % 2 == 0 && masked (core + 1) && (s.coreFree (core + 1)).fits (charge true)))

/-- What the hub would place next for a context. -/
inductive Unplaced where
  | restore (team : Nat)
  | head (q : Nat)
deriving DecidableEq, Repr

/-- A head that may be placed. -/
def Queue.placeable (x : Queue) : Option QRec :=
  match x.recs with
  | h :: _ => if h.met && h.fault.isNone && !h.dws.isEmpty then some h else none
  | [] => none

/-- The next team of a context that fits at some core: a restored team first, else the head of the queue of highest priority,
equal ones in turn (R374, R375). -/
def State.nextOf (s : State) (ctx : Nat) : Option Unplaced :=
  let c := s.ctx ctx
  let cores := List.range Config.cores
  match s.teams.find? (fun t => t.2.ctx == ctx && t.2.saved) with
  | some t =>
    if c.res == .resuming && cores.any (fun k => s.restoresAt ctx t.1 t.2 k) then some (.restore t.1) else none
  | none =>
    if !(c.res == .running || c.res == .resuming) then none
    else
      let order (p : Nat) := (List.range 16).map (fun i => (c.rrq.getD p 15 + 1 + i) % 16)
      let fit (q : Nat) : Bool :=
        match (c.queue q).placeable with
        | some h => cores.any (fun k => s.fitsAt c ctx h.dws k)
        | none => false
      (((List.range 8).map (7 - ·)).findSome? (fun p =>
        (order p).find? (fun q => (c.queue q).prio.toNat == p && fit q))).map Unplaced.head

/-- The tenant that this placement opportunity goes to, and its team: the admitted tenants in turn (R374). The module kernel's
own queues are served like a tenant's. -/
def State.nextPlacement (s : State) : Option (Nat × Unplaced) :=
  ((List.range 64).map (fun i => (s.rrCtx + 1 + i) % 64)).findSome? (fun ctx =>
    if (s.ctx ctx).admits then (s.nextOf ctx).map (fun u => (ctx, u)) else none)

/-- Free hardware slots for a list of slots, each in the partition of its number (R211); which ones is unpredictable (R376): free
values from `salt` on. -/
def takeSlots : Nat → List Nat → List Nat → List Nat
  | _, _, [] => []
  | salt, used, p :: ps =>
    let fr := ((List.range 64).map (fun i => 4 * i + p)).filter (fun y => !used.contains y)
    let x := fr.getD (Config.freeNat salt % fr.length) p
    x :: takeSlots (salt + 1) (x :: used) ps

/-- The hardware slots of a team at a core, and the free values that chose them used up. -/
def State.slotsFor (s : State) (core n wmin first : Nat) : List Nat × State :=
  let ks := List.range n
  let mine (here : Bool) : List Nat := (ks.filter (fun k => decide (k * wmin < first) == here)).map (· % 4)
  (takeSlots s.fresh (s.slotsUsed core) (mine true) ++ takeSlots (s.fresh + n) (s.slotsUsed (core + 1)) (mine false),
    { s with fresh := s.fresh + 2 * n })

/-- A team as it is placed (R206, R373): registers and local memory zero, arguments in the scalar registers of every group,
every thread at the entry packet, and the region-entry snapshot there. -/
def newTeam (ctx grid index core : Nat) (d : List DWord) (slots : List Nat) (args : List Word) (a0 a1 : List Nat) : Team :=
  let pc : BitVec 24 := BitVec.ofNat 24 (12 * LRec.entry d)
  let th : Thread := { pc := pc, restart := pc }
  let sc : Regs := args.zipIdx.foldl (fun r a => Sparse.set 0 r a.2 a.1) []
  let w := LRec.w d
  let gr (g : Nat) : Group := { s := sc, hw := hwSlot slots (LRec.wmin d) (LRec.first d) w g, snapW := w }
  { ctx := ctx, grid := grid, index := index, core := core, tandem := LRec.tandem d, t := LRec.t d, w := w, wLaunch := w,
    wmin := LRec.wmin d, nv := LRec.nv d, ns := LRec.ns d, lmem := LRec.lbytes d, d := LRec.depth d, nCopy := LRec.nCopy d,
    nMat := LRec.nMat d, threads := List.replicate (LRec.t d) th, groups := (List.range (LRec.t d / w)).map gr,
    acc0 := { blocks := a0 }, acc1 := { blocks := a1 }, slots := slots, accb := LRec.accb d }

/-- The arguments of a grid's teams: ARG0 to ARG(NARG − 1), with s0 and s1 of a launch counter in their place (R373). -/
def LRec.args (d : List DWord) (counter : Option (Word × Word)) : List Word :=
  let a := (List.range (LRec.narg d)).map (LRec.arg d)
  match counter with
  | some (x, y) => x :: y :: a.drop 2
  | none => a

/-- The grid of a head record started: `%gid` given, `%odo` latched, and the bound collective begun (R132, R207, R318,
R371). -/
def State.startGrid (s : State) (ctx q : Nat) (h : QRec) : State × Nat :=
  let d := h.dws
  let c := s.ctx ctx
  let id := s.nextId
  let gd : Grid :=
    { ctx := ctx, gid := c.nextGid, odo := c.odometer, segbase := LRec.segbase d, lrec := h.addr, entry := LRec.entry d,
      rseed := LRec.rseed d, rstep := LRec.rstep d, thv := LRec.thv d, thandler := LRec.thandler d, dws := d,
      counter := h.counter, queue := q }
  let s : State := { s with grids := put s.grids id gd, nextId := id + 1 }
  let s := s.updCtx ctx (fun c => { c with nextGid := c.nextGid + 1 })
  let s := s.setHead ctx q { h with grid := some id }
  let s :=
    if LRec.cdesc d != 0 && !LRec.cmode d then
      s.newColl { ctx := ctx, desc := LRec.cdesc d, since := s.time,
                  bind := some { grid := id, ctbase := LRec.ctbase d, cfirst := LRec.cfirst d, tpc := LRec.tpc d,
                                 teams := LRec.teams d } }
    else s
  (s, id)

/-- The next team of a queue's head placed at a core (R371, R373). The acquire that the record's submission and its dependence
are takes effect in the core's L1. -/
def State.placeHead (s : State) (ctx q core : Nat) (h : QRec) : State :=
  let d := h.dws
  let (s, gid) := match h.grid with | some g => (s, g) | none => s.startGrid ctx q h
  let h := { h with grid := some gid }
  let n := LRec.accb d
  let r := Config.freeNat s.fresh % 4
  let a0 := freeBlocks (s.accUsed core) r n
  let a1 := if LRec.tandem d then freeBlocks (s.accUsed (core + 1)) r n else []
  let (slots, s) := s.slotsFor core (LRec.slots d) (LRec.wmin d) (LRec.first d)
  let tm := newTeam ctx gid h.placed core d slots (LRec.args d h.counter) a0 a1
  let id := s.nextId
  let s : State := { s with teams := put s.teams id tm, nextId := id + 1, fresh := s.fresh + 1, rrCtx := ctx }
  let s : State := { s with grids := s.grids.map (fun (g : Nat × Grid) => if g.1 = gid then (g.1, { g.2 with placed := g.2.placed + 1 }) else g) }
  let s := s.updCtx ctx (fun c => { c with rrq := setAt c.rrq (c.queue q).prio.toNat q })
  let s := s.flushL1 core
  let s := if LRec.tandem d then s.flushL1 (core + 1) else s
  if h.placed + 1 = LRec.teams d then s.updQueue ctx q (fun x => { x with recs := x.recs.drop 1 })
  else s.setHead ctx q { h with placed := h.placed + 1 }

/-- Side-log entries of a saved context put back, in sequence order, each on the core where its team now is, as entries of the
log are free (R127, R392). -/
def State.reinsert (s : State) (ctx : Nat) : State :=
  (s.ctx ctx).image.slog.foldl (fun (s : State) e =>
    let keep (s : State) : State := s.updCtx ctx (fun c => { c with image := { slog := c.image.slog ++ [e] } })
    let core : Option Nat :=
      match s.team? e.2.team with
      | some tm => if tm.saved then none else some (tm.coreOf e.2.grp)
      | none => some e.1
    match core with
    | none => keep s
    | some k =>
      if (s.ctx ctx).image.slog.any (fun x => x.1 == e.1) || decide (256 ≤ (s.core k).slog.length) then keep s
      else s.addLog k [e.2]) (s.updCtx ctx (fun c => { c with image := {} }))

/-- Lanes of a context's partly performed instructions that were refused, and whose fault has been answered or dropped with the save:
they are still to be tried again (R391). -/
def State.toRetry (s : State) (ctx : Nat) : List Req :=
  s.reqs.filter (fun r =>
    r.ctx == ctx && !r.isStore && (match r.state with | .refused _ => true | _ => false) &&
      !s.faultQ.any (fun f => f.2.what == .req r.instr r.lane) &&
      (match s.team? r.team with | some tm => !tm.saved | none => false))

/-- They are tried again; one whose translation needs a table that is away stays for later (R79). -/
def State.retryLanes (s : State) (ctx : Nat) : State :=
  (s.toRetry ctx).foldl (fun (s : State) r => match s.resolveReq r.instr r.lane with | .ok s => s | .error s => s) s

/-- A RESUME ends when every saved team is placed, every entry is in the log and every partly performed instruction is under way again
(R392): the engines go on. -/
def State.resumeEnds (s : State) (ctx : Nat) : State :=
  if (s.ctx ctx).res != .resuming || !(s.ctx ctx).image.slog.isEmpty || s.teams.any (fun t => t.2.ctx == ctx && t.2.saved)
    || !(s.toRetry ctx).isEmpty then s
  else
    let s := s.updCtx ctx (fun c => { c with res := .running })
    let s : State := { s with
      preempt := if s.preempt = some (2, ctx) then none else s.preempt
      mats := s.mats.map (fun (c : Nat × MatCmd) => if c.2.ctx = ctx then (c.1, { c.2 with saved := false }) else c) }
    let s := s.resumeCopies ctx
    let s := s.flows.foldl (fun (s : State) x => if x.1 / 1024 = ctx then s.flowPump x.1 else s) s
    (s.answerAll ctx).collPump

/-- A saved team placed again (R375, R392): on the die it left, with what a save holds; its commands move to its core. -/
def State.restoreTeam (s : State) (id core : Nat) (tm : Team) : State :=
  let r := Config.freeNat s.fresh % 4
  let a0 := freeBlocks (s.accUsed core) r tm.acc0.blocks.length
  let a1 := if tm.tandem then freeBlocks (s.accUsed (core + 1)) r tm.acc1.blocks.length else []
  let first := if tm.tandem then 64 * ((tm.t + 127) / 128) else tm.t
  let (slots, s) := s.slotsFor core tm.slots.length tm.wmin first
  let old := tm.core
  let moved (k : Nat) : Nat := core + (k - old)
  let tm' := { tm with
    core := core, saved := false, slots := slots
    acc0 := { tm.acc0 with blocks := a0 }, acc1 := { tm.acc1 with blocks := a1 }
    groups := tm.groups.mapIdx (fun g gr => { gr with hw := hwSlot slots tm.wmin tm.first tm.w g }) }
  let arr (c : MatCmd) : Nat := (tm'.acc (tm'.onSecondCore c.grp)).blocks.getD (Par.row c.dws / 64) c.arr
  let s : State := { s with teams := put s.teams id tm', fresh := s.fresh + 1, rrCtx := tm.ctx }
  let s : State := { s with
    copies := s.copies.map (fun (c : Nat × CopyCmd) => if c.2.team = id then (c.1, { c.2 with core := moved c.2.core }) else c)
    mats := s.mats.map (fun (c : Nat × MatCmd) => if c.2.team = id then (c.1, { c.2 with core := moved c.2.core, arr := arr c.2 }) else c)
    reqs := s.reqs.map (fun (x : Req) => if x.team = id && !x.isStore then { x with core := moved x.core } else x) }
  let s := s.flushL1 core
  let s := if tm.tandem then s.flushL1 (core + 1) else s
  ((s.retryLanes tm.ctx).reinsert tm.ctx).resumeEnds tm.ctx

/-- TEAM_PLACEMENT: the team whose turn it is, at a core that fits it; the core is unpredictable (R373). -/
def execTeamPlacement (core : Nat) (s : State) : Out :=
  match s.nextPlacement with
  | none =>
    -- a resume whose teams are all placed waits for free entries of the side log
    .next ((List.range 64).foldl (fun (s : State) c => if (s.ctx c).res == .resuming then ((s.retryLanes c).reinsert c).resumeEnds c else s) s)
  | some (ctx, .restore id) =>
    match s.team? id with
    | some tm => if s.restoresAt ctx id tm core then .next (s.restoreTeam id core tm) else .next s
    | none => .next s
  | some (ctx, .head q) =>
    match ((s.ctx ctx).queue q).placeable with
    | some h => if s.fitsAt (s.ctx ctx) ctx h.dws core then .next (s.placeHead ctx q core h).collPump else .next s
    | none => .next s

/-! ### The end of teams and grids (R318, R319, R338, R372) -/

/-- Whether every group of a team has ended and every command that it issued (R338). The rule names copy commands and drains; an `mma`
still under way on the team's rows is awaited too (DESIGN CHOICE, log entry 31). -/
def State.teamDone (s : State) (id : Nat) (tm : Team) : Bool :=
  !tm.saved && tm.threads.all (·.exited) && !s.copies.any (fun c => c.2.team == id) && !s.mats.any (fun c => c.2.team == id && !c.2.ended)

/-- What the end of a team does to the collective bound to its grid (R318, R319): chunks fire, or the arrival that it reduced
goes onward. -/
def State.fire (s : State) (id : Nat) (tm : Team) (gd : Grid) : State :=
  if LRec.cdesc gd.dws = 0 || tm.killed then s
  else if !LRec.cmode gd.dws then
    { s with
      colls := s.colls.map (fun (c : Nat × Coll) =>
        match c.2.bind with
        | some b => if b.grid = tm.grid then (c.1, { c.2 with bind := some { b with ended := (tm.index, id) :: b.ended } }) else c
        | none => c) }
  else
    let s0 := (gd.counter.map (·.1)).getD 0
    let seq := (s0.toNat + tm.index) % 2 ^ 32
    match s.colls.find? (fun c => c.2.ctx == gd.ctx && c.2.desc == LRec.cdesc gd.dws && c.2.ended.isNone
        && c.2.staged.any (fun x => x.1 == seq)) with
    | some c => s.updColl c.1 (fun c => { c with ready := c.ready ++ [(seq, id)] })
    | none => s

/-- Whether the accesses of a grid's ended teams are all performed (R372). -/
def State.gridQuiet (s : State) (gd : Grid) : Bool := gd.gone.all (s.teamQuiet gd.ctx)

/-- GRID_DONE: the grids whose teams have all ended, and whose accesses are performed, write their DONE records (R372). A
collective with a chunk of a grid's that never fired fails, once its descriptor has been read (R318). -/
def State.settleGrids (s : State) : State :=
  s.grids.foldl (fun (s : State) g =>
    let gd := g.2
    let n := LRec.teams gd.dws
    if gd.ended < n || !s.gridQuiet gd then s
    else
      let st := if gd.clean = n then 0 else 4
      let ends (c : Coll) : Coll :=
        let c := { c with bind := c.bind.map (fun b => if b.grid = g.1 then { b with closed := true } else b) }
        if c.bind.any (fun b => b.grid == g.1) && !c.dws.isEmpty && c.orphaned && c.status = 0 then { c with status := 3 } else c
      let s : State := { s with
        grids := del s.grids g.1
        colls := s.colls.map (fun (c : Nat × Coll) => (c.1, ends c.2)) }
      let s := if st = 0 then s else s.updQueue gd.ctx gd.queue (fun x => { x with err := BitVec.ofNat 8 st })
      if LRec.done gd.dws = 0 then s
      else s.postDone { ctx := gd.ctx, addr := LRec.done gd.dws, scope := dwBits gd.dws 3 20 18, status := st, bytes := gd.clean }) s

/-- TEAM_END: the reservations of a team are released, the chunks bound to it fire, and the grid may end (R338). For a team that
is gone, only the grids are looked at again. -/
def execTeamEnd (team : Nat) (s : State) : Out :=
  match s.team? team with
  | none => .next s.settleGrids.collPump
  | some tm =>
    if !s.teamDone team tm then .next s
    else
      let s := match s.gridOf tm with | some gd => s.fire team tm gd | none => s
      let s : State := { s with
        teams := del s.teams team
        mats := s.mats.filter (fun (c : Nat × MatCmd) => c.2.team != team)
        grids := s.grids.map (fun (g : Nat × Grid) =>
          if g.1 = tm.grid then
            (g.1, { g.2 with ended := g.2.ended + 1, clean := g.2.clean + (if tm.killed then 0 else 1), gone := team :: g.2.gone })
          else g) }
      .next s.settleGrids.collPump

/-! ### Queue control (R370, Table 19.2) -/

/-- QUEUE_CONTROL_WRITE: PRIO and EN (Table 19.2). -/
def execQueueControlWrite (ctx q : Nat) (v : DWord) (s : State) : Out :=
  if 64 ≤ ctx || 16 ≤ q then .next s
  else .next (s.updQueue ctx q (fun x => { x with prio := BitVec.ofNat 3 (bits v 3 1), en := bit v 0 }))

/-- The queue control register as read (Table 19.2). -/
def Queue.reg (x : Queue) : DWord :=
  BitVec.ofNat 64 (x.recs.length * 2 ^ 32 + x.err.toNat * 2 ^ 24 + x.prio.toNat * 2 + if x.en then 1 else 0)

end Sys2Proof.Machine
end

