-- ==== Sys2Proof/Machine/Preempt.lean ====
section
/-!
DEFINITION. Pre-emption (R389 to R393): SAVE in its two phases and RESUME. The image layout is opaque, so a saved team, its
engine commands and its side-log entries are kept as they are, off the cores; the bytes written to the save area are free values.
-/

namespace Sys2Proof.Machine

/-- Whether a request is of an instruction that closes a region: an atomic with a result, or `ld.fwc` (Table 20.3). -/
def Req.closing (r : Req) : Bool :=
  r.clear || (match r.op with | .atom _ _ _ ret => ret | .cas => true | _ => false)

/-- Whether a group waits for the acknowledgement of a `tok.rel` (R393). -/
def State.releasing (s : State) (team grp : Nat) (gr : Group) : Bool :=
  s.tokenOps.any (fun o => o.release && o.team == team && o.grp == grp) ||
    (gr.held.isSome && (match gr.hold with | some (.answered _) => true | _ => false))

/-- A group dropped to its restart points (R390, R392): what it waits for is forgotten, and every thread that has not exited
stands at its restart point with the %meet of its snapshot. A partly performed instruction is kept with its remaining lanes
(R391), and a `trap` or `brk` that the module kernel has not answered is kept where it stands (R393): `skip` says that there is
one, and `recs` are the records that still hold the group. -/
def Team.dropGroup (tm : Team) (g : Nat) (skip : Bool) (recs : List Nat) : Team :=
  let gr := tm.group g
  let part : Bool := gr.held.isSome && gr.partInstr.isSome && gr.partCloses
  let partMask : BitVec 64 := match gr.held with | some is => if part then is.mask else 0 | none => 0
  let stays (l : Nat) (x : Thread) : Bool :=
    partMask.getLsbD l || (skip && !x.held && x.pc == gr.frame.epc)
  let tm := tm.updLanes g (fun l x =>
    if x.exited then x
    else if stays l x then { x with waiting := none }
    else { x with pc := x.restart, meet := x.restartMeet, waiting := none, held := x.held && gr.inh })
  let tm := tm.updGroup g (fun gr =>
    { gr with
      parked := false, loads := 0, faults := recs, pend := gr.pend.filter (·.closes), pendRegs := [],
      hold := (match gr.hold with | some .finish => some .finish | _ => none)
      held := if part then gr.held else none
      lanesDone := if part then gr.lanesDone else 0
      laneSnaps := if part then gr.laneSnaps else []
      partInstr := if part then gr.partInstr else none
      partSaved := part
      lcount := if part then gr.lcount else gr.snapLcount
      repidx := if part then gr.repidx else gr.snapRepidx
      repMask := if part then gr.repMask else gr.snapRepMask })
  tm.settle g

/-- The records that go on holding a dropped group (R393): those of unanswered `trap` and `brk` words (`true`), those of other traps
that went to the module kernel, and those of lanes of a partly performed instruction. The access of a memory fault is redone instead. -/
def State.keptRecords (s : State) (gr : Group) : Bool × List Nat :=
  let what (rid : Nat) : Option FaultFor := (look s.faultQ rid).map (·.what)
  let lane (w : Option FaultFor) : Bool :=
    match w with
    | some (.req i l) => s.reqs.any (fun r => r.instr == i && r.lane == l && r.closing)
    | _ => false
  let trap (rid : Nat) : Bool :=
    match look s.faultQ rid with
    | some r => r.what == .skip || (r.what == .retry && decide (bits r.info 63 56 < 0x20))
    | none => false
  (gr.faults.any (fun rid => what rid == some .skip), gr.faults.filter (fun rid => trap rid || lane (what rid)))

/-- A team dropped, but for the groups that wait for the acknowledgement of a `tok.rel` (R390, R393). -/
def State.dropTeam (s : State) (id : Nat) (tm : Team) : State :=
  let tm' := (List.range tm.groups.length).foldl (fun (tm : Team) g =>
    let gr := tm.group g
    if s.releasing id g gr then tm else tm.dropGroup g (s.keptRecords gr).1 (s.keptRecords gr).2) tm
  s.setTeam id tm'

/-- Every group of a context dropped: the results of instructions that close no region are discarded, late ones too (R390). -/
def State.dropCtx (s : State) (ctx : Nat) : State :=
  let mine := s.teams.filter (fun t => t.2.ctx == ctx && !t.2.saved)
  let s := mine.foldl (fun (s : State) t => s.dropTeam t.1 t.2) s
  let kept (o : TokenOp) : Bool := o.release || !mine.any (fun t => t.1 == o.team)
  { s with
    reqs := (s.reqs.filter (fun r => r.ctx != ctx || r.isStore || r.closing)).map (fun (r : Req) =>
      if r.ctx = ctx then { r with counts := false } else r)
    tokenOps := s.tokenOps.filter kept }

/-- Whether a result of a closing instruction of a group has not returned (R390). -/
def State.owes (s : State) (team g : Nat) (gr : Group) : Bool :=
  s.reqs.any (fun r => r.team == team && r.grp == g && r.closing && !r.isStore) || gr.pend.any (·.closes)

/-- Whether every group of a context counts as dropped (R390). -/
def State.dropped (s : State) (ctx : Nat) : Bool :=
  s.teams.all (fun t =>
    t.2.ctx != ctx || t.2.saved ||
      (List.range t.2.groups.length).all (fun g =>
        let gr := t.2.group g
        !s.releasing t.1 g gr && (!s.owes t.1 g gr || gr.hold == some .finish || gr.held.isSome)))

/-- STOPPED (Table 20.4): the context of the SAVE in progress has stopped. Engine commands stop at once: each of their pieces is
one step. -/
def State.stopped (s : State) : Bool :=
  match s.preempt with
  | some (1, ctx) => (s.ctx ctx).res == .writing || ((s.ctx ctx).res == .stopping && s.dropped ctx)
  | _ => false

/-- Cores of a context's core mask (R374). -/
def maskCores (m : BitVec 192) : Nat := ((List.range Config.cores).filter (fun c => m.getLsbD c)).length

/-- BASE and LEN of SAVEAREA (Table 20.4), in bytes. -/
def saveBase (v : DWord) : Nat := bits v 63 34 * 2 ^ 21
def saveLen (v : DWord) : Nat := bits v 33 18 * 2 ^ 21

/-- Whether a save area lies below the top of main memory (Table 20.4). -/
def saveBaseOk (v : DWord) : Bool := decide (saveBase v < Config.carveOut)

/-- A command refused: its ERR, and nothing else changes (R389). -/
def State.preemptFails (s : State) (e : Nat) : State := { s with preemptErr := e }

/-- SAVE of a context begins (R389, R390): placement and issue stop, the groups are dropped, and the engine commands stop at
their next boundary. -/
def State.saveBegins (s : State) (ctx : Nat) : State :=
  let s := s.updCtx ctx (fun c => { c with res := .stopping, saveAt := s.time })
  let s : State := { s with
    preempt := some (1, ctx), preemptErr := 0
    copies := s.copies.map (fun (c : Nat × CopyCmd) => if c.2.ctx = ctx then (c.1, { c.2 with saved := true }) else c)
    mats := s.mats.map (fun (c : Nat × MatCmd) => if c.2.ctx = ctx then (c.1, { c.2 with saved := true }) else c) }
  s.dropCtx ctx

/-- PREEMPT_SAVE: a write of PREEMPT with OP 1. It is ignored while a command is in progress (R389). -/
def execPreemptSave (ctx : Nat) (s : State) : Out :=
  let c := s.ctx ctx
  if s.preempt.isSome then .next s
  else if ctx = 0 || decide (64 ≤ ctx) || !c.created || c.res != .running then .next (s.preemptFails 2)
  else if decide (saveLen c.savearea < 3 * 2 ^ 20 * maskCores c.cmask + 2 * 2 ^ 20) then .next (s.preemptFails 1)
  else .next (s.saveBegins ctx)

/-- SAVE_RESULT_TIMEOUT: 10 µs after the save began, an instruction whose result has not returned is partly performed (R390,
R391). -/
def execSaveResultTimeout (team grp : Nat) (s : State) : Out :=
  match s.team? team with
  | none => .next s
  | some tm =>
    let c := s.ctx tm.ctx
    if c.res == .stopping && !tm.saved && s.owes team grp (tm.group grp) && !s.releasing team grp (tm.group grp) &&
        decide (c.saveAt.toNat + 10000 ≤ s.time.toNat) then
      .next (s.updGroup team grp (fun gr => if gr.held.isSome then gr else { gr with hold := some .finish }))
    else .next s

/-- The side-log entries of a context, and its stores that were refused and wait for the log with what waits behind them, go into the image
in sequence order (R114, R127, R390). -/
def State.imageLog (s : State) (ctx : Nat) : State :=
  let logged := s.cores.flatMap (fun c => (c.2.slog.filter (fun e => e.ctx == ctx)).map (fun e => (c.1, e)))
  let heads := s.reqs.filter (fun r => r.ctx == ctx && r.isStore && (match r.state with | .refused _ => true | _ => false))
  let late := s.reqs.filterMap (fun r =>
    match heads.find? (fun h => decide (h.instr ≤ r.instr) && r.follows h) with
    | some h => if r.ctx = ctx then some (r, s.entryOf (match h.state with | .refused c => c | _ => 0) r) else none
    | none => none)
  let s : State := { s with
    cores := s.cores.map (fun c => (c.1, { c.2 with slog := c.2.slog.filter (fun e => e.ctx != ctx) }))
    reqs := s.reqs.filter (fun r => !late.any (fun x => x.1 == r)), nextInstr := s.nextInstr + 1 }
  let late := late.map (fun x => (x.1.core, x.2))
  s.updCtx ctx (fun c => { c with image := { slog := c.image.slog ++ logged ++ late } })

/-- The cores that hold a team. -/
def Team.cores (tm : Team) : List Nat := if tm.tandem then [tm.core, tm.core + 1] else [tm.core]

/-- The cores whose share of a context's image is to be written. -/
def State.shareOf (s : State) (ctx : Nat) : List Nat :=
  ((s.teams.filter (fun t => t.2.ctx == ctx && !t.2.saved)).flatMap (fun t => t.2.cores)).eraseDups

/-- A share of a context's image written to its save area: which bytes, within the area, is free (R389, R390, Table 20.5; DESIGN CHOICE,
log entry 55). -/
def State.writeImage (s : State) (ctx : Nat) : State :=
  let v := (s.ctx ctx).savearea
  let xs := (Config.saveImage s.fresh).filter (fun x => decide (x.1 < saveLen v / 32))
  let s := xs.foldl (fun (s : State) x => s.wr (saveBase v + 32 * x.1) 32 x.2) s
  { s with fresh := s.fresh + 1, poison := s.poison.filter (fun p => !xs.any (fun x => saveBase v / 32 + x.1 == p)) }

/-- The whole image is written: the side log is freed and the SAVE is done (R390). -/
def State.saveEnds (s : State) (ctx : Nat) : State :=
  ({ (s.imageLog ctx) with preempt := none } : State).updCtx ctx (fun c => { c with res := .saved, share := [] })

/-- SAVE_IMAGE_WRITTEN: a core's share of the image is written, and what the context held there is free (R390). The first one
comes after the context has stopped. -/
def execSaveImageWritten (core : Nat) (s : State) : Out :=
  match s.preempt with
  | some (1, ctx) =>
    let s := if (s.ctx ctx).res == .stopping then s.dropCtx ctx else s
    if !s.stopped then .next s
    else
      let share := if (s.ctx ctx).res == .stopping then s.shareOf ctx else (s.ctx ctx).share
      let share := share.erase core
      let s := s.writeImage ctx
      let s := s.updCtx ctx (fun c => { c with res := .writing, share := share })
      let s : State := { s with
        teams := s.teams.map (fun (t : Nat × Team) =>
          if t.2.ctx = ctx && t.2.cores.all (fun k => !share.contains k) then (t.1, { t.2 with saved := true }) else t) }
      .next (if share.isEmpty then s.saveEnds ctx else s)
  | _ => .next s

/-- PREEMPT_RESUME: a write of PREEMPT with OP 2: the saved teams may be placed again (R392). -/
def execPreemptResume (ctx : Nat) (s : State) : Out :=
  if s.preempt.isSome then .next s
  else if decide (64 ≤ ctx) || (s.ctx ctx).res != .saved then .next (s.preemptFails 2)
  else
    let s : State := { s with preempt := some (2, ctx), preemptErr := 0 }
    let s := s.updCtx ctx (fun c => { c with res := .resuming })
    .next (((s.retryLanes ctx).reinsert ctx).resumeEnds ctx)

/-- PREEMPT as read (Table 20.4). -/
def State.preemptReg (s : State) : DWord :=
  BitVec.ofNat 64 ((if s.preempt.isNone then 2 ^ 63 else 0) + s.preemptErr % 8 * 2 ^ 58 + (if s.stopped then 2 ^ 57 else 0))

end Sys2Proof.Machine
end

