-- ==== Sys2Proof/Machine/Host.lean ====
section
/-!
DEFINITION. Tenants, the host's windows, firmware and health (21_host_firmware_and_health.md): creating and resetting a
context, BAR2, boot, recovery, measurement, attestation, management messages, thermal limits, wear and power.
-/

namespace Sys2Proof.Machine

/-! ### Tenants (R397, R398) -/

/-- TENANT_CREATE: a context with its decode table (map 0 M3, 1 M2), domain tag, table root, side-log limit and flow deadline,
and its virtual function enabled (R56, R61, R123, R397). A context is created once, with a deadline of 1 ms to 10 s (R2, R192); in
recovery no virtual function enumerates (R402). -/
def execTenantCreate (ctx map dtag root limit deadline : Nat) (s : State) : Out :=
  if ctx = 0 || 64 ≤ ctx || (s.ctx ctx).created || 2 ≤ map || 224 < limit || root % 4096 != 0 || deadline < 1000
      || 10000000 < deadline || s.fw.st = 3 then .next s
  else
    .next (s.setCtx ctx
      { s.ctx ctx with
        created := true, decode := { base := map + 1 }, dtag := dtag % 2 ^ 16, root := root % 2 ^ 51, sideLimit := limit
        flowDl := BitVec.ofNat 32 deadline })

/-- What a tenant reset leaves of a context (R123, R132, R239, R398), which is in progress until `State.resetDone`. -/
def Ctx.afterReset (c : Ctx) : Ctx :=
  { c with
    resetting := true
    exc := c.exc.map (fun x => { x with total := 0, wcnt := 0, fired := false })
    mbox := [], winbase := 0, image := {}, share := [], res := .running
    queues := c.queues.map (fun q => (q.1, { q.2 with recs := [], en := false })) }

/-- The context that a piece of work of an engine belongs to. -/
def State.whoCtx (s : State) (w : Who) : Option Nat :=
  match w.kind with
  | 1 => (look s.copies w.id).map (·.ctx)
  | 2 => (look s.mats w.id).map (·.ctx)
  | 3 => some (w.id / 1024)
  | 4 => (look s.colls w.id).map (·.ctx)
  | 5 => (look s.doneJobs w.id).map (·.ctx)
  | 6 => some (w.id / 16)
  | 7 => (look s.trigs w.id).map (·.ctx)
  | _ => (s.team? w.id).map (·.ctx)

/-- The doorbells of a function that still wait are refused (R396). -/
def State.refuseBells (s : State) (vf : Nat) : State :=
  let bell (h : HostOp) : Bool := h.kind == 2 && h.vf == vf
  let bits := (s.hostQ.filter bell).foldl (fun (b : BitVec 16) h => b ||| BitVec.ofNat 16 (2 ^ h.a)) 0
  ({ s with hostQ := s.hostQ.filter (fun h => !bell h) } : State).updCtx vf (fun c => { c with dbstat := c.dbstat ||| bits })

/-- A tenant's work discarded (R19, R127, R196, R325, R398): what its retired stores and its requests to peers still do is done;
the answers of the latter find nobody. -/
def State.resetTenant (s : State) (ctx : Nat) : State :=
  let own (t : Nat) : Bool := match s.team? t with | some tm => tm.ctx == ctx | none => false
  let s := (s.flows.filter (fun f => f.1 / 1024 == ctx && f.2.v)).foldl (fun (s : State) f => s.flowDestroy f.1 f.2) s
  let lost (r : Req) : Bool := r.ctx == ctx && (!r.isStore || (match r.state with | .refused _ => true | _ => false))
  let swept (i : Nat) : Bool := swCtx (s.sweep i) == ctx
  let work (w : Who) : Bool := s.whoCtx w == some ctx
  let s := s.forgetAll work
  let s : State := { s with
    tokenOps := s.tokenOps.filter (fun o => !own o.team)
    teams := s.teams.filter (fun t => t.2.ctx != ctx)
    grids := s.grids.filter (fun g => g.2.ctx != ctx)
    copies := s.copies.filter (fun c => c.2.ctx != ctx)
    mats := s.mats.filter (fun c => c.2.ctx != ctx)
    colls := s.colls.filter (fun c => c.2.ctx != ctx)
    early := s.early.filter (fun e => e.1 / 1024 != ctx)
    trigs := s.trigs.filter (fun t => t.2.ctx != ctx)
    doneJobs := s.doneJobs.filter (fun j => j.2.ctx != ctx)
    hostdbs := s.hostdbs.filter (fun h => h.ctx != ctx)
    faultQ := s.faultQ.filter (fun f => f.2.ctx != ctx)
    answers := s.answers.filter (fun a => (look s.faultQ a.1).any (·.ctx != ctx))
    excQ := s.excQ.filter (fun e => e.ctx != ctx)
    memEvs := s.memEvs.filter (fun e => e.ctx != ctx)
    waitQ := s.waitQ.filter (fun w => match w.msg with | .request _ _ r => !lost r | _ => true)
    reqs := s.reqs.filter (fun r => !lost r)
    passes := s.passes.filter (fun p => !swept p.1)
    sweeps := s.sweeps.map (fun e => (e.1, if swCtx e.2 = ctx then e.2 &&& ~~~(3#128) else e.2))
    cores := s.cores.map (fun c => (c.1, { c.2 with
      slog := c.2.slog.filter (fun e => e.ctx != ctx), tlb := c.2.tlb.filter (fun e => e.ctx != ctx),
      utlb := c.2.utlb.filter (fun e => e.2.ctx != ctx), walks := c.2.walks.filter (fun e => e.ctx != ctx),
      replays := c.2.replays.filter (· != ctx) }))
    preempt := match s.preempt with | some (op, c) => if c = ctx then none else some (op, c) | none => none }
  (s.refuseBells ctx).updCtx ctx Ctx.afterReset

/-- A tenant reset ends with INTSTAT[3] (R398). -/
def State.resetDone (s : State) (ctx : Nat) : State :=
  if (s.ctx ctx).resetting then (s.updCtx ctx (fun c => { c with resetting := false })).raiseInt ctx 3 else s

/-- TENANT_RESET begins (R398). -/
def execTenantReset (ctx : Nat) (s : State) : Out :=
  if ctx = 0 || 64 ≤ ctx || !(s.ctx ctx).created then .next s else .next (s.resetTenant ctx).collPump

/-! ### BAR2 and the doorbells (R395, R396) -/

/-- WINBASE_WRITE (Table 21.1). -/
def execWinbaseWrite (vf : Nat) (v : DWord) (s : State) : Out :=
  if !(s.ctx vf).created || vf = 0 || bits v 63 51 != 0 then .next s
  else .next (s.updCtx vf (fun c => { c with winbase := BitVec.ofNat 64 (v.toNat / 2 ^ 36 * 2 ^ 36) }))

/-- Bytes of the window of a function: 512 MiB for the physical function, 64 GiB for a virtual one. -/
def windowBytes (vf : Nat) : Nat := if vf = 0 then 2 ^ 29 else 2 ^ 36

/-- What `n` bytes at an offset of a function's window name (R395): aperture and address; none where no range allows it.
The physical function's window begins at the carve-out. -/
def State.window (s : State) (vf off n : Nat) (write : Bool) : Option (Nat × Nat) :=
  if vf = 0 then some (0, Config.carveOut + off)
  else if !(s.ctx vf).created then none
  else
    let g := (s.ctx vf).winbase.toNat + off
    match rangeHit (s.ctx vf).ranges 0 g with
    | none => none
    | some (_, e) =>
      if (if write then rWr e else rRd e) && rHit e 0 (g + n - 1) then some (rTap e, rTarget e g) else none

/-- Whether an access is of one line of the window: the link splits larger ones. -/
def windowAccess (vf off n : Nat) : Bool :=
  decide (0 < n) && decide (off + n ≤ windowBytes vf) && decide (off / 128 = (off + n - 1) / 128)

/-- A host read of memory of a peer or of the host (R172, R174). -/
def State.hostReadAway (s : State) (vf ap pa n : Nat) : State :=
  match s.peerCause vf ap with
  | some _ => s.send (.readReply vf false [])
  | none => s.send (.hostRead vf ap pa n)

/-- A host write of memory of a peer or of the host; dropped and logged where it may not be sent. -/
def State.hostWriteAway (s : State) (vf ap pa : Nat) (bytes : List Byte) : State :=
  match s.peerCause vf ap with
  | some _ => s.log (.note 3 vf pa)
  | none => s.send (.hostWrite vf ap pa bytes)

/-- Whether a posted write of a function is still on its way to a home outside this module. -/
def State.postedOut (s : State) (vf : Nat) : Bool :=
  let posted (m : Msg) : Bool := match m with | .hostWrite c .. => c == vf | _ => false
  s.outst.any (fun o => posted o.msg) || s.waitQ.any (fun w => posted w.msg)

/-- A doorbell of queue `q` (R396): refused with its bit of DBSTAT, or its record appended. -/
def State.ring (s : State) (vf q : Nat) (v : DWord) : State :=
  if bits v 6 0 != 0 || !s.queueRoom vf q || (s.ctx vf).resetting then
    s.updCtx vf (fun c => { c with dbstat := c.dbstat ||| BitVec.ofNat 16 (2 ^ q) })
  else s.submit vf q v none

/-- An access of a host driver tried, and whether it has been made. A line that a recall or a migration's lock holds keeps it waiting, and
a read or a doorbell also waits for the writes that its function posted before it (R396, and the order of PCI Express). A read of a
poisoned sector completes with Completer Abort. -/
def State.hostTry (s : State) (h : HostOp) : State × Bool :=
  if h.kind != 1 && s.postedOut h.vf then (s, false)
  else if h.kind = 2 then (s.ring h.vf h.a h.v, true)
  else
    let n := h.bytes.length
    match (if h.ap != 0 then Away.moved h.ap h.a else s.away h.a) with
    | .recall m r => (s.recallToken m r, false)
    | .locked => (s, false)
    | .moved ap pa => (if h.kind = 0 then s.hostReadAway h.vf ap pa h.n else s.hostWriteAway h.vf ap pa h.bytes, true)
    | .here =>
      if h.kind = 0 then
        (s.send (if s.poisoned h.a h.n then .readReply h.vf false [] else .readReply h.vf true (leBytes (s.rd h.a h.n) h.n)), true)
      else ((s.wr h.a n (leNat h.bytes)).settlePoison h.vf [(h.a, n)], true)

/-- The accesses of the host drivers that wait are tried, those of one function in their order. -/
def State.hostPump (s : State) : State :=
  (s.hostQ.foldl (fun (x : State × List Nat) h =>
    let wait (s : State) : State × List Nat := ({ s with hostQ := s.hostQ ++ [h] }, h.vf :: x.2)
    if x.2.contains h.vf then wait x.1
    else
      let r := x.1.hostTry h
      if r.2 then (r.1, x.2) else wait r.1) ({ s with hostQ := [] }, [])).1

/-- An access of a host driver arrives. -/
def State.hostArrives (s : State) (h : HostOp) : State := ({ s with hostQ := s.hostQ ++ [h] } : State).hostPump

/-- BAR2_READ: `n` bytes of one line. A read that no range allows completes with Completer Abort. -/
def execBar2Read (vf off n : Nat) (s : State) : Out :=
  if !windowAccess vf off n then .next s
  else
    match s.window vf off n false with
    | none => .next (s.send (.readReply vf false []))
    | some (ap, pa) => .next (s.hostArrives { vf := vf, kind := 0, ap := ap, a := pa, n := n })

/-- BAR2_WRITE: bytes of one line. A write that no range allows is dropped and logged. -/
def execBar2Write (vf off : Nat) (bytes : List Byte) (s : State) : Out :=
  let n := bytes.length
  if !windowAccess vf off n then .next s
  else
    match s.window vf off n true with
    | none => .next (s.log (.note 3 vf off))
    | some (ap, pa) => .next (s.hostArrives { vf := vf, kind := 1, ap := ap, a := pa, bytes := bytes })

/-- DOORBELL: the host rings queue `q` of a virtual function with the address of a record, behind what the function has sent before
(R396). -/
def execDoorbell (vf q : Nat) (v : DWord) (s : State) : Out :=
  if !(s.ctx vf).created || decide (16 ≤ q) || vf = 0 then .next s
  else .next (s.hostArrives { vf := vf, kind := 2, a := q, v := v })

/-! ### Firmware images (R399, R400, Table 21.2) -/

/-- `n` bytes of a byte store. -/
def storeBytes (m : List Host.Cell) (a n : Nat) : List Byte := (List.range n).map (fun i => Memory.byte m (a + i))

/-- The fields of an image header at an address of a byte store. -/
structure ImageHeader where
  magic : Nat
  format : Nat
  svn : Nat
  len : Nat
  load : Nat
  modulus : List Byte
  exponent : List Byte
  reserved : Bool
  signature : List Byte

/-- The header at an address (Table 21.2). `reserved`: a reserved byte is not zero. -/
def imageHeader (m : List Host.Cell) (a : Nat) : ImageHeader :=
  { magic := Memory.read m a 8, format := Memory.read m (a + 8) 4, svn := Memory.read m (a + 12) 4,
    len := Memory.read m (a + 16) 8, load := Memory.read m (a + 24) 8, modulus := storeBytes m (a + 32) 512,
    exponent := storeBytes m (a + 544) 4, reserved := (storeBytes m (a + 548) 3036).any (· != 0),
    signature := storeBytes m (a + 3584) 512 }

/-- "VBXSL940" as a little-endian number. -/
def imageMagic : Nat := 0x3034394C53584256

/-- What a signature covers: header bytes 0 to 3,583 and the body. -/
def imageDigest (m : List Host.Cell) (a len : Nat) : BitVec 512 :=
  sha512 (storeBytes m a 3584 ++ storeBytes m (a + 4096) len)

/-- The checks of R400 in their order, for an image of at most `limit` bytes: ERR of Table 21.3, 0 where it is accepted. -/
def imageError (m : List Host.Cell) (a limit fuses : Nat) : Nat :=
  let h := imageHeader m a
  if h.magic != imageMagic || h.format != 1 then 1
  else if h.reserved || h.len = 0 || decide (2 ^ 29 < 4096 + h.len) || decide (limit < 4096 + h.len)
      || decide (2 ^ 35 < h.load + h.len) then 5
  else if sha512 (h.modulus ++ h.exponent) != Config.romDigest then 2
  else if !pssVerify (imageDigest m a h.len) h.modulus h.signature then 3
  else if h.svn < fuses then 4
  else 0

/-- A measurement register extended (R401). -/
def Firmware.extend (f : Firmware) (i : Nat) (d : BitVec 512) : Firmware :=
  { f with m := updAt f.m i (fun x => sha512 (leBytes x.toNat 64 ++ leBytes d.toNat 64)) }

/-- The ROM boots the image in flash: the body at LOAD, M0 and M1 extended, the control complex started; or recovery (R400 to
R402). -/
def State.boot (s : State) : State :=
  let e := imageError s.fw.flash 0 (2 ^ 29) s.fw.fuses
  let h := imageHeader s.fw.flash 0
  if e != 0 then { s with fw := { s.fw with st := 3, err := e, svn := h.svn % 2 ^ 16 } }
  else
    let body := storeBytes s.fw.flash 4096 h.len
    let mem := body.zipIdx.foldl (fun m b => Memory.setByte m (Config.carveOut + h.load + b.2) b.1) s.mem
    let fw := (s.fw.extend 0 (imageDigest s.fw.flash 0 h.len)).extend 1
      (sha512 (leBytes h.svn 4 ++ leBytes s.fw.fuses 4))
    { s with mem := mem, fw := { fw with st := 2, err := 0, svn := h.svn % 2 ^ 16, running := h.svn } }

/-- The state after cold reset: what outlives it is the flash, the fuses and the identity (R400, R401), and in the model the
schedule, the free values drawn and what has left the module. Flash that was being programmed holds an image that fails R400 (R402; where
the board asserts RESET_N in the midst of it too: DESIGN CHOICE, log entry 104). -/
def State.coldReset (s : State) (powered : Bool) : State :=
  let r := State.reset
  { r with
    sched := s.sched, fresh := s.fresh, outbox := s.outbox
    fw := { r.fw with flash := if s.fw.prog.isSome then [] else s.fw.flash, erases := s.fw.erases, fuses := s.fw.fuses, serial := s.fw.serial,
                      powered := powered } }

/-- RESET_N_RELEASE: the board releases RESET_N with power good (R56, R399). After a thermal trip the rails must have been
cycled (R405). -/
def execResetNRelease (s : State) : Out := if s.fw.thermtrip then .next s else .next (s.coldReset true).boot

/-- The staged image, of at most `limit` bytes, is checked; one that passes is programmed into flash, and the ROM then reads it back
(`flashStep`), before which the power may fail (R402). -/
def State.program (s : State) (limit : Nat) : State :=
  let e := imageError s.mem Config.carveOut (min limit (2 ^ 29)) s.fw.fuses
  let h := imageHeader s.mem Config.carveOut
  if e != 0 then { s with fw := { s.fw with err := e, svn := h.svn % 2 ^ 16 } }
  else
    let n := 4096 + h.len
    { s with fw := { s.fw with
        err := 0, svn := h.svn % 2 ^ 16, prog := some n, erases := s.fw.erases + 1
        flash := (storeBytes s.mem Config.carveOut n).zipIdx.foldl (fun m b => Memory.setByte m b.2 b.1) [] } }

/-- RECOVERY_GO: a write of GO with the length of the staged image (R402, Table 21.3). -/
def execRecoveryGo (len : Nat) (s : State) : Out :=
  if s.fw.st != 3 || s.fw.prog.isSome then .next s else .next (s.program len)

/-- The programmed flash is compared with the staged image. After recovery the ROM boots from it, or stays in recovery; the running
firmware of an update in service goes on (R402). -/
def State.flashStep (s : State) : State :=
  match s.fw.prog with
  | none => s
  | some n =>
    let t : State := { s with fw := { s.fw with prog := none } }
    if storeBytes s.fw.flash 0 n != storeBytes s.mem Config.carveOut n then { t with fw := { t.fw with err := 6 } }
    else if s.fw.st = 3 then t.boot
    else t

/-- MEASUREMENT_EXTEND: firmware extends M2 to M7 (R401). -/
def execMeasurementExtend (i : Nat) (d : BitVec 512) (s : State) : Out :=
  if i < 2 || 8 ≤ i then .next s else .next { s with fw := s.fw.extend i d }

/-! ### Attestation and management (R403, R404) -/

/-- Bytes 0 to 603 of a report (Table 21.4). -/
def State.report403 (s : State) (ctx : Nat) (nonce : BitVec 512) : List Byte :=
  let map := if ctx = 0 then 0 else if (s.ctx ctx).decode.base = 2 then 1 else 0
  leBytes nonce.toNat 64 ++ leBytes s.fw.serial.toNat 16 ++ leBytes s.fw.running 4 ++ leBytes s.fw.fuses 4
    ++ s.fw.m.flatMap (fun m => leBytes m.toNat 64) ++ leBytes ctx 1 ++ leBytes map 1 ++ leBytes (s.ctx ctx).dtag 2

/-- A report built, signed as R400 gives and sent. The public part of the identity key and the private one are a pair where signatures
verify; the salt is free (log entry 104). -/
def State.attests (s : State) (ctx : Nat) (nonce : BitVec 512) : State :=
  let r := s.report403 ctx nonce
  let r := r ++ pssSign Config.identity.toNat Config.identityKey.toNat (sha512 r) (Config.salt s.fresh)
  ({ s with fresh := s.fresh + 1, fw := { s.fw with report := r } } : State).send (.attestation ctx r)

/-- ATTESTATION_REQUEST: through the physical function (`ctx` 0) or a virtual one. -/
def execAttestationRequest (ctx : Nat) (nonce : BitVec 512) (s : State) : Out :=
  if ctx != 0 && !(s.ctx ctx).created then .next s else .next (s.attests ctx nonce)

/-- A wear record as it resets: not yet predicted (Table 21.5). -/
def wearReset : BitVec 128 := 0xFFFFFFFFFFFF000000000000#128

/-- The record of an element, by 65,536 · KIND + INDEX. -/
def Firmware.wearOf (f : Firmware) (key : Nat) : BitVec 128 := (look f.wear key).getD wearReset

/-- The elements in the order of their records: 5 dies, 30 ports, 256 channels and the flash (R406). -/
def wearKey (k : Nat) : Nat :=
  if k < 5 then 0x10000 + k else if k < 35 then 0x20000 + (k - 5) else if k < 291 then 0x30000 + (k - 35) else 0x40000

/-- What a PLDM sensor reads (R404), under numbers of the model's own (log entry 104): from 0x1000 up the wear days of the elements,
below it temperatures and powers, which are measured. -/
def State.sensor (s : State) (n : Nat) : Nat :=
  if 0x1000 ≤ n && n < 0x1124 then bits (s.fw.wearOf (wearKey (n - 0x1000))) 63 48 else (Config.sensor n s.fresh).toNat

/-- A PLDM firmware update brings an image into the staging window, or names the one that stands there (R402, R404); what the host then has
is what RECCTL gives it in recovery. -/
def State.update (s : State) (image : List Byte) : State :=
  if s.fw.prog.isSome || !(s.fw.st == 2 || s.fw.st == 3) then s
  else
    let mem := (image.take (2 ^ 29)).zipIdx.foldl (fun m b => Memory.setByte m (Config.carveOut + b.2) b.1) s.mem
    ({ s with mem := mem } : State).program (if image.isEmpty then 2 ^ 29 else image.length)

/-- MCTP_MESSAGE: message types 0, 1 (PLDM types 0, 2 and 5) and 0x7E (R404). -/
def execMctpMessage (kind : Nat) (pldm : Pldm) (nonce : BitVec 512) (s : State) : Out :=
  if kind = 0x7E then .next (s.attests 0 nonce)
  else if kind != 1 then .next (s.send (.mctp kind pldm.type (kind == 0) []))
  else
    match pldm.type with
    | 0 => .next (s.send (.mctp 1 0 true []))
    | 2 => .next (({ s with fresh := s.fresh + 1 } : State).send (.mctp 1 2 true (leBytes (s.sensor pldm.sensor) 4)))
    | 5 => .next ((s.update pldm.image).send (.mctp 1 5 true []))
    | t => .next (s.send (.mctp 1 t false []))

/-- BOOTSTAT (Table 21.3). -/
def Firmware.bootstat (f : Firmware) : DWord :=
  BitVec.ofNat 64 ((if f.prog.isSome then 4 else f.st % 2 ^ 8) * 2 ^ 56 + f.err % 2 ^ 8 * 2 ^ 48 + f.svn % 2 ^ 16 * 2 ^ 32)

/-- Eight bytes of a byte string that stands in BAR0. -/
def eightAt (bs : List Byte) (i : Nat) : DWord := BitVec.ofNat 64 (leNat ((bs.drop i).take 8))

/-- BAR0 of the physical function (R395, R403, R406). BOOTSTAT is at 0; the wear records from 0x1000, the last report from 0x4000, the public
key (modulus and exponent, as in Table 21.2) from 0x5000 and the certificate from 0x6000 stand at offsets of the model's own (log entry
104). -/
def State.pfRead (s : State) (off : Nat) : DWord :=
  if off = 0 then s.fw.bootstat
  else if 0x1000 ≤ off && off < 0x2240 then ((s.fw.wearOf (wearKey ((off - 0x1000) / 16))) >>> (off % 16 * 8)).setWidth 64
  else if 0x4000 ≤ off && off < 0x5000 then eightAt s.fw.report (off - 0x4000)
  else if 0x5000 ≤ off && off < 0x6000 then eightAt (beBytes Config.identity.toNat 512 ++ leBytes 65537 4) (off - 0x5000)
  else if 0x6000 ≤ off then eightAt Config.certificate (off - 0x6000)
  else 0

/-! ### Thermal limits, power and wear (R405, R406) -/

/-- The limiter's target in W (R15, R405). -/
def Firmware.limit (f : Firmware) : Nat := if f.capped then min f.target 1260 else min f.target 1800

/-- THERMAL_LIMIT: a die reaches 105 °C. -/
def execThermalLimit (_die : Nat) (s : State) : Out := .next { s with fw := { s.fw with capped := true } }

/-- THERMAL_CLEAR: the temperatures of the five dies; where every one is below 100 °C the normal target returns. -/
def execThermalClear (die : List Nat) (s : State) : Out :=
  if die.length = 5 ∧ die.all (· < 100) then .next { s with fw := { s.fw with capped := false } } else .next s

/-- THERMTRIP: a die reaches 120 °C: issue stops and THERMTRIP_N is asserted. -/
def execThermtrip (_die : Nat) (s : State) : Out := .next { s with fw := { s.fw with thermtrip := true } }

/-- POWER_LOSS: the rails go, and all state with them; flash that was being programmed holds an image that fails R400. -/
def execPowerLoss (s : State) : Out := .next (s.coldReset false)

/-- The hub samples a ring-oscillator pair (64 · die + pair) or the electromigration counter of a rail (R406). -/
def State.age (s : State) (kind i v : Nat) : State :=
  if kind = 0 then { s with fw := { s.fw with oscillators := put s.fw.oscillators (i % 320) v } }
  else { s with fw := { s.fw with electromigration := put s.fw.electromigration (i % 8) v } }

/-- Whether a wear record names an element (Table 21.5). -/
def wearOk (r : BitVec 128) : Bool :=
  let i := bits r 15 0
  match bits r 31 24 with
  | 1 => decide (i < 5)
  | 2 => decide (i < 30)
  | 3 => decide (i < 256)
  | 4 => i == 0
  | _ => false

/-- A wear record with its reserved bits zero. -/
def wearMask (r : BitVec 128) : BitVec 128 := r &&& ~~~(0xFF00FF0000#128)

/-- WEAR_UPDATE: the records that firmware computes once every 24 hours; one below 90 days raises a PLDM event and asserts
ALERT_N (R406). -/
def execWearUpdate (recs : List (BitVec 128)) (s : State) : Out :=
  if s.time.toNat < s.fw.wearAt.toNat + 86400000000000 then .next s
  else
    let rs := (recs.filter wearOk).map wearMask
    let s : State := { s with fw := { s.fw with
      wear := rs.foldl (fun m r => put m (bits r 31 24 * 2 ^ 16 + bits r 15 0) r) s.fw.wear, wearAt := s.time } }
    .next ((rs.filter (fun r => decide (bits r 63 48 < 90))).foldl
      (fun (s : State) r => ({ s with fw := { s.fw with alert := true } } : State).send
        (.pldmWear (bits r 31 24 * 2 ^ 16 + bits r 15 0))) s)

end Sys2Proof.Machine
end

