-- ==== Sys2Proof/Machine/Kernel.lean ====
section
/-!
DEFINITION. What the module kernel writes: decode tables (R55, R56), range tables (R68, R69, R85), decay classes (R130), sweep
ranges (R143), panniers (R160), registers that only hold a value (R6), and the kernel's own register space, which `sys.rd.k` and
`sys.wr.k` reach (R349, R74, R389).
-/

namespace Sys2Proof.Machine

/-! ### Decode tables (R55, R56) -/

/-- The operation that a context's table gives an opcode value; none for an invalid entry (R55, R56). The map's privileged
operations are not entered in a tenant's table. -/
def DecodeTable.op (t : DecodeTable) (tenant : Bool) (opc : Nat) : Option Nat :=
  match look t.patches opc with
  | some r => if r.1 then some r.2 else none
  | none =>
    match (if t.base = 1 then m3Op opc else if t.base = 2 then m2Op opc else none) with
    | some op => if tenant && isPriv op then none else some op
    | none => none

/-- A decode table entry as the management interface reads it (Table 3.6). -/
def State.decodeEntry (s : State) (ctx opc : Nat) : Nat :=
  let t := (s.ctx ctx).decode
  match look t.patches opc with
  | some r => entryBits r.1 r.2
  | none => match t.op (ctx != 0) opc with | some op => entryBits true op | none => 0

/-- DECODE_ENTRY_WRITE: V and OP of one entry (Table 3.6). An OP that M3 does not assign is refused, and the entry is left
invalid with the OP it had; a privileged one is refused in a tenant's table. -/
def execDecodeEntryWrite (ctx opc : Nat) (v : Bool) (op : Nat) (s : State) : Out :=
  if 64 ≤ ctx || 1024 ≤ opc || (ctx != 0 && isPriv op) then .next s
  else
    let known := decide (op < 1024) && m3Op op == some op
    let e := (v && known, if known then op else s.decodeEntry ctx opc % 1024)
    .next (s.updCtx ctx (fun c => { c with decode := { c.decode with patches := put c.decode.patches opc e } }))

/-- DECODE_TABLE_LOAD: the whole table from M3 (0) or M2 (1), only while no team of the context is resident. -/
def execDecodeTableLoad (ctx map : Nat) (s : State) : Out :=
  if 64 ≤ ctx || 2 ≤ map || s.teams.any (fun t => t.2.ctx == ctx && !t.2.saved) then .next s
  else .next (s.updCtx ctx (fun c => { c with decode := { base := map + 1 } }))

/-! ### Range tables -/

/-- Whether two valid entries match some guest-physical address alike. -/
def rOverlap (a b : BitVec 128) : Bool :=
  rV a && rV b && rAp a == rAp b && decide (rGbase a < rGbase b + rLen b) && decide (rGbase b < rGbase a + rLen a)

/-- The bits of a range-table entry that a write reaches (Table 4.5). -/
def rMask (e : BitVec 128) : BitVec 128 :=
  BitVec.ofNat 128 (bits e 123 64 * 2 ^ 64 + bits e 50 21 * 2 ^ 21 + bits e 17 0)

/-- Whether an entry may be written at an index (R69, R85). -/
def State.rangeOk (s : State) (ctx i : Nat) (e : BitVec 128) : Bool :=
  rTap e != 0x100 + s.modId.toNat && !(rEx e && rTap e != 0)
    && !(rTap e == 0 && decide (Config.carveOut < rHbase e + rLen e))
    && !(s.ctx ctx).ranges.any (fun x => x.1 != i && rOverlap x.2 e)

/-- RANGE_ENTRY_WRITE: a refused write leaves the entry as it was. -/
def execRangeEntryWrite (ctx i : Nat) (v : BitVec 128) (s : State) : Out :=
  let e := rMask v
  if ctx = 0 || 64 ≤ ctx || 48 ≤ i || !s.rangeOk ctx i e then .next s
  else .next (s.updCtx ctx (fun c => { c with ranges := Sparse.set (0 : BitVec 128) c.ranges i e }))

/-! ### Decay classes and sweep ranges -/

/-- Whether a class entry may hold V = 1 (R130). -/
def classOk (e : BitVec 128) : Bool :=
  let beta := bits e 63 32
  let alpha := bits e 95 64
  let thr := bits e 127 96
  decide (0 < beta) && decide (beta ≤ 0x3F800000) && alpha % 2 ^ 31 / 2 ^ 23 != 255
    && (decide (thr < 0x7F800000) || thr == 0x80000000) && bits e 31 2 == 0

/-- DECAY_CLASS_WRITE: entries 1 to 15; entry 0 reads as zero (R130). -/
def execDecayClassWrite (ctx i : Nat) (v : BitVec 128) (s : State) : Out :=
  if ctx = 0 || 64 ≤ ctx || i = 0 || 16 ≤ i || (bit v 0 && !classOk v) then .next s
  else
    let e := BitVec.ofNat 128 (bits v 127 32 * 2 ^ 32 + bits v 1 0)
    .next (s.updCtx ctx (fun c => { c with classes := Sparse.set (0 : BitVec 128) c.classes i e }))

/-- Whether two valid sweep ranges meet. -/
def swOverlap (a b : BitVec 128) : Bool :=
  swV a && swV b && decide (swBase a < swBase b + swLen b) && decide (swBase b < swBase a + swLen a)

/-- Whether a sweep range entry may hold V = 1 (R143). -/
def State.sweepOk (s : State) (i : Nat) (e : BitVec 128) : Bool :=
  let c := Sparse.get (0 : BitVec 128) (s.ctx (swCtx e)).classes (swCls e)
  let w := if swDe64 e && bit c 1 then 16 else 8
  decide (swBase e + swLen e ≤ Config.carveOut) && !s.sweeps.any (fun x => x.1 != i && swOverlap x.2 e)
    && swCtx e != 0 && swCls e != 0 && bit c 0 && decide (1 ≤ swPace e) && decide (swPace e ≤ 2 ^ (w - 3))

/-- SWEEP_RANGE_WRITE: setting V sets PSTEP to the tenant's odometer (R143). A pass in progress goes on while V stays 1, over the
elements that the entry now names; those already done are known only where the entry names the same ones (DESIGN CHOICE, log entry
46). A write of V = 0 ends it. -/
def execSweepRangeWrite (i : Nat) (v : BitVec 128) (s : State) : Out :=
  let old := s.sweep i
  let e := BitVec.ofNat 128 (bits v 79 2 * 2 ^ 2 + bits v 0 0)
  if 256 ≤ i || (swV e && !s.sweepOk i e) then .next s
  else
    let p := if swV e && !swV old then (s.ctx (swCtx e)).odometer else swPstep old
    let same := swBase e == swBase old && swLen e == swLen old && swCtx e == swCtx old && swCls e == swCls old && swDe64 e == swDe64 old
    let passes :=
      match look s.passes i with
      | none => s.passes
      | some (pstep, seen) => if swV e then put s.passes i (pstep, if same then seen else []) else del s.passes i
    .next { s with sweeps := put s.sweeps i (swSetBusy (swSetPstep e p) (look passes i).isSome), passes := passes }

/-! ### Panniers (R160) -/

/-- Whether a pannier entry may hold V = 1; the module's own id is no peer aperture (R64). -/
def State.pannierOk (s : State) (e : BitVec 256) : Bool :=
  let tap := bits e 96 88
  (tap == 0xFF || (decide (0x100 ≤ tap) && tap != 0x100 + s.modId.toNat)) && bits e 175 136 % 4096 == 0 && decide (bits e 215 176 ≤ bits e 175 136)
    && bits e 87 1 == 0

/-- PANNIER_WRITE. -/
def execPannierWrite (ctx i : Nat) (v : BitVec 256) (s : State) : Out :=
  if ctx = 0 || 64 ≤ ctx || 64 ≤ i || (bit v 0 && !s.pannierOk v) then .next s
  else
    let e := BitVec.ofNat 256 (bits v 255 88 * 2 ^ 88 + bits v 0 0)
    .next (s.updCtx ctx (fun c => { c with panniers := put c.panniers i e }))

/-! ### Registers that only hold a value (R6) -/

/-- The unit of a die's KV block table updated (R80). -/
def State.updKv (s : State) (die : Nat) (f : KvUnit → KvUnit) : State :=
  { s with kv := put s.kv die (f ((look s.kv die).getD {})) }

/-- A write by a host driver to a 32-bit register of VF BAR0 (Table 21.1): INTSTAT and DBSTAT clear the bits written as 1, the
mailbox words take the value; the other offsets ignore writes. -/
def State.barWrite (s : State) (vf off : Nat) (v : Word) : State :=
  if vf = 0 || !(s.ctx vf).created then s
  else if off = 0x40 then s.updCtx vf (fun c => { c with intstat := c.intstat &&& ~~~v })
  else if off = 0x80 then s.updCtx vf (fun c => { c with dbstat := c.dbstat &&& ~~~(v.setWidth 16) })
  else if 0x200 ≤ off && off < 0x280 && off % 4 = 0 then
    s.updCtx vf (fun c => { c with mbox := Sparse.set 0 c.mbox ((off - 0x200) / 4) v })
  else s

/-- A BAR0 register as a host driver reads it: of the physical function (`vf` 0; RECCTL is write-only), or of a virtual one (Table 21.1). -/
def State.barRead (s : State) (vf off : Nat) : DWord :=
  let c := s.ctx vf
  if vf = 0 then s.pfRead off
  else if !c.created then 0
  else if off = 0x10 then c.winbase
  else if off = 0x40 then c.intstat.setWidth 64
  else if off = 0x48 then c.hostdbVal.setWidth 64
  else if off = 0x50 then c.frinfo
  else if off = 0x58 then c.fraddr
  else if off = 0x60 then c.frmask
  else if off = 0x80 then c.dbstat.setWidth 64
  else if 0x200 ≤ off && off < 0x280 && off % 4 = 0 then (Sparse.get 0 c.mbox ((off - 0x200) / 4)).setWidth 64
  else 0

/-- A write of the register of a context: what it holds is SAVEAREA (kernel number 0x440 + c, Table 20.4), and under numbers of
the model's own from 0x10000 up (log entry 20), since the spec gives these none: the side-log limit (R123), the flow deadline
(R192, 1 ms to 10 s), the table root (R61), the domain tag (R172), the admits bit and the core mask (R374). A BASE of SAVEAREA past its range is refused
(R2). -/
def State.writeCtxReg (s : State) (kind c i : Nat) (v : DWord) : State :=
  if c = 0 && kind != 4 && kind != 2 then s
  else
    match kind with
    | 0 => if v.toNat ≤ 224 then s.updCtx c (fun x => { x with sideLimit := v.toNat }) else s
    | 1 => if 1000 ≤ v.toNat && v.toNat ≤ 10000000 then s.updCtx c (fun x => { x with flowDl := v.setWidth 32 }) else s
    | 2 => if v.toNat % 4096 = 0 && v.toNat < 2 ^ 51 then s.updCtx c (fun x => { x with root := v.toNat }) else s
    | 3 => (s.updCtx c (fun x => { x with dtag := v.toNat % 2 ^ 16 })).tagLost
    | 4 => s.updCtx c (fun x => { x with admits := bit v 0 })
    | 5 =>
      s.updCtx c (fun x =>
        { x with cmask := BitVec.ofNat 192 (x.cmask.toNat - bits x.cmask (64 * i + 63) (64 * i) * 2 ^ (64 * i) + v.toNat * 2 ^ (64 * i)) })
    | _ => if saveBaseOk v then s.updCtx c (fun x => { x with savearea := BitVec.ofNat 64 (v.toNat / 2 ^ 18 * 2 ^ 18) }) else s

/-- The value of a write of a wide kernel register: the parts written before it above the 64 bits of the write itself. -/
def State.wide (s : State) (v : DWord) : Nat :=
  v.toNat + ((List.range 8).map (fun i => if i = 0 then 0 else (Sparse.get 0 s.kparts i).toNat * 2 ^ (64 * i))).foldl (· + ·) 0

/-- The peloton command register (R332): OP (1 SHRINK, 2 GROW, 3 RERUN) in bits 1:0, CTX in 13:8, PNUM in 19:16 and the new EPOCH or
the collective in 63:32; the new MEMBERS are the four highest parts (log entry 20). -/
def pelotonCommand (v : Nat) (s : State) : Out :=
  let ctx := v / 2 ^ 8 % 64
  let pnum := v / 2 ^ 16 % 16
  let x := v / 2 ^ 32 % 2 ^ 32
  match v % 4 with
  | 1 => execPelotonShrink ctx pnum (BitVec.ofNat 256 (v / 2 ^ 256)) (BitVec.ofNat 32 x) s
  | 2 => execPelotonGrow ctx pnum (BitVec.ofNat 256 (v / 2 ^ 256)) (BitVec.ofNat 32 x) s
  | 3 => execPelotonRerun ctx pnum x s
  | _ => .next s

/-- A write of a wide register (log entry 20): the decay classes (R130), the sweep ranges (R143), the peloton entries (R305), the
peloton command register (R332), and the extension of M2 to M7 (R401). None where the number has no such register. -/
def State.writeWide (s : State) (n : Nat) (v : DWord) : Option Out :=
  let x := s.wide v
  let s : State := { s with kparts := [] }
  if 0x11000 ≤ n && n < 0x11400 then some (execDecayClassWrite ((n - 0x11000) / 16) (n % 16) (BitVec.ofNat 128 x) s)
  else if 0x11800 ≤ n && n < 0x11900 then some (execSweepRangeWrite (n - 0x11800) (BitVec.ofNat 128 x) s)
  else if 0x12000 ≤ n && n < 0x12100 then some (execPelotonWrite (n - 0x12000) (BitVec.ofNat 512 x) s)
  else if n = 0x12100 then some (pelotonCommand x s)
  else if 0x13002 ≤ n && n < 0x13008 then some (execMeasurementExtend (n - 0x13000) (BitVec.ofNat 512 x) s)
  else none

/-- REGISTER_WRITE: a register with no behaviour of its own (R6). Numbers below 0x10000 are kernel numbers; from there up they
are the model's own (log entry 20): among them a deny entry lifted (R77), the exception control registers (R239) and the retraining of
a port (R173). A block count of a KV unit above 2^25 is refused (DESIGN CHOICE, log entry 95): R80 bounds the number of blocks and gives no
outcome of a larger one; R2 has a write out of range refused. A number that has no register is logged (R349). -/
def execRegisterWrite (n : Nat) (v : DWord) (s : State) : Out :=
  match s.writeWide n v with
  | some r => r
  | none => .next (
    if n = 0x201 then (if s.inv.isSome then s else { s with invlen := BitVec.ofNat 64 (bits v 45 0) })
    else if 0x440 ≤ n && n < 0x480 then s.writeCtxReg 6 (n - 0x440) 0 v
    else if 0x10000 ≤ n && n < 0x10140 then s.writeCtxReg ((n - 0x10000) / 64) (n % 64) 0 v
    else if 0x10140 ≤ n && n < 0x10240 && n % 4 < 3 then s.writeCtxReg 5 ((n - 0x10140) / 4) (n % 4) v
    else if n = 0x10300 then { s with fw := { s.fw with target := v.toNat } }
    else if n = 0x10301 then { s with fw := { s.fw with fuses := max s.fw.fuses (min 64 v.toNat) } }
    else if n = 0x10303 then { s with ptp := { port := if v.toNat < 30 then some v.toNat else none } }
    else if 0x10310 ≤ n && n < 0x10330 then
      s.updKv ((n - 0x10310) / 8) (fun u =>
        match n % 8 with
        | 0 => { u with base := v.toNat }
        | 1 => if v.toNat ≤ 2 ^ 25 then { u with blocks := v.toNat } else u
        | 2 => { u with counts := v.toNat }
        | 3 => { u with free := u.free ++ [v.toNat] }
        | 4 => { u with free := [] }
        | _ => u)
    else if 0x10400 ≤ n && n < 0x10500 then { s with denies := s.denies.filter (· != n - 0x10400) }
    else if 0x10500 ≤ n && n < 0x10900 && n % 16 < 9 then s.writeExcControl ((n - 0x10500) / 16) (n % 16) v
    else if 0x10900 ≤ n && n < 0x1091E then s.retrain (n - 0x10900)
    else if 0x10701 ≤ n && n < 0x10708 then { s with kparts := put s.kparts (n - 0x10700) v }
    else if 0x100000 ≤ n && n < 0x140000 then s.barWrite ((n - 0x100000) / 0x1000) (n % 0x1000) (v.setWidth 32)
    else s.log (.noRegister n true))

/-! ### The kernel register space (R349, Tables 4.8 and 20.4) -/

/-- A register of a context under the model's own numbers (log entry 20). -/
def Ctx.kernelReg (c : Ctx) (kind i : Nat) : DWord :=
  match kind with
  | 0 => BitVec.ofNat 64 c.sideLimit
  | 1 => c.flowDl.setWidth 64
  | 2 => BitVec.ofNat 64 c.root
  | 3 => BitVec.ofNat 64 c.dtag
  | 4 => if c.admits then 1 else 0
  | _ => BitVec.ofNat 64 (bits c.cmask (64 * i + 63) (64 * i))

/-- A half of a 128-bit entry. -/
def half (e : BitVec 128) (i : Nat) : DWord := (e >>> (64 * i)).setWidth 64

/-- A kernel register as `sys.rd.k` reads it; none where a number has no register. From 0x10000 up the numbers are the model's own
(log entry 20): a context's registers, DOMAIN_DROP (R172), the exception control registers (R239), the port status registers (R177),
the launch queue control registers (Table 19.2), the decay classes and sweep ranges by halves (R130, R143), JLHEAD and JLOLD of a peloton
(R329), the port toward the time source (R324), and what the hub has sampled of ageing (R406). -/
def State.kernelReg (s : State) (n : Nat) : Option DWord :=
  if n = 0x200 then some (if s.inv.isNone then BitVec.ofNat 64 (2 ^ 63) else 0)
  else if n = 0x201 then some s.invlen
  else if n = 0x400 then some s.preemptReg
  else if 0x441 ≤ n && n < 0x480 then some (s.ctx (n - 0x440)).savearea
  else if 0x10000 ≤ n && n < 0x10140 then some ((s.ctx (n % 64)).kernelReg ((n - 0x10000) / 64) 0)
  else if 0x10140 ≤ n && n < 0x10240 && n % 4 < 3 then some ((s.ctx ((n - 0x10140) / 4)).kernelReg 5 (n % 4))
  else if n = 0x10302 then some s.domainDrop
  else if n = 0x10303 then some (BitVec.ofNat 64 (s.ptp.port.getD 31))
  else if 0x10500 ≤ n && n < 0x10900 && n % 16 < 9 then some ((s.ctx ((n - 0x10500) / 16)).exc.getD (n % 16) {}).control
  else if 0x10900 ≤ n && n < 0x1091E then some (s.portStatus (n - 0x10900))
  else if 0x10A00 ≤ n && n < 0x10E00 then some ((s.ctx ((n - 0x10A00) / 16)).queue (n % 16)).reg
  else if 0x14000 ≤ n && n < 0x14800 then
    some (half ((Sparse.get (0 : BitVec 128) (s.ctx ((n - 0x14000) / 32)).classes (n / 2 % 16))) (n % 2))
  else if 0x14800 ≤ n && n < 0x14A00 then some (half (s.sweep ((n - 0x14800) / 2)) (n % 2))
  else if 0x12200 ≤ n && n < 0x12400 then
    some (let p := (look s.pelotons ((n - 0x12200) / 2)).getD {}
      if n % 2 = 0 then p.jlhead else p.jlold)
  else if 0x15000 ≤ n && n < 0x15140 then some (BitVec.ofNat 64 ((look s.fw.oscillators (n - 0x15000)).getD 0))
  else if 0x15200 ≤ n && n < 0x15208 then some (BitVec.ofNat 64 ((look s.fw.electromigration (n - 0x15200)).getD 0))
  else if 0x15400 ≤ n && n < 0x15500 then some (BitVec.ofNat 64 ((look s.fw.corrected (n - 0x15400)).getD 0))
  else if n = 0x15500 then some (BitVec.ofNat 64 s.fw.erases)
  else none

/-- The state after a kernel register has been read: RETRY of a port status register is cleared by the read (R177). -/
def State.kernelRead (s : State) (n : Nat) : State :=
  if 0x10900 ≤ n && n < 0x1091E then s.updPort (n - 0x10900) (fun p => { p with retry := 0 }) else s

/-- A write to INVCMD (R74): ignored while a command is in progress. -/
def State.writeInvcmd (s : State) (v : DWord) : Out :=
  let ctx := bits v 59 54
  if s.inv.isSome then .next s
  else
    match bits v 62 60 with
    | 0 => execInvOnePage ctx (bits v 44 0) s
    | 1 => execInvVirtualRange ctx (bits v 44 0) s.invlen.toNat s
    | 2 => execInvWholeContext ctx s
    | 3 => execInvRangeEntry ctx (bits v 53 48) s
    | 4 => execInvEveryContext s
    | _ => .next s

/-- A write to PREEMPT (Table 20.4): ignored while a command is in progress. -/
def State.writePreempt (s : State) (v : DWord) : Out :=
  match bits v 62 61 with
  | 1 => execPreemptSave (bits v 5 0) s
  | 2 => execPreemptResume (bits v 5 0) s
  | _ => .next s

/-- A write of a kernel register; a number that has none is logged (R349). -/
def State.writeKernelReg (s : State) (n : Nat) (v : DWord) : Out :=
  if n = 0x200 then s.writeInvcmd v
  else if n = 0x400 then s.writePreempt v
  else if n = 0x201 || (0x441 ≤ n && n < 0x480) || (0x10000 ≤ n && n < 0x100000) then execRegisterWrite n v s
  else .next (s.log (.noRegister n true))

/-- `sys.rd.k` (R349): a long-class read into a pair; a number with no register reads 0 and is logged. -/
def execSysRdK (o : LR) (s : State) : Out :=
  uniformOp o.g.toNat [.s o.a.toNat, .sp o.d.toNat] (fun is _ _ _ =>
    let n := (is.snap.sca o.a.toNat).toNat
    let s' := if (s.kernelReg n).isNone then s.log (.noRegister n false) else s.kernelRead n
    .next ((s'.giveResults is true [(Dst.sp o.d.toNat).writes 0 ((s.kernelReg n).getD 0)]).retire is)) s

/-- `sys.wr.k` (R349). -/
def execSysWrK (o : LR) (s : State) : Out :=
  uniformOp o.g.toNat [.s o.a.toNat, .sp o.d.toNat] (fun is _ _ _ =>
    match s.writeKernelReg (is.snap.sca o.a.toNat).toNat ((Src.sp o.d.toNat).read is.snap 0) with
    | .next s => .next (s.retire is)
    | r => r) s

end Sys2Proof.Machine
end

