-- ==== Sys2Proof/Machine/RegFile.lean ====
section
/-!
DEFINITION. The compressed register file of a core (R92, R97, R98): the stored sizes of register blocks, the blocks that a step's
write-backs send to the overflow area of L1, and REG_SPILL. Nothing here changes a register.
-/

namespace Sys2Proof.Machine

/-- Bytes of a core's physical register storage (R97). -/
def physBytes : Nat := 393216

/-- Stored bytes of a block of eight lanes (Table 5.3). The difference of two lanes is their 32-bit difference, read signed. -/
def blockBytes (x : Nat → Word) : Nat :=
  let d := (List.range 8).map (fun l => (x l - x 0).toInt)
  if d.all (· == 0) then 4
  else if d.all (fun v => decide (-128 ≤ v) && decide (v ≤ 127)) then 12
  else if d.all (fun v => decide (-32768 ≤ v) && decide (v ≤ 32767)) then 20
  else 32

/-- How often a block of a team has been written. -/
def Team.blockWrites (tm : Team) (b r : Nat) : List Nat := (List.range 8).map (fun l => (tm.thread (8 * b + l)).regs.written r)

/-- Lane `l` of a block of a team: threads 8 · b to 8 · b + 7, register r. -/
def Team.blockLane (tm : Team) (b r l : Nat) : Word := (tm.thread (8 * b + l)).regs.vec r

/-- Stored bytes of a block of a team. -/
def Team.blockBytes (tm : Team) (b r : Nat) : Nat := Machine.blockBytes (tm.blockLane b r)

/-- Whether block `b` of a team, threads 8 · b to 8 · b + 7, lies on a core. -/
def Team.blockOn (tm : Team) (core b : Nat) : Bool :=
  !tm.saved && decide (8 * b < tm.t) &&
    (if tm.tandem && decide (64 * ((tm.t + 127) / 128) ≤ 8 * b) then tm.core + 1 else tm.core) == core

/-- The blocks of a team on a core, by first thread divided by 8 and register. -/
def Team.blocksOn (tm : Team) (core : Nat) : List (Nat × Nat) :=
  ((List.range (tm.t / 8)).filter (tm.blockOn core)).flatMap (fun b => (List.range tm.nv).map (fun r => (b, r)))

/-- Bytes of the logical register file in use on a core (R13, R368). -/
def State.regBytes (s : State) (core : Nat) : Nat :=
  (s.teams.map (fun t => t.2.threadsOn core * t.2.nv * 4)).foldl (· + ·) 0

/-- Lines of a core's L1 that its data ways no longer hold, dropped; which of a set is a free choice (R92). -/
def State.trimL1 (s : State) (core : Nat) : State :=
  let c := s.core core
  let set (x : Nat) : Nat := Config.cacheSet 0 x % 128
  let kept := (c.lines.rotate (Config.freeNat s.fresh)).foldl (fun (k : List Nat) x =>
    if (k.filter (fun y => set y == set x)).length < c.dataWays then k ++ [x] else k) []
  { (s.updCore core (fun c => c.keepL1 (fun k => kept.contains (k / 4)))) with fresh := s.fresh + 1 }

/-- The write-backs of a step on one core (R97, R98): each block that has been written, whatever it held, takes the mode of its contents, and
goes to the overflow area, counted, where it does not fit beside the others. The writes of one step to a block are one write-back
(DESIGN CHOICE, log entry 32). -/
def State.writeBackCore (old s : State) (core : Nat) : State :=
  let before (id b r : Nat) : Option Nat :=
    match old.team? id with
    | some tm => if tm.blockOn core b then some (tm.blockBytes b r) else none
    | none => none
  let same (id : Nat) (tm : Team) (x : Nat × Nat) : Bool :=
    match old.team? id with
    | some tm' => tm'.blockOn core x.1 && tm'.blockWrites x.1 x.2 == tm.blockWrites x.1 x.2
    | none => false
  let all := s.teams.flatMap (fun t => (t.2.blocksOn core).map (fun x => (t.1, t.2, x)))
  let out := ((s.core core).spilled).filter (fun k => match s.team? k.1 with | some tm => tm.blockOn core k.2.1 | none => false)
  let bytes (y : Nat × Team × Nat × Nat) : Nat := (before y.1 y.2.2.1 y.2.2.2).getD 0
  let used := ((all.filter (fun y => !out.contains (y.1, y.2.2.1, y.2.2.2))).map bytes).foldl (· + ·) 0
  let r := (all.filter (fun y => !same y.1 y.2.1 y.2.2)).foldl (fun (a : Nat × List (Nat × Nat × Nat) × Nat) y =>
    let k := (y.1, y.2.2.1, y.2.2.2)
    let rest := a.1 - (if a.2.1.contains k then 0 else bytes y)
    let n := y.2.1.blockBytes y.2.2.1 y.2.2.2
    if rest + n ≤ physBytes then (rest + n, a.2.1.filter (· != k), a.2.2)
    else (rest, (a.2.1.filter (· != k)) ++ [k], a.2.2 + 1)) (used, out, 0)
  let s := s.updCore core (fun c => { c with spilled := r.2.1, regSpill := c.regSpill + BitVec.ofNat 64 r.2.2 })
  if out.length < r.2.1.length then s.trimL1 core else s

/-- The cores whose register blocks might not all fit the physical store, or that hold some in the overflow area. -/
def State.tightCores (s : State) : List Nat :=
  let cores := (s.teams.flatMap (fun t => if t.2.saved then [] else if t.2.tandem then [t.2.core, t.2.core + 1] else [t.2.core])).eraseDups
  cores.filter (fun c => decide (physBytes < s.regBytes c)) ++
    (s.cores.filter (fun c => !c.2.spilled.isEmpty && !(cores.contains c.1 && decide (physBytes < s.regBytes c.1)))).map (·.1)

/-- The write-backs of a step from `old` to `s` (R97). -/
def State.writeBacks (old s : State) : State := s.tightCores.foldl (State.writeBackCore old) s

end Sys2Proof.Machine
end

