-- ==== Sys2Proof/Machine/Fetch.lean ====
section
/-!
DEFINITION. From the state to the next instruction (R39 to R46, R53, R214, R376, R385): the fetch of a packet, its decode in the
context's table, the choice of the group that issues, and what happens next where no word is at issue. `State.plan` is what
`step` runs.
-/

namespace Sys2Proof.Machine

/-- What a step does: run an instruction, or it is done. -/
inductive Plan where
  | run (i : Instr) (s : State)
  | done (s : State)

/-! ### Fetch (R41, R385) -/

/-- What a fetch answers: the three words, a fault, or nothing yet. -/
inductive Fetched where
  | words (ws : List Word) (s : State)
  | fault (k : TrapInfo) (s : State)
  | wait (s : State)

/-- The physical address of byte `i` of a packet of which the first byte and byte 11 translate to `a` and `b` (R41). -/
def codeByte (va : DWord) (a b i : Nat) : Nat :=
  if (va.toNat + i) / 4096 = va.toNat / 4096 then a + i else b + i - 11

/-- The piece of work of a group's fetch of words that a migration has moved (R82). -/
def fetchWho (team grp : Nat) : Who := { kind := 9, id := team, part := grp }

/-- One word of code at a physical address: read here, asked for where a migration has moved its line, or waited for where a token or
a migration's lock holds the line (R79, R82, R85). -/
def State.codeWord (s : State) (w : Who) (ctx : Nat) (va : DWord) (pa : Nat) : Except EStop (Word × State) :=
  match s.away pa with
  | .recall md r => .error (.wait (s.recallToken md r))
  | .locked => .error (.wait s)
  | .moved ap pa' =>
    match s.farRead w ctx ap pa' 4 va with
    | .ok (v, s) => .ok (BitVec.ofNat 32 v, s)
    | .error e => .error e
  | .here =>
    if s.poisoned pa 4 then .error (.fault 0x21 0 .fetch va)
    else if Config.memBytes ≤ pa then .ok (0, s.log (.nonexistent ctx pa))
    else .ok (BitVec.ofNat 32 (s.rd pa 4), s)

/-- Words of code, each with its virtual and its physical address. -/
def State.codeWords (s : State) (w : Who) (ctx : Nat) : List (DWord × Nat) → Except EStop (List Word × State)
  | [] => .ok ([], s)
  | x :: r =>
    match s.codeWord w ctx x.1 x.2 with
    | .error e => .error e
    | .ok (v, s) => (State.codeWords s w ctx r).map (fun y => (v :: y.1, y.2))

/-- The words of a packet of which the first byte and byte 11 translate to `a` and `b` (R41). -/
def State.packetWords (s : State) (w : Who) (ctx : Nat) (va : DWord) (a b lane : Nat) (m : BitVec 64) : Fetched :=
  match s.codeWords w ctx ([0, 4, 8].map (fun i => (va + BitVec.ofNat 64 i, codeByte va a b i))) with
  | .error (.wait s) => .wait s
  | .error (.fault c stage _ x) =>
    .fault { cls := if c = 0x21 then 0x21 else 0x20, detail := if c = 0x21 then 0 else c, stage := stage, kind := AKind.fetch.code,
             lane := lane, addr := x, lmask := m } (s.forget w)
  | .ok (ws, s) => .words ws (s.forget w)

/-- The packet that holds segment offset `pc`, fetched whole for a group: its first and its last byte are translated (R41, R385). -/
def State.fetchPacket (s : State) (team grp : Nat) (tm : Team) (segbase : DWord) (pc : BitVec 24) (m : BitVec 64) : Fetched :=
  let va := segbase + BitVec.ofNat 64 (pc.toNat / 12 * 12)
  let core := tm.coreOf grp
  let part := some (tm.group grp).partition
  match s.translate core part tm.ctx .fetch va with
  | .error (.wait s) => .wait s
  | .error (.fault f) => .fault (f.info .fetch (lowLane m) va m) s
  | .ok (a, s) =>
    match s.translate core part tm.ctx .fetch (va + 11) with
    | .error (.wait s) => .wait s
    | .error (.fault f) => .fault (f.info .fetch (lowLane m) (BitVec.ofNat 64 ((va + 11).toNat / 4096 * 4096)) m) s
    | .ok (b, s) => s.packetWords (fetchWho team grp) tm.ctx va a.pa b.pa (lowLane m) m

/-! ### The word at issue -/

/-- The slot of a word in its packet (R39). -/
def slotOf (pc : BitVec 24) : Nat := pc.toNat % 12 / 4

/-- An illegal encoding taken as a trap (R57, R379): `g` is the guard of the word. -/
def State.illegal (s : State) (is : Issue) (g reason : Nat) : State :=
  s.trap is { cls := 0x01, detail := reason, lmask := is.guarded g }

/-- The guard of the word in a slot, as far as its entry tells; p0 where it names nothing. -/
def guardAt (tbl : Nat → Option Nat) (ws : List Nat) (slot : Nat) : Nat :=
  match slotOp tbl ws slot with
  | some op => guardField op (ws.getD slot 0) (ws.getD (slot + 1) 0) slot
  | none => 0

/-- Length in bytes of the instruction that begins in a slot, as far as its entry tells. -/
def lenAt (tbl : Nat → Option Nat) (ws : List Nat) (slot : Nat) : Nat :=
  match slotOp tbl ws slot with
  | some op => if isLong op then 8 else 4
  | none => 4

/-- Bytes from a word to the one after its instruction, which SKIP passes over (R381): the extension word of a long form, or what a `rep`
repeats. A word of a packet that cannot be fetched now counts as one word (DESIGN CHOICE, log entry 103). -/
def State.skipBytes (s : State) (team grp : Nat) (tm : Team) (pc : BitVec 24) : Nat :=
  match s.fetchPacket team grp tm (((s.gridOf tm).map (·.segbase)).getD 0) pc 0 with
  | .words ws _ =>
    let tbl := (s.ctx tm.ctx).decode.op (tm.ctx != 0)
    let ws := ws.map (·.toNat)
    lenAt tbl ws (slotOf pc) + (if slotOp tbl ws (slotOf pc) = some opRep then lenAt tbl ws (slotOf pc + 1) else 0)
  | _ => 4

/-- A pending trap is taken before the group's next issue: the numeric trap first (R383). -/
def State.takePending (s : State) (team grp : Nat) (m : BitVec 64) (pc : BitVec 24) : Option State :=
  match s.team? team with
  | none => none
  | some tm =>
    let gr := tm.group grp
    let n := s.skipBytes team grp tm pc
    if gr.held.isSome then none
    else
      match gr.numTraps, gr.storeTraps with
      | c :: r, _ =>
        let s := s.updGroup team grp (fun gr => { gr.unpark with numTraps := r })
        some (s.trapAt team grp m pc n { cls := 0x0F, detail := c, lane := lowLane m, lmask := m })
      | [], a :: r =>
        let s := s.updGroup team grp (fun gr => { gr.unpark with storeTraps := r })
        some (s.trapAt team grp m pc n { cls := 0x10, addr := a, lane := lowLane m, lmask := m })
      | [], [] => none

/-- PENDING_TRAP_TAKEN: a ready group takes its pending trap (R383). -/
def execPendingTrapTaken (team grp : Nat) (s : State) : Out :=
  match s.team? team with
  | none => .next s
  | some tm =>
    if !s.ready team tm grp then .next s
    else
      match tm.subsets grp with
      | [] => .next s
      | x :: _ => .next ((s.takePending team grp x.1 x.2).getD s)

/-- The word at issue decoded, and run with its C and S bits (R42, R56); under an armed `rep`, the repeated instruction with its
fields stepped (R53). -/
noncomputable def State.issueWord (s : State) (is : Issue) : Plan :=
  match s.team? is.team with
  | none => .done { s with issue := none }
  | some tm =>
    let tbl := (s.ctx tm.ctx).decode.op (tm.ctx != 0)
    let ws := is.words.map (·.toNat)
    match is.rep with
    | some _ =>
      match decodeRepeat tbl (tm.ctx == 0) ws (slotOf is.pc) (tm.group is.grp).repidx with
      | .error r => .done (s.illegal is (guardAt tbl ws (slotOf is.pc + 1)) r)
      | .ok d => .run d.instr { s with issue := some { is with c := d.c, s := d.s } }
    | none =>
      match decodeSlot tbl (tm.ctx == 0) ws (slotOf is.pc) with
      | .error r => .done (s.illegal { is with len := lenAt tbl ws (slotOf is.pc) } (guardAt tbl ws (slotOf is.pc)) r)
      | .ok d => .run d.instr { s with issue := some { is with c := d.c, s := d.s, len := d.len } }

/-! ### Which group issues (R214, R221, R376) -/

/-- Whether a group belongs to a partition of a core. -/
def Team.inPartition (tm : Team) (core part g : Nat) : Bool := tm.coreOf g == core && (tm.group g).hw % 4 == part

/-- The ready groups of a partition: wait count, hardware slot, team and group. -/
def State.readyGroups (s : State) (core part : Nat) : List (Nat × Nat × Nat × Nat) :=
  s.teams.flatMap (fun t => (List.range t.2.groups.length).filterMap (fun g =>
    if t.2.inPartition core part g && s.ready t.1 t.2 g then some ((t.2.group g).wait, (t.2.group g).hw, t.1, g) else none))

/-- The ready group with the largest wait count, ties going to the lowest hardware slot (R376). -/
def oldest : List (Nat × Nat × Nat × Nat) → Option (Nat × Nat × Nat × Nat)
  | [] => none
  | x :: r =>
    match oldest r with
    | none => some x
    | some y => if y.1 < x.1 || (y.1 == x.1 && decide (x.2.1 < y.2.1)) then some x else some y

/-- The wait counts of a partition after an issue cycle in which group `g` of team `team` issues (R376). -/
def State.countWaits (s : State) (core part team g : Nat) : State :=
  { s with
    teams := s.teams.map (fun (t : Nat × Team) =>
      (t.1, { t.2 with
        groups := t.2.groups.mapIdx (fun i gr =>
          if !t.2.inPartition core part i then gr
          else if (t.1 == team && i == g) || !s.ready t.1 t.2 i then { gr with wait := 0 }
          else { gr with wait := gr.wait + 1 }) })) }

/-- The issue of a group's subset: a park that is over ends (R46); a pending trap is taken first (R383); a held word is tried again (R214); otherwise the packet
is fetched, the issue counted (R352) and the operands of its chain read (R43). -/
noncomputable def State.issueGroup (s : State) (team g subset : Nat) : Plan :=
  let s := s.updGroup team g Group.unpark
  match s.team? team with
  | none => .done s
  | some tm =>
    let subs := tm.subsets g
    match subs[subset % subs.length]? with
    | none => .done s
    | some (m, pc) =>
      match s.takePending team g m pc with
      | some s => .done s
      | none =>
        match (tm.group g).held with
        | some is => ({ s with issue := some is } : State).issueWord is
        | none =>
          match s.fetchPacket team g tm (((s.gridOf tm).map (·.segbase)).getD 0) pc m with
          | .wait s => .done s
          | .fault k s =>
            let r := s.memFault team g pc k .retry
            .done (r.1.holdFor team g r.2)
          | .words ws s =>
            let s := s.updGroup team g (fun gr => { gr with issues := gr.issues + 1, chain := [], chainFrom := s.nextInstr })
            let is : Issue := { team := team, grp := g, mask := m, pc := pc, wpc := pc, len := 4, words := ws, snap := tm.snap g }
            ({ s with issue := some is } : State).issueWord is

/-- Whether issue is stopped: no power, or a thermal trip (R405). -/
def State.issueStops (s : State) : Bool := s.fw.thermtrip || !s.fw.powered

/-- An issue cycle of a partition (R214, R376). -/
noncomputable def State.issueCycle (s : State) (core part subset : Nat) : Plan :=
  if s.issueStops then .done s
  else
    match oldest (s.readyGroups core part) with
    | none => .done s
    | some (_, _, team, g) => (s.countWaits core part team g).issueGroup team g subset

/-! ### What happens next -/

/-- The first ready group's core and partition. -/
def State.firstReady (s : State) : Option (Nat × Nat) :=
  s.teams.findSome? (fun t =>
    ((List.range t.2.groups.length).find? (fun g => s.ready t.1 t.2 g)).map (fun g => (t.2.coreOf g, (t.2.group g).hw % 4)))

/-- The first unit of a command in no piece that is done or stalled. -/
def nextUnit (pieces : List (Nat × Nat)) : Nat :=
  let top := pieces.foldl (fun a r => max a (r.1 + r.2)) 0
  if pieces.foldl (fun a r => a + r.2) 0 = top then top
  else ((List.range top).find? (fun k => !pieces.any (fun r => decide (r.1 ≤ k) && decide (k < r.1 + r.2)))).getD top

/-- A request of a peer that its home keeps waiting, tried. -/
def homeTry : Instr → State → Out
  | .fabricRead src tid tag how pa n => execFabricRead src tid tag how pa n
  | .fabricWrite src tid tag how pa bytes => execFabricWrite src tid tag how pa bytes
  | .fabricAtomic src tid tag pa w op data cmp => execFabricAtomic src tid tag pa w op data cmp
  | .tokenAcquire src tid tag region => execTokenAcquire src tid tag region
  | .tokenRelease src tid tag region => execTokenRelease src tid tag region
  | .tokenRecall src tid tag region => execTokenRecall src tid tag region
  | _ => .next

/-- The steps that the module takes of itself, in the order in which an empty schedule tries them. -/
def State.tries (s : State) : List (State → Out) :=
  let pairs := s.teams.flatMap (fun t => (List.range t.2.groups.length).map (fun g => (t.1, g)))
  let reqs := List.range s.reqs.length
  (if s.fw.prog.isSome then [fun s => .next s.flashStep] else [])
    ++ (if s.hostQ.isEmpty then [] else [fun s => .next s.hostPump])
    ++ s.inbox.map homeTry
    ++ reqs.map (fun i => execSliceOperation i 0)
    ++ reqs.map execLoadSectorArrival
    ++ reqs.map execStoreAck
    ++ reqs.map execStoreRefused
    ++ pairs.map (fun p => execLongResultWritten p.1 p.2 0)
    ++ [execExcIncrement, execHostdbWrite, execInvComplete]
    ++ s.mats.map (fun c => execMmaPerform c.1)
    ++ s.mats.map (fun c => execDrainPerform c.1 (nextUnit (c.2.done ++ c.2.stalled.map (·.1))) 1 0)
    ++ s.copies.map (fun c => execCopyStart c.2.core [])
    ++ s.copies.map (fun c => execCopyPiece c.1 (nextUnit (c.2.done ++ c.2.stalled.map (·.1))) 1 [] 0)
    ++ s.flows.map (fun f => execHistoryZeroingDone (f.1 / 1024) (f.1 % 1024))
    ++ s.flows.map (fun f => execFlowTransferStart (f.1 / 1024) (f.1 % 1024))
    ++ s.flows.map (fun f => execFlowSourceBlockRead (f.1 / 1024) (f.1 % 1024) [])
    ++ s.flows.map (fun f => fun s => .next (s.flowGo f.1))
    ++ s.colls.map (fun c => fun s => .next (s.collGo c.1))
    ++ s.trigs.flatMap (fun t => [execTriggerTimeFire t.1, execTriggerWatchFire t.1])
    ++ s.sweeps.map (fun e => execSweepPassStart e.1)
    ++ s.passes.map (fun p => execSweepVisit p.1 p.2.2.length)
    ++ s.migrations.map (fun g => execMigrationLineCopy g.1 g.2.copied.length)
    ++ s.ctxs.flatMap (fun c => c.2.share.map execSaveImageWritten)
    ++ s.teams.map (fun t => execRegroupEffect t.1)
    ++ s.teams.map (fun t => execTeamEnd t.1)
    ++ s.grids.flatMap (fun g => (g.2.gone.take 1).map execTeamEnd)
    ++ (s.ctxs.filter (fun c => c.2.resetting)).map (fun c => fun s => .next (s.resetDone c.1))
    ++ s.ctxs.flatMap (fun c => c.2.queues.map (fun q => execQueueHead c.1 q.1 []))
    ++ s.ctxs.flatMap (fun c => c.2.queues.map (fun q => execDependenceMet c.1 q.1))
    ++ (if s.nextPlacement.isSome then (List.range Config.cores).map execTeamPlacement else [])

/-- The first of those steps that changes the state; the state as it is where none does. -/
def State.idle (s : State) : State :=
  (s.tries.findSome? (fun f => match f s with | .next t => if t = s then none else some t | _ => none)).getD s

/-- SIDELOG_HOLD of each core as time goes on by `ns`: the clocks at 2.4 GHz in which a group of the core is held for a side-log entry
(R14, R123). -/
def State.countHolds (s : State) (ns : Nat) : State :=
  let clocks := (s.time.toNat + ns) * 12 / 5 - s.time.toNat * 12 / 5
  let cores := (s.teams.flatMap (fun t => if t.2.saved then [] else
    ((List.range t.2.groups.length).filter (fun g => (t.2.group g).hold == some .sideFull)).map t.2.coreOf)).eraseDups
  cores.foldl (fun (s : State) k => s.updCore k (fun c => { c with sidelogHold := c.sidelogHold + BitVec.ofNat 64 clocks })) s

/-- Whether a row of the opcode table stands for a packet or a control flit that arrives over a port, and so comes only with a flit
(R166): the answer of the host does not. -/
def arrives : Instr → Bool
  | .fabricRead .. | .fabricWrite .. | .fabricAtomic .. | .tokenAcquire .. | .tokenRelease .. | .tokenRecall .. | .ptpMessage .. | .downFlit ..
  | .flitReplayRequest .. | .shift .. | .shiftAck .. | .routeChangeBroadcast .. | .heartbeat .. | .blocks .. | .thdr .. | .tail .. | .resync ..
  | .ack .. | .abort .. | .collAbort .. | .deny .. => true
  | .grant x .. | .grantAck x .. | .recallGrant x .. | .recallAck x .. => x.isSome
  | .fabricResponse src .. => src != 256
  | _ => false

/-- The port that a control flit or a time message comes through. -/
def overPort : Instr → Option Nat
  | .ptpMessage p _ | .downFlit p | .flitReplayRequest p _ | .shift p _ _ | .shiftAck p _ _ => some p
  | _ => none

/-- A flit of the far end arrives on a port, and what it completes is delivered where it is the next one in sequence (R166). -/
def State.arrival (s : State) (port seq : Nat) (good : Bool) (x : Carried) : Plan :=
  let t := s.flitIn port seq good
  if !s.takesFlit port seq good then .done t
  else
    match x with
    | .nothing => .done t
    | .event i => if arrives i && (overPort i).all (· == port) then .run i (t.keep i) else .done t
    | .transit src dst response body => .done (t.turn src dst response body)
    | .migrate src tid page size pa => .done (control src tid t (fun s => s.raise (.migrate src page size pa)))

/-- An action of the schedule, under power. -/
noncomputable def State.act (s : State) : Action → Plan
  | .event i => if i.isWord || arrives i then .done s else .run i s
  | .issue core part subset => s.issueCycle core part subset
  | .tick ns =>
    let (n, p) := s.ptp.pass ns
    .done { (s.countHolds ns).setTime (s.time + BitVec.ofNat 64 n) with ptp := p }
  | .gate core part n =>
    .done (s.updCore core (fun c => { c with gateClk := updAt c.gateClk part (fun x => x + BitVec.ofNat 64 n) }))
  | .evictTlb core unit i =>
    .done (s.updCore core (fun c =>
      match unit with
      | 0 => { c with tlb := c.tlb.eraseIdx i }
      | 1 => { c with utlb := c.utlb.eraseIdx i }
      | _ => { c with walks := c.walks.eraseIdx i }))
  | .evictL1 core key => .done (s.updCore core (fun c => { c with l1 := del c.l1 key }))
  | .evictL2 key => .done (s.evictLine key)
  | .memError ctx pa lost => .done (s.symbolError ctx pa (if lost then 2 else 1))
  | .collective id => .done (s.collGo id)
  | .tear id unit mask => .done ((s.copyTear id unit mask).drainTear id unit mask)
  | .credit port chan => .done (s.credit port chan)
  | .flitsOut port n ack => .done (s.flitsOut port n ack)
  | .flow key => .done (s.flowGo key)
  | .flowTear key i mask => .done (s.flowWrite key i (some mask))
  | .collTear id i mask => .done (s.collWrite id i (some mask))
  | .flitIn port seq good x => s.arrival port seq good x
  | .training port => .done (s.trainsToo port)
  | .ptpSync port => .done (s.ptpSync port)
  | .resetDone ctx => .done (s.resetDone ctx)
  | .ageing kind i v => .done (s.age kind i v)
  | .hostGo => .done s.hostPump
  | .arrived i => match s.inbox[i]? with | some x => .run x s | none => .done s
  | .barRead vf off => .done (s.send (.readReply vf true (leBytes (s.barRead vf off).toNat 8)))
  | .flashGo => .done s.flashStep
  | .migrateAsk mod page size pa => .done (s.send (.migrate mod page size pa))
  | .promoted key => .done (s.promotionMade key)

/-- The head of the schedule. Without power only the release of RESET_N has an effect (R399, R405). -/
noncomputable def State.take (s : State) (a : Action) : Plan :=
  if s.fw.powered then s.act a
  else match a with
    | .event .resetNRelease => .run .resetNRelease s
    | _ => .done s

/-- What the next step does: the chain at issue goes on; else the head of the schedule; else a ready group issues; else the
module does what it has to do (log entry 2). -/
noncomputable def State.plan (s : State) : Plan :=
  match s.issue with
  | some is => s.issueWord is
  | none =>
    match s.sched with
    | a :: r => ({ s with sched := r } : State).take a
    | [] =>
      if s.issueStops then .done s
      else
        match s.firstReady with
        | some (core, part) => s.issueCycle core part 0
        | none => .done s.idle

end Sys2Proof.Machine
end

