-- ==== Sys2Proof/Machine/Dispatch.lean ====
section
/-!
DEFINITION. The meaning of each step of the opcode table: one arm for each constructor, one call of its meaning.
-/

namespace Sys2Proof.Machine

open Host (Outcome)

def exec (i : Instr) (s : State) : Host.Outcome State Fault Refusal :=
  match i with
  | .iaddSr g d a b => Sys2Proof.Machine.execIaddSr g d a b s
  | .iaddSi g d a imm => Sys2Proof.Machine.execIaddSi g d a imm s
  | .iaddSu k d a b => Sys2Proof.Machine.execIaddSu k d a b s
  | .iaddL o => Sys2Proof.Machine.execIaddL o s
  | .isubSr g d a b => Sys2Proof.Machine.execIsubSr g d a b s
  | .isubSi g d a imm => Sys2Proof.Machine.execIsubSi g d a imm s
  | .isubSu k d a b => Sys2Proof.Machine.execIsubSu k d a b s
  | .isubL o => Sys2Proof.Machine.execIsubL o s
  | .imulSr g d a b => Sys2Proof.Machine.execImulSr g d a b s
  | .imulSi g d a imm => Sys2Proof.Machine.execImulSi g d a imm s
  | .imulSu k d a b => Sys2Proof.Machine.execImulSu k d a b s
  | .imulL o => Sys2Proof.Machine.execImulL o s
  | .imadL o => Sys2Proof.Machine.execImadL o s
  | .imulhiSr g d a b => Sys2Proof.Machine.execImulhiSr g d a b s
  | .imulhiSu k d a b => Sys2Proof.Machine.execImulhiSu k d a b s
  | .imulhiL o => Sys2Proof.Machine.execImulhiL o s
  | .iadd64Sr g d a b => Sys2Proof.Machine.execIadd64Sr g d a b s
  | .iadd64Si g d a imm => Sys2Proof.Machine.execIadd64Si g d a imm s
  | .iadd64Su k d a b => Sys2Proof.Machine.execIadd64Su k d a b s
  | .iadd64L o => Sys2Proof.Machine.execIadd64L o s
  | .inegSr g d a => Sys2Proof.Machine.execInegSr g d a s
  | .inegSu d a => Sys2Proof.Machine.execInegSu d a s
  | .inegL o => Sys2Proof.Machine.execInegL o s
  | .iabsSr g d a => Sys2Proof.Machine.execIabsSr g d a s
  | .iabsSu d a => Sys2Proof.Machine.execIabsSu d a s
  | .iabsL o => Sys2Proof.Machine.execIabsL o s
  | .iminSr g d a b => Sys2Proof.Machine.execIminSr g d a b s
  | .iminSi g d a imm => Sys2Proof.Machine.execIminSi g d a imm s
  | .iminSu k d a b => Sys2Proof.Machine.execIminSu k d a b s
  | .iminL o => Sys2Proof.Machine.execIminL o s
  | .imaxSr g d a b => Sys2Proof.Machine.execImaxSr g d a b s
  | .imaxSi g d a imm => Sys2Proof.Machine.execImaxSi g d a imm s
  | .imaxSu k d a b => Sys2Proof.Machine.execImaxSu k d a b s
  | .imaxL o => Sys2Proof.Machine.execImaxL o s
  | .andSr g d a b => Sys2Proof.Machine.execAndSr g d a b s
  | .andSi g d a imm => Sys2Proof.Machine.execAndSi g d a imm s
  | .andSu k d a b => Sys2Proof.Machine.execAndSu k d a b s
  | .andL o => Sys2Proof.Machine.execAndL o s
  | .orSr g d a b => Sys2Proof.Machine.execOrSr g d a b s
  | .orSi g d a imm => Sys2Proof.Machine.execOrSi g d a imm s
  | .orSu k d a b => Sys2Proof.Machine.execOrSu k d a b s
  | .orL o => Sys2Proof.Machine.execOrL o s
  | .xorSr g d a b => Sys2Proof.Machine.execXorSr g d a b s
  | .xorSi g d a imm => Sys2Proof.Machine.execXorSi g d a imm s
  | .xorSu k d a b => Sys2Proof.Machine.execXorSu k d a b s
  | .xorL o => Sys2Proof.Machine.execXorL o s
  | .notSr g d a => Sys2Proof.Machine.execNotSr g d a s
  | .notSu d a => Sys2Proof.Machine.execNotSu d a s
  | .notL o => Sys2Proof.Machine.execNotL o s
  | .shlSr g d a b => Sys2Proof.Machine.execShlSr g d a b s
  | .shlSi g d a imm => Sys2Proof.Machine.execShlSi g d a imm s
  | .shlSu k d a b => Sys2Proof.Machine.execShlSu k d a b s
  | .shlL o => Sys2Proof.Machine.execShlL o s
  | .shrSr g d a b => Sys2Proof.Machine.execShrSr g d a b s
  | .shrSi g d a imm => Sys2Proof.Machine.execShrSi g d a imm s
  | .shrSu k d a b => Sys2Proof.Machine.execShrSu k d a b s
  | .shrL o => Sys2Proof.Machine.execShrL o s
  | .sarSr g d a b => Sys2Proof.Machine.execSarSr g d a b s
  | .sarSi g d a imm => Sys2Proof.Machine.execSarSi g d a imm s
  | .sarSu k d a b => Sys2Proof.Machine.execSarSu k d a b s
  | .sarL o => Sys2Proof.Machine.execSarL o s
  | .rotlSr g d a b => Sys2Proof.Machine.execRotlSr g d a b s
  | .rotlSi g d a imm => Sys2Proof.Machine.execRotlSi g d a imm s
  | .rotlSu k d a b => Sys2Proof.Machine.execRotlSu k d a b s
  | .rotlL o => Sys2Proof.Machine.execRotlL o s
  | .bfxL o => Sys2Proof.Machine.execBfxL o s
  | .bfiL o => Sys2Proof.Machine.execBfiL o s
  | .popcSr g d a => Sys2Proof.Machine.execPopcSr g d a s
  | .popcSu d a => Sys2Proof.Machine.execPopcSu d a s
  | .popcL o => Sys2Proof.Machine.execPopcL o s
  | .clzSr g d a => Sys2Proof.Machine.execClzSr g d a s
  | .clzSu d a => Sys2Proof.Machine.execClzSu d a s
  | .clzL o => Sys2Proof.Machine.execClzL o s
  | .brevSr g d a => Sys2Proof.Machine.execBrevSr g d a s
  | .brevSu d a => Sys2Proof.Machine.execBrevSu d a s
  | .brevL o => Sys2Proof.Machine.execBrevL o s
  | .selSr p d a b => Sys2Proof.Machine.execSelSr p d a b s
  | .selL o => Sys2Proof.Machine.execSelL o s
  | .movSr g d a => Sys2Proof.Machine.execMovSr g d a s
  | .movSu d a => Sys2Proof.Machine.execMovSu d a s
  | .movL o => Sys2Proof.Machine.execMovL o s
  | .movSpecial o => Sys2Proof.Machine.execMovSpecial o s
  | .moviSi g d imm => Sys2Proof.Machine.execMoviSi g d imm s
  | .moviSu d imm => Sys2Proof.Machine.execMoviSu d imm s
  | .moviLi o => Sys2Proof.Machine.execMoviLi o s
  | .leaL o => Sys2Proof.Machine.execLeaL o s
  | .icmpEqSc g t q w a b => Sys2Proof.Machine.execIcmpEqSc g t q w a b s
  | .icmpEqSci g t q w a imm => Sys2Proof.Machine.execIcmpEqSci g t q w a imm s
  | .icmpNeSc g t q w a b => Sys2Proof.Machine.execIcmpNeSc g t q w a b s
  | .icmpNeSci g t q w a imm => Sys2Proof.Machine.execIcmpNeSci g t q w a imm s
  | .icmpLtSc g t q w a b => Sys2Proof.Machine.execIcmpLtSc g t q w a b s
  | .icmpLtSci g t q w a imm => Sys2Proof.Machine.execIcmpLtSci g t q w a imm s
  | .icmpLeSc g t q w a b => Sys2Proof.Machine.execIcmpLeSc g t q w a b s
  | .icmpLeSci g t q w a imm => Sys2Proof.Machine.execIcmpLeSci g t q w a imm s
  | .icmpL o => Sys2Proof.Machine.execIcmpL o s
  | .faddSr g d a b => Sys2Proof.Machine.execFaddSr g d a b s
  | .faddSu d a b => Sys2Proof.Machine.execFaddSu d a b s
  | .faddL o => Sys2Proof.Machine.execFaddL o s
  | .fsubSr g d a b => Sys2Proof.Machine.execFsubSr g d a b s
  | .fsubSu d a b => Sys2Proof.Machine.execFsubSu d a b s
  | .fsubL o => Sys2Proof.Machine.execFsubL o s
  | .fmulSr g d a b => Sys2Proof.Machine.execFmulSr g d a b s
  | .fmulSu d a b => Sys2Proof.Machine.execFmulSu d a b s
  | .fmulL o => Sys2Proof.Machine.execFmulL o s
  | .ffmaL o => Sys2Proof.Machine.execFfmaL o s
  | .fminSr g d a b => Sys2Proof.Machine.execFminSr g d a b s
  | .fminSu d a b => Sys2Proof.Machine.execFminSu d a b s
  | .fminL o => Sys2Proof.Machine.execFminL o s
  | .fmaxSr g d a b => Sys2Proof.Machine.execFmaxSr g d a b s
  | .fmaxSu d a b => Sys2Proof.Machine.execFmaxSu d a b s
  | .fmaxL o => Sys2Proof.Machine.execFmaxL o s
  | .fnegSr g d a => Sys2Proof.Machine.execFnegSr g d a s
  | .fnegSu d a => Sys2Proof.Machine.execFnegSu d a s
  | .fnegL o => Sys2Proof.Machine.execFnegL o s
  | .fabsSr g d a => Sys2Proof.Machine.execFabsSr g d a s
  | .fabsSu d a => Sys2Proof.Machine.execFabsSu d a s
  | .fabsL o => Sys2Proof.Machine.execFabsL o s
  | .frcpSr g d a => Sys2Proof.Machine.execFrcpSr g d a s
  | .frcpSu d a => Sys2Proof.Machine.execFrcpSu d a s
  | .frcpL o => Sys2Proof.Machine.execFrcpL o s
  | .frsqSr g d a => Sys2Proof.Machine.execFrsqSr g d a s
  | .frsqSu d a => Sys2Proof.Machine.execFrsqSu d a s
  | .frsqL o => Sys2Proof.Machine.execFrsqL o s
  | .fsqrtSr g d a => Sys2Proof.Machine.execFsqrtSr g d a s
  | .fsqrtSu d a => Sys2Proof.Machine.execFsqrtSu d a s
  | .fsqrtL o => Sys2Proof.Machine.execFsqrtL o s
  | .fexp2Sr g d a => Sys2Proof.Machine.execFexp2Sr g d a s
  | .fexp2Su d a => Sys2Proof.Machine.execFexp2Su d a s
  | .fexp2L o => Sys2Proof.Machine.execFexp2L o s
  | .flog2Sr g d a => Sys2Proof.Machine.execFlog2Sr g d a s
  | .flog2Su d a => Sys2Proof.Machine.execFlog2Su d a s
  | .flog2L o => Sys2Proof.Machine.execFlog2L o s
  | .fsinSr g d a => Sys2Proof.Machine.execFsinSr g d a s
  | .fsinSu d a => Sys2Proof.Machine.execFsinSu d a s
  | .fsinL o => Sys2Proof.Machine.execFsinL o s
  | .fcosSr g d a => Sys2Proof.Machine.execFcosSr g d a s
  | .fcosSu d a => Sys2Proof.Machine.execFcosSu d a s
  | .fcosL o => Sys2Proof.Machine.execFcosL o s
  | .ftanhSr g d a => Sys2Proof.Machine.execFtanhSr g d a s
  | .ftanhSu d a => Sys2Proof.Machine.execFtanhSu d a s
  | .ftanhL o => Sys2Proof.Machine.execFtanhL o s
  | .fclassSr g d a => Sys2Proof.Machine.execFclassSr g d a s
  | .fclassL o => Sys2Proof.Machine.execFclassL o s
  | .cvtSr g d a => Sys2Proof.Machine.execCvtSr g d a s
  | .cvtSu d a => Sys2Proof.Machine.execCvtSu d a s
  | .cvtL o => Sys2Proof.Machine.execCvtL o s
  | .fcmpEqSc g t q w a b => Sys2Proof.Machine.execFcmpEqSc g t q w a b s
  | .fcmpNeSc g t q w a b => Sys2Proof.Machine.execFcmpNeSc g t q w a b s
  | .fcmpLtSc g t q w a b => Sys2Proof.Machine.execFcmpLtSc g t q w a b s
  | .fcmpLeSc g t q w a b => Sys2Proof.Machine.execFcmpLeSc g t q w a b s
  | .fcmpL o => Sys2Proof.Machine.execFcmpL o s
  | .dot4Sr g d a b => Sys2Proof.Machine.execDot4Sr g d a b s
  | .dot4L o => Sys2Proof.Machine.execDot4L o s
  | .dot8Sr g d a b => Sys2Proof.Machine.execDot8Sr g d a b s
  | .dot8L o => Sys2Proof.Machine.execDot8L o s
  | .qpackSr g d a => Sys2Proof.Machine.execQpackSr g d a s
  | .qpackL o => Sys2Proof.Machine.execQpackL o s
  | .qunpkSr g d a => Sys2Proof.Machine.execQunpkSr g d a s
  | .qunpkL o => Sys2Proof.Machine.execQunpkL o s
  | .shflSr g d a b => Sys2Proof.Machine.execShflSr g d a b s
  | .shflRotSi g d a imm => Sys2Proof.Machine.execShflRotSi g d a imm s
  | .shflL o => Sys2Proof.Machine.execShflL o s
  | .xbflySr g d a b => Sys2Proof.Machine.execXbflySr g d a b s
  | .xbflySi g d a imm => Sys2Proof.Machine.execXbflySi g d a imm s
  | .xbflyL o => Sys2Proof.Machine.execXbflyL o s
  | .bcastSr g d a b => Sys2Proof.Machine.execBcastSr g d a b s
  | .bcastSi g d a imm => Sys2Proof.Machine.execBcastSi g d a imm s
  | .bcastL o => Sys2Proof.Machine.execBcastL o s
  | .voteSf g m p d => Sys2Proof.Machine.execVoteSf g m p d s
  | .voteL o => Sys2Proof.Machine.execVoteL o s
  | .elect p => Sys2Proof.Machine.execElect p s
  | .lredSr g d a => Sys2Proof.Machine.execLredSr g d a s
  | .lredL o => Sys2Proof.Machine.execLredL o s
  | .lscanSr g d a => Sys2Proof.Machine.execLscanSr g d a s
  | .lscanL o => Sys2Proof.Machine.execLscanL o s
  | .vfacL o => Sys2Proof.Machine.execVfacL o s
  | .ldSi g d a imm => Sys2Proof.Machine.execLdSi g d a imm s
  | .ldL o => Sys2Proof.Machine.execLdL o s
  | .stSi g d a imm => Sys2Proof.Machine.execStSi g d a imm s
  | .stL o => Sys2Proof.Machine.execStL o s
  | .prefSi g l a imm => Sys2Proof.Machine.execPrefSi g l a imm s
  | .prefL o => Sys2Proof.Machine.execPrefL o s
  | .atomL o => Sys2Proof.Machine.execAtomL o s
  | .redL o => Sys2Proof.Machine.execRedL o s
  | .casL o => Sys2Proof.Machine.execCasL o s
  | .cas64L o => Sys2Proof.Machine.execCas64L o s
  | .cas128L o => Sys2Proof.Machine.execCas128L o s
  | .dldSi g d a imm => Sys2Proof.Machine.execDldSi g d a imm s
  | .dldL o => Sys2Proof.Machine.execDldL o s
  | .dstSi g d a imm => Sys2Proof.Machine.execDstSi g d a imm s
  | .dstL o => Sys2Proof.Machine.execDstL o s
  | .daddL o => Sys2Proof.Machine.execDaddL o s
  | .demaL o => Sys2Proof.Machine.execDemaL o s
  | .dmrgL o => Sys2Proof.Machine.execDmrgL o s
  | .odoRd g d => Sys2Proof.Machine.execOdoRd g d s
  | .odoAdv g d n => Sys2Proof.Machine.execOdoAdv g d n s
  | .lbind n => Sys2Proof.Machine.execLbind n s
  | .lfree => Sys2Proof.Machine.execLfree s
  | .laddSr g d a b => Sys2Proof.Machine.execLaddSr g d a b s
  | .laddL o => Sys2Proof.Machine.execLaddL o s
  | .ladcSr g d a b => Sys2Proof.Machine.execLadcSr g d a b s
  | .ladcL o => Sys2Proof.Machine.execLadcL o s
  | .lsubSr g d a b => Sys2Proof.Machine.execLsubSr g d a b s
  | .lsubL o => Sys2Proof.Machine.execLsubL o s
  | .lsbcSr g d a b => Sys2Proof.Machine.execLsbcSr g d a b s
  | .lsbcL o => Sys2Proof.Machine.execLsbcL o s
  | .lnegSr g d a => Sys2Proof.Machine.execLnegSr g d a s
  | .lnegL o => Sys2Proof.Machine.execLnegL o s
  | .lshlSr g d a b => Sys2Proof.Machine.execLshlSr g d a b s
  | .lshlSi g d a k => Sys2Proof.Machine.execLshlSi g d a k s
  | .lshlL o => Sys2Proof.Machine.execLshlL o s
  | .lshrSr g d a b => Sys2Proof.Machine.execLshrSr g d a b s
  | .lshrSi g d a k => Sys2Proof.Machine.execLshrSi g d a k s
  | .lshrL o => Sys2Proof.Machine.execLshrL o s
  | .lcmpSc g t q w a b => Sys2Proof.Machine.execLcmpSc g t q w a b s
  | .lcmpL o => Sys2Proof.Machine.execLcmpL o s
  | .lmadL o => Sys2Proof.Machine.execLmadL o s
  | .lcarrySr g d a b => Sys2Proof.Machine.execLcarrySr g d a b s
  | .lcarryL o => Sys2Proof.Machine.execLcarryL o s
  | .mma g q l => Sys2Proof.Machine.execMma g q l s
  | .mmaWait g n => Sys2Proof.Machine.execMmaWait g n s
  | .mmaDrainSf g q l => Sys2Proof.Machine.execMmaDrainSf g q l s
  | .mmaDrainL o => Sys2Proof.Machine.execMmaDrainL o s
  | .ofence g => Sys2Proof.Machine.execOfence g s
  | .accClrSf g k => Sys2Proof.Machine.execAccClrSf g k s
  | .accClrL o => Sys2Proof.Machine.execAccClrL o s
  | .accLd o => Sys2Proof.Machine.execAccLd o s
  | .accSt o => Sys2Proof.Machine.execAccSt o s
  | .accGrow g d k => Sys2Proof.Machine.execAccGrow g d k s
  | .cpySf g a => Sys2Proof.Machine.execCpySf g a s
  | .cpyL o => Sys2Proof.Machine.execCpyL o s
  | .cpyQSf g a => Sys2Proof.Machine.execCpyQSf g a s
  | .cpyQL o => Sys2Proof.Machine.execCpyQL o s
  | .cpyMcSf g a => Sys2Proof.Machine.execCpyMcSf g a s
  | .cpyMcL o => Sys2Proof.Machine.execCpyMcL o s
  | .cpyWait g n => Sys2Proof.Machine.execCpyWait g n s
  | .cpyPoll g d => Sys2Proof.Machine.execCpyPoll g d s
  | .flowSendSf g f a l => Sys2Proof.Machine.execFlowSendSf g f a l s
  | .flowSendL o => Sys2Proof.Machine.execFlowSendL o s
  | .flowMcastSf g f a l => Sys2Proof.Machine.execFlowMcastSf g f a l s
  | .flowMcastL o => Sys2Proof.Machine.execFlowMcastL o s
  | .flowWaitSf p f e => Sys2Proof.Machine.execFlowWaitSf p f e s
  | .flowWaitL o => Sys2Proof.Machine.execFlowWaitL o s
  | .flowStatSf g d f e => Sys2Proof.Machine.execFlowStatSf g d f e s
  | .flowStatL o => Sys2Proof.Machine.execFlowStatL o s
  | .collStartSf g a => Sys2Proof.Machine.execCollStartSf g a s
  | .collStartL o => Sys2Proof.Machine.execCollStartL o s
  | .collWaitSf g n => Sys2Proof.Machine.execCollWaitSf g n s
  | .collWaitL o => Sys2Proof.Machine.execCollWaitL o s
  | .collStatSf g d p e => Sys2Proof.Machine.execCollStatSf g d p e s
  | .collStatL o => Sys2Proof.Machine.execCollStatL o s
  | .trigAtSf g r t => Sys2Proof.Machine.execTrigAtSf g r t s
  | .trigAtL o => Sys2Proof.Machine.execTrigAtL o s
  | .trigOnSf g r w v => Sys2Proof.Machine.execTrigOnSf g r w v s
  | .trigOnL o => Sys2Proof.Machine.execTrigOnL o s
  | .braSb g d => Sys2Proof.Machine.execBraSb g d s
  | .braLi o => Sys2Proof.Machine.execBraLi o s
  | .brxSf g a => Sys2Proof.Machine.execBrxSf g a s
  | .brxL o => Sys2Proof.Machine.execBrxL o s
  | .callSb g d => Sys2Proof.Machine.execCallSb g d s
  | .callLi o => Sys2Proof.Machine.execCallLi o s
  | .ret g => Sys2Proof.Machine.execRet g s
  | .meetSb g d => Sys2Proof.Machine.execMeetSb g d s
  | .meetLi o => Sys2Proof.Machine.execMeetLi o s
  | .exit g => Sys2Proof.Machine.execExit g s
  | .regroup g w => Sys2Proof.Machine.execRegroup g w s
  | .rgn g => Sys2Proof.Machine.execRgn g s
  | .yield g => Sys2Proof.Machine.execYield g s
  | .nop g => Sys2Proof.Machine.execNop g s
  | .rep n e k f j h m => Sys2Proof.Machine.execRep n e k f j h m s
  | .barArriveSf g l n => Sys2Proof.Machine.execBarArriveSf g l n s
  | .barArriveL o => Sys2Proof.Machine.execBarArriveL o s
  | .barExpSf g l b v => Sys2Proof.Machine.execBarExpSf g l b v s
  | .barExpL o => Sys2Proof.Machine.execBarExpL o s
  | .barWaitSf g l h => Sys2Proof.Machine.execBarWaitSf g l h s
  | .barWaitL o => Sys2Proof.Machine.execBarWaitL o s
  | .fence g e => Sys2Proof.Machine.execFence g e s
  | .tokAcqSf g d a => Sys2Proof.Machine.execTokAcqSf g d a s
  | .tokAcqL o => Sys2Proof.Machine.execTokAcqL o s
  | .tokRelSf g d a => Sys2Proof.Machine.execTokRelSf g d a s
  | .tokRelL o => Sys2Proof.Machine.execTokRelL o s
  | .trap g n => Sys2Proof.Machine.execTrap g n s
  | .brk g n => Sys2Proof.Machine.execBrk g n s
  | .sysRdSf g d n => Sys2Proof.Machine.execSysRdSf g d n s
  | .sysRdL o => Sys2Proof.Machine.execSysRdL o s
  | .sysWrSf g d n => Sys2Proof.Machine.execSysWrSf g d n s
  | .sysWrL o => Sys2Proof.Machine.execSysWrL o s
  | .sysRdK o => Sys2Proof.Machine.execSysRdK o s
  | .sysWrK o => Sys2Proof.Machine.execSysWrK o s
  | .launchSf g a => Sys2Proof.Machine.execLaunchSf g a s
  | .launchL o => Sys2Proof.Machine.execLaunchL o s
  | .tstamp g d => Sys2Proof.Machine.execTstamp g d s
  | .cntRdSf g d n => Sys2Proof.Machine.execCntRdSf g d n s
  | .cntRdL o => Sys2Proof.Machine.execCntRdL o s
  | .handlerRetry team grp => Sys2Proof.Machine.execHandlerRetry team grp s
  | .handlerSkip team grp => Sys2Proof.Machine.execHandlerSkip team grp s
  | .handlerEnd team grp => Sys2Proof.Machine.execHandlerEnd team grp s
  | .hostdbWrite => Sys2Proof.Machine.execHostdbWrite s
  | .pendingTrapTaken team grp => Sys2Proof.Machine.execPendingTrapTaken team grp s
  | .loadSectorArrival imm => Sys2Proof.Machine.execLoadSectorArrival imm s
  | .storeAck imm => Sys2Proof.Machine.execStoreAck imm s
  | .storeRefused imm => Sys2Proof.Machine.execStoreRefused imm s
  | .sliceOperation imm err => Sys2Proof.Machine.execSliceOperation imm err s
  | .migrationStart page size mod pa => Sys2Proof.Machine.execMigrationStart page size mod pa s
  | .migrationLineCopy entry line => Sys2Proof.Machine.execMigrationLineCopy entry line s
  | .migrationClose entry => Sys2Proof.Machine.execMigrationClose entry s
  | .sweepPassStart imm => Sys2Proof.Machine.execSweepPassStart imm s
  | .sweepVisit imm elem => Sys2Proof.Machine.execSweepVisit imm elem s
  | .invOnePage ctx vpn => Sys2Proof.Machine.execInvOnePage ctx vpn s
  | .invVirtualRange ctx vpn len => Sys2Proof.Machine.execInvVirtualRange ctx vpn len s
  | .invWholeContext ctx => Sys2Proof.Machine.execInvWholeContext ctx s
  | .invRangeEntry ctx idx => Sys2Proof.Machine.execInvRangeEntry ctx idx s
  | .invEveryContext => Sys2Proof.Machine.execInvEveryContext s
  | .invComplete => Sys2Proof.Machine.execInvComplete s
  | .faultResolve rid => Sys2Proof.Machine.execFaultResolve rid s
  | .faultEnd rid => Sys2Proof.Machine.execFaultEnd rid s
  | .faultReport rid => Sys2Proof.Machine.execFaultReport rid s
  | .lossReport ctx info addr mask => Sys2Proof.Machine.execLossReport ctx info addr mask s
  | .engineAbandon rid => Sys2Proof.Machine.execEngineAbandon rid s
  | .sideLogReplay core ctx => Sys2Proof.Machine.execSideLogReplay core ctx s
  | .sideLogDiscard core ctx => Sys2Proof.Machine.execSideLogDiscard core ctx s
  | .excIncrement => Sys2Proof.Machine.execExcIncrement s
  | .excWindowStart ctx cls => Sys2Proof.Machine.execExcWindowStart ctx cls s
  | .fabricRead src tid tag token pa n => Sys2Proof.Machine.execFabricRead src tid tag token pa n s
  | .fabricWrite src tid tag token pa bytes => Sys2Proof.Machine.execFabricWrite src tid tag token pa bytes s
  | .fabricAtomic src tid tag pa w op data cmp => Sys2Proof.Machine.execFabricAtomic src tid tag pa w op data cmp s
  | .fabricResponse src tid status data => Sys2Proof.Machine.execFabricResponse src tid status data s
  | .tokenAcquire src tid tag region => Sys2Proof.Machine.execTokenAcquire src tid tag region s
  | .tokenRelease src tid tag region => Sys2Proof.Machine.execTokenRelease src tid tag region s
  | .tokenRecall src tid tag region => Sys2Proof.Machine.execTokenRecall src tid tag region s
  | .grant incoming peer id base len perm => Sys2Proof.Machine.execGrant incoming peer id base len perm s
  | .grantAck incoming peer id => Sys2Proof.Machine.execGrantAck incoming peer id s
  | .recallGrant incoming peer id deadline => Sys2Proof.Machine.execRecallGrant incoming peer id deadline s
  | .recallAck incoming peer id => Sys2Proof.Machine.execRecallAck incoming peer id s
  | .recallDeadline id => Sys2Proof.Machine.execRecallDeadline id s
  | .deny peer => Sys2Proof.Machine.execDeny peer s
  | .ptpMessage port kind => Sys2Proof.Machine.execPtpMessage port kind s
  | .timeStep t => Sys2Proof.Machine.execTimeStep t s
  | .flitReplayRequest port seq => Sys2Proof.Machine.execFlitReplayRequest port seq s
  | .downFlit port => Sys2Proof.Machine.execDownFlit port s
  | .linkSilence port => Sys2Proof.Machine.execLinkSilence port s
  | .portDown port => Sys2Proof.Machine.execPortDown port s
  | .retrainTimer port => Sys2Proof.Machine.execRetrainTimer port s
  | .trainingComplete port good => Sys2Proof.Machine.execTrainingComplete port good s
  | .routeChangeBroadcast src tid a b => Sys2Proof.Machine.execRouteChangeBroadcast src tid a b s
  | .routeRestored a b => Sys2Proof.Machine.execRouteRestored a b s
  | .laneSample port lane eye high margin => Sys2Proof.Machine.execLaneSample port lane eye high margin s
  | .shift port lane n => Sys2Proof.Machine.execShift port lane n s
  | .shiftAck port n m => Sys2Proof.Machine.execShiftAck port n m s
  | .shiftAckTimeout port => Sys2Proof.Machine.execShiftAckTimeout port s
  | .laneMapSwitch port => Sys2Proof.Machine.execLaneMapSwitch port s
  | .heartbeatTimer => Sys2Proof.Machine.execHeartbeatTimer s
  | .heartbeat src tid => Sys2Proof.Machine.execHeartbeat src tid s
  | .memberFail mod => Sys2Proof.Machine.execMemberFail mod s
  | .flowTransferStart ctx flow => Sys2Proof.Machine.execFlowTransferStart ctx flow s
  | .blocks src tid tag slot base cnt body => Sys2Proof.Machine.execBlocks src tid tag slot base cnt body s
  | .thdr src tid tag hdr body chunk => Sys2Proof.Machine.execThdr src tid tag hdr body chunk s
  | .tail src tid tag hdr body => Sys2Proof.Machine.execTail src tid tag hdr body s
  | .resync src tid tag hdr body => Sys2Proof.Machine.execResync src tid tag hdr body s
  | .ack src tid tag hdr body => Sys2Proof.Machine.execAck src tid tag hdr body s
  | .abort src tid tag hdr body => Sys2Proof.Machine.execAbort src tid tag hdr body s
  | .flowDeadline ctx flow => Sys2Proof.Machine.execFlowDeadline ctx flow s
  | .flowEndCreate ctx flow slot v => Sys2Proof.Machine.execFlowEndCreate ctx flow slot v s
  | .flowEndDestroy ctx flow v => Sys2Proof.Machine.execFlowEndDestroy ctx flow v s
  | .mcastSlotWrite grp imm v => Sys2Proof.Machine.execMcastSlotWrite grp imm v s
  | .collAbort src tid tag pnum ord => Sys2Proof.Machine.execCollAbort src tid tag pnum ord s
  | .pelotonShrink ctx pnum members epoch => Sys2Proof.Machine.execPelotonShrink ctx pnum members epoch s
  | .pelotonGrow ctx pnum members epoch => Sys2Proof.Machine.execPelotonGrow ctx pnum members epoch s
  | .pelotonRerun ctx pnum coll => Sys2Proof.Machine.execPelotonRerun ctx pnum coll s
  | .pelotonWrite imm v => Sys2Proof.Machine.execPelotonWrite imm v s
  | .triggerTimeFire id => Sys2Proof.Machine.execTriggerTimeFire id s
  | .triggerWatchFire id => Sys2Proof.Machine.execTriggerWatchFire id s
  | .doorbell vf q v => Sys2Proof.Machine.execDoorbell vf q v s
  | .queueHead ctx q data => Sys2Proof.Machine.execQueueHead ctx q data s
  | .dependenceMet ctx q => Sys2Proof.Machine.execDependenceMet ctx q s
  | .teamPlacement core => Sys2Proof.Machine.execTeamPlacement core s
  | .teamEnd team => Sys2Proof.Machine.execTeamEnd team s
  | .regroupEffect team => Sys2Proof.Machine.execRegroupEffect team s
  | .copyStart core data => Sys2Proof.Machine.execCopyStart core data s
  | .copyPiece id first count data answer => Sys2Proof.Machine.execCopyPiece id first count data answer s
  | .mmaPerform id => Sys2Proof.Machine.execMmaPerform id s
  | .drainPerform id first count answer => Sys2Proof.Machine.execDrainPerform id first count answer s
  | .preemptSave ctx => Sys2Proof.Machine.execPreemptSave ctx s
  | .saveResultTimeout team grp => Sys2Proof.Machine.execSaveResultTimeout team grp s
  | .saveImageWritten core => Sys2Proof.Machine.execSaveImageWritten core s
  | .preemptResume ctx => Sys2Proof.Machine.execPreemptResume ctx s
  | .tenantCreate ctx map dtag root limit deadline => Sys2Proof.Machine.execTenantCreate ctx map dtag root limit deadline s
  | .tenantReset ctx => Sys2Proof.Machine.execTenantReset ctx s
  | .resetNRelease => Sys2Proof.Machine.execResetNRelease s
  | .recoveryGo len => Sys2Proof.Machine.execRecoveryGo len s
  | .measurementExtend imm d => Sys2Proof.Machine.execMeasurementExtend imm d s
  | .attestationRequest ctx nonce => Sys2Proof.Machine.execAttestationRequest ctx nonce s
  | .mctpMessage kind pldm nonce => Sys2Proof.Machine.execMctpMessage kind pldm nonce s
  | .bar2Read vf off n => Sys2Proof.Machine.execBar2Read vf off n s
  | .bar2Write vf off bytes => Sys2Proof.Machine.execBar2Write vf off bytes s
  | .winbaseWrite vf v => Sys2Proof.Machine.execWinbaseWrite vf v s
  | .thermalLimit die => Sys2Proof.Machine.execThermalLimit die s
  | .thermalClear die => Sys2Proof.Machine.execThermalClear die s
  | .thermtrip die => Sys2Proof.Machine.execThermtrip die s
  | .wearUpdate recs => Sys2Proof.Machine.execWearUpdate recs s
  | .decodeEntryWrite ctx opc v op => Sys2Proof.Machine.execDecodeEntryWrite ctx opc v op s
  | .decodeTableLoad ctx map => Sys2Proof.Machine.execDecodeTableLoad ctx map s
  | .rangeEntryWrite ctx imm v => Sys2Proof.Machine.execRangeEntryWrite ctx imm v s
  | .decayClassWrite ctx imm v => Sys2Proof.Machine.execDecayClassWrite ctx imm v s
  | .sweepRangeWrite imm v => Sys2Proof.Machine.execSweepRangeWrite imm v s
  | .pannierWrite ctx imm v => Sys2Proof.Machine.execPannierWrite ctx imm v s
  | .launchCounterWrite ctx imm v => Sys2Proof.Machine.execLaunchCounterWrite ctx imm v s
  | .queueControlWrite ctx q v => Sys2Proof.Machine.execQueueControlWrite ctx q v s
  | .excControlWrite ctx cls v => Sys2Proof.Machine.execExcControlWrite ctx cls v s
  | .excClear ctx cls => Sys2Proof.Machine.execExcClear ctx cls s
  | .registerWrite n v => Sys2Proof.Machine.execRegisterWrite n v s
  | .flowSourceBlockRead ctx flow data => Sys2Proof.Machine.execFlowSourceBlockRead ctx flow data s
  | .historyZeroingDone ctx flow => Sys2Proof.Machine.execHistoryZeroingDone ctx flow s
  | .longResultWritten team grp imm => Sys2Proof.Machine.execLongResultWritten team grp imm s
  | .collFlowDeadline id => Sys2Proof.Machine.execCollFlowDeadline id s
  | .podWrite rows cols row col => Sys2Proof.Machine.execPodWrite rows cols row col s
  | .powerLoss => Sys2Proof.Machine.execPowerLoss s

end Sys2Proof.Machine
end

