-- ==== Sys2Proof/Machine/Step.lean ====
section
/-!
DEFINITION. One step of the module, and how an instruction is placed where the next step fetches it.
-/

namespace Sys2Proof.Machine

/-- One step: the instruction that `State.plan` comes to, or what it did itself; then the register blocks that it has written back
take their places in the cores' register files (R97). -/
noncomputable def step (s : State) : Host.Outcome State Fault Refusal :=
  match s.plan with
  | .run i t =>
    match exec i t with
    | .next u => .next (State.writeBacks s u)
    | .fault f => .fault f
    | .refused r => .refused r
  | .done t => .next (State.writeBacks s t)

/-- The segment that `withFetchWord` places a packet in, virtual and physical (log entry 5). -/
def probeBase : Nat := 0x10000

/-- Three page-table levels at 0x30000 that map the lowest GiB to itself, writable and executable (Tables 4.2 and 4.3). -/
def probeTables (m : List Host.Cell) : List Host.Cell :=
  Memory.write (Memory.write (Memory.write m 0x30000 8 0x31001) 0x31000 8 0x32001) 0x32000 8 0xFF

/-- A team of context 0 with one group of 64 threads at segment offset 0. -/
def probeTeam (grid : Nat) : Team :=
  { ctx := 0, grid := grid, index := 0, core := 0, t := 64, w := 64, wLaunch := 64, wmin := 64, nv := 256, ns := 96,
    lmem := 4096, d := 0, nCopy := 0, nMat := 0, threads := List.replicate 64 { pc := 0, restart := 0 },
    groups := [{ wait := 1000000, snapW := 64 }], slots := [0] }

/-- The state with an instruction, the rest of its packet zero, where the next step fetches: it stands for the load of a program
and the placement of a team of context 0 that runs it, on core 0, whose issue is the next action (log entry 5). -/
def State.withFetchWord (s : State) (nbits w : Nat) : State :=
  let g := s.nextId
  let s := s.updCtx 0 (fun c => { c with root := 0x30000 })
  let s := s.updCore 0 (fun c => { c with tlb := [], utlb := [], walks := [] })
  { s with
    mem := Memory.write (probeTables s.mem) probeBase 12 (w % 2 ^ nbits)
    grids := put s.grids g { ctx := 0, gid := 0, odo := 0, segbase := BitVec.ofNat 64 probeBase, entry := 0 }
    teams := put s.teams g (probeTeam g)
    nextId := g + 1
    issue := none
    sched := .issue 0 0 0 :: s.sched }

end Sys2Proof.Machine
end

