-- ==== Sys2Proof/Laws/Decode.lean ====
section
/-!
SUPPORT. What the decoder reads from an encoded word: one lemma for the opcode and one for the operands of each layout, with C and S
at any value (`m` is 2·C + S).
-/

namespace Sys2Proof

theorem fld_of {n w lo : Nat} {f : BitVec n} (h : w / 2 ^ lo % 2 ^ n = f.toNat) : fld n w lo = f :=
  BitVec.eq_of_toNat_eq (by simp [fld, h])

theorem slc_encSR (op m : Nat) (h : op < 1024) (g : BitVec 2) (d a b : BitVec 6) :
    slc (encSR op g d a b + m * 2 ^ 30) 20 10 = op := by
  have := g.isLt; have := d.isLt; have := a.isLt; have := b.isLt; simp only [slc, encSR]; omega

theorem decSR_enc (f : BitVec 2 → BitVec 6 → BitVec 6 → BitVec 6 → Instr) (op m : Nat) (g : BitVec 2) (d a b : BitVec 6) :
    decSR f (encSR op g d a b + m * 2 ^ 30) = some (f g d a b) := by
  have := g.isLt; have := d.isLt; have := a.isLt; have := b.isLt
  rw [decSR, fld_of (f := g) (by simp only [encSR]; omega), fld_of (f := d) (by simp only [encSR]; omega), fld_of (f := a) (by simp only [encSR]; omega), fld_of (f := b) (by simp only [encSR]; omega)]

theorem slc_encSR2 (op m : Nat) (h : op < 1024) (g : BitVec 2) (d a : BitVec 6) :
    slc (encSR2 op g d a + m * 2 ^ 30) 20 10 = op := by
  have := g.isLt; have := d.isLt; have := a.isLt; simp only [slc, encSR2]; omega

theorem decSR2_enc (f : BitVec 2 → BitVec 6 → BitVec 6 → Instr) (op m : Nat) (g : BitVec 2) (d a : BitVec 6) :
    decSR2 f (encSR2 op g d a + m * 2 ^ 30) = some (f g d a) := by
  have := g.isLt; have := d.isLt; have := a.isLt
  rw [decSR2, if_pos (by simp only [slc, encSR2]; omega), fld_of (f := g) (by simp only [encSR2]; omega), fld_of (f := d) (by simp only [encSR2]; omega), fld_of (f := a) (by simp only [encSR2]; omega)]

theorem slc_encSU (op m : Nat) (h : op < 1024) (k : BitVec 1) (d a b : BitVec 6) :
    slc (encSU op k d a b + m * 2 ^ 30) 20 10 = op := by
  have := k.isLt; have := d.isLt; have := a.isLt; have := b.isLt; simp only [slc, encSU]; omega

theorem decSU_enc (f : BitVec 1 → BitVec 6 → BitVec 6 → BitVec 6 → Instr) (op m : Nat) (k : BitVec 1) (d a b : BitVec 6) :
    decSU f (encSU op k d a b + m * 2 ^ 30) = some (f k d a b) := by
  have := k.isLt; have := d.isLt; have := a.isLt; have := b.isLt
  rw [decSU, if_pos (by simp only [slc, encSU]; omega), fld_of (f := k) (by simp only [encSU]; omega), fld_of (f := d) (by simp only [encSU]; omega), fld_of (f := a) (by simp only [encSU]; omega),
    fld_of (f := b) (by simp only [encSU]; omega)]

theorem slc_encSU2 (op m : Nat) (h : op < 1024) (d a : BitVec 6) : slc (encSU2 op d a + m * 2 ^ 30) 20 10 = op := by
  have := d.isLt; have := a.isLt; simp only [slc, encSU2]; omega

theorem decSU2_enc (f : BitVec 6 → BitVec 6 → Instr) (op m : Nat) (d a : BitVec 6) :
    decSU2 f (encSU2 op d a + m * 2 ^ 30) = some (f d a) := by
  have := d.isLt; have := a.isLt
  have h1 : slc (encSU2 op d a + m * 2 ^ 30) 18 2 = 0 := by simp only [slc, encSU2]; omega
  have h2 : slc (encSU2 op d a + m * 2 ^ 30) 0 6 = 0 := by simp only [slc, encSU2]; omega
  rw [decSU2, h1, h2, if_pos (by decide), fld_of (f := d) (by simp only [encSU2]; omega),
    fld_of (f := a) (by simp only [encSU2]; omega)]

theorem slc_encSU3 (op m : Nat) (h : op < 1024) (d a b : BitVec 6) : slc (encSU3 op d a b + m * 2 ^ 30) 20 10 = op := by
  have := d.isLt; have := a.isLt; have := b.isLt; simp only [slc, encSU3]; omega

theorem decSU3_enc (f : BitVec 6 → BitVec 6 → BitVec 6 → Instr) (op m : Nat) (d a b : BitVec 6) :
    decSU3 f (encSU3 op d a b + m * 2 ^ 30) = some (f d a b) := by
  have := d.isLt; have := a.isLt; have := b.isLt
  rw [decSU3, if_pos (by simp only [slc, encSU3]; omega), fld_of (f := d) (by simp only [encSU3]; omega), fld_of (f := a) (by simp only [encSU3]; omega), fld_of (f := b) (by simp only [encSU3]; omega)]

theorem slc_encSC (op m : Nat) (h : op < 1024) (g : BitVec 2) (t : BitVec 3) (q : BitVec 2) (w : BitVec 1) (a b : BitVec 6) :
    slc (encSC op g t q w a b + m * 2 ^ 30) 20 10 = op := by
  have := g.isLt; have := t.isLt; have := q.isLt; have := w.isLt; have := a.isLt; have := b.isLt
  simp only [slc, encSC]; omega

theorem decSC_enc (f : BitVec 2 → BitVec 3 → BitVec 2 → BitVec 1 → BitVec 6 → BitVec 6 → Instr) (op m : Nat) (g : BitVec 2)
    (t : BitVec 3) (q : BitVec 2) (w : BitVec 1) (a b : BitVec 6) :
    decSC f (encSC op g t q w a b + m * 2 ^ 30) = some (f g t q w a b) := by
  have := g.isLt; have := t.isLt; have := q.isLt; have := w.isLt; have := a.isLt; have := b.isLt
  rw [decSC, fld_of (f := g) (by simp only [encSC]; omega), fld_of (f := t) (by simp only [encSC]; omega), fld_of (f := q) (by simp only [encSC]; omega), fld_of (f := w) (by simp only [encSC]; omega),
    fld_of (f := a) (by simp only [encSC]; omega), fld_of (f := b) (by simp only [encSC]; omega)]

theorem slc_encSB (op m : Nat) (h : op < 1024) (g : BitVec 2) (d : BitVec 18) :
    slc (encSB op g d + m * 2 ^ 30) 20 10 = op := by
  have := g.isLt; have := d.isLt; simp only [slc, encSB]; omega

theorem decSB_enc (f : BitVec 2 → BitVec 18 → Instr) (op m : Nat) (g : BitVec 2) (d : BitVec 18) :
    decSB f (encSB op g d + m * 2 ^ 30) = some (f g d) := by
  have := g.isLt; have := d.isLt
  rw [decSB, fld_of (f := g) (by simp only [encSB]; omega), fld_of (f := d) (by simp only [encSB]; omega)]

theorem slc_encSF0 (op m : Nat) (h : op < 1024) (g : BitVec 2) : slc (encSF0 op g + m * 2 ^ 30) 20 10 = op := by
  have := g.isLt; simp only [slc, encSF0]; omega

theorem decSF0_enc (f : BitVec 2 → Instr) (op m : Nat) (g : BitVec 2) :
    decSF0 f (encSF0 op g + m * 2 ^ 30) = some (f g) := by
  have := g.isLt
  rw [decSF0, if_pos (by simp only [slc, encSF0]; omega), fld_of (f := g) (by simp only [encSF0]; omega)]

theorem slc_encSF1 (op m : Nat) (h : op < 1024) (g : BitVec 2) (d : BitVec 6) :
    slc (encSF1 op g d + m * 2 ^ 30) 20 10 = op := by
  have := g.isLt; have := d.isLt; simp only [slc, encSF1]; omega

theorem decSF1_enc (f : BitVec 2 → BitVec 6 → Instr) (op m : Nat) (g : BitVec 2) (d : BitVec 6) :
    decSF1 f (encSF1 op g d + m * 2 ^ 30) = some (f g d) := by
  have := g.isLt; have := d.isLt
  rw [decSF1, if_pos (by simp only [slc, encSF1]; omega), fld_of (f := g) (by simp only [encSF1]; omega), fld_of (f := d) (by simp only [encSF1]; omega)]

/-! ### Long forms -/

/-- The first word of an LR form. -/
def lrWord (op : Nat) (o : LR) : Nat := (encLR op o).headD 0
/-- The extension word of an LR form. -/
def lrExt (o : LR) : Nat := (encLR 0 o).getD 1 0
/-- The first word of an LI form. -/
def liWord (op : Nat) (o : LI) : Nat := (encLI op o).headD 0

theorem bool_bit (b : Bool) : (b.toNat == 1) = b := by cases b <;> rfl

theorem lr_bits (o : LR) (op m : Nat) (h : op < 1024) :
    slc (lrWord op o + m * 2 ^ 30) 20 10 = op ∧ slc (lrWord op o + m * 2 ^ 30) 19 1 = 0 ∧ slc (lrExt o) 0 1 = o.x.toNat := by
  have := o.t1.isLt; have := o.t2.isLt; have := o.rm.isLt; have := o.c.isLt
  have := o.x.toNat_lt
  simp only [slc, lrWord, lrExt, encLR, List.headD_cons, List.getD_cons_succ, List.getD_cons_zero]
  refine ⟨by omega, by omega, by omega⟩

theorem lrOf_enc (o : LR) (op m : Nat) : lrOf (lrWord op o + m * 2 ^ 30) (lrExt o) = o := by
  have := o.t1.isLt; have := o.t2.isLt; have := o.rm.isLt; have := o.c.isLt
  have := o.g.isLt; have := o.d.isLt; have := o.a.isLt; have := o.b.isLt
  have := o.kd.toNat_lt; have := o.ka.toNat_lt; have := o.kb.toNat_lt; have := o.sat.toNat_lt; have := o.x.toNat_lt
  simp only [lrOf, slc, lrWord, lrExt, encLR, List.headD_cons, List.getD_cons_succ, List.getD_cons_zero]
  rw [fld_of (f := o.t1) (by omega), fld_of (f := o.t2) (by omega), fld_of (f := o.rm) (by omega),
    fld_of (f := o.c) (by omega), fld_of (f := o.g) (by omega), fld_of (f := o.d) (by omega), fld_of (f := o.a) (by omega),
    fld_of (f := o.b) (by omega)]
  have e (w lo : Nat) (b : Bool) (h : w / 2 ^ lo % 2 ^ 1 = b.toNat) : (w / 2 ^ lo % 2 ^ 1 == 1) = b := by
    rw [h]; exact bool_bit b
  rw [e _ 4 o.kd (by omega), e _ 3 o.ka (by omega), e _ 2 o.kb (by omega), e _ 1 o.sat (by omega), e _ 0 o.x (by omega)]

theorem decLR_enc (f : LR → Instr) (o : LR) (op m : Nat) (h : op < 1024) :
    decLR f (lrWord op o + m * 2 ^ 30) (lrExt o) = some (f o) := by
  rw [decLR, if_pos (lr_bits o op m h).2.1, lrOf_enc]

theorem li_bits (o : LI) (op m : Nat) (h : op < 1024) :
    slc (liWord op o + m * 2 ^ 30) 20 10 = op ∧ slc (liWord op o + m * 2 ^ 30) 19 1 = 1 := by
  have := o.k.toNat_lt; have := o.g.isLt; have := o.d.isLt; have := o.a.isLt
  simp only [slc, liWord, encLI, List.headD_cons]
  refine ⟨by omega, by omega⟩

theorem liOf_enc (o : LI) (op m : Nat) : liOf (liWord op o + m * 2 ^ 30) o.imm.toNat = o := by
  have := o.k.toNat_lt; have := o.g.isLt; have := o.d.isLt; have := o.a.isLt; have := o.imm.isLt
  have e (w lo : Nat) (b : Bool) (h : w / 2 ^ lo % 2 ^ 1 = b.toNat) : (w / 2 ^ lo % 2 ^ 1 == 1) = b := by
    rw [h]; exact bool_bit b
  simp only [liOf, slc, liWord, encLI, List.headD_cons]
  rw [fld_of (f := o.g) (by omega), fld_of (f := o.d) (by omega), fld_of (f := o.a) (by omega), fld_of (f := o.imm) (by omega),
    e _ 18 o.k (by omega)]

theorem decLI_enc (f : LI → Instr) (o : LI) (op m : Nat) (h : op < 1024) :
    decLI f (liWord op o + m * 2 ^ 30) o.imm.toNat = some (f o) := by
  rw [decLI, if_pos (li_bits o op m h).2, liOf_enc]

theorem decLong_lr (f : Long → Instr) (o : LR) (op m : Nat) (h : op < 1024) :
    decLong f (lrWord op o + m * 2 ^ 30) (lrExt o) = some (f (.lr o)) := by
  rw [decLong, if_pos (lr_bits o op m h).2.1, lrOf_enc]

theorem decLong_li (f : Long → Instr) (o : LI) (op m : Nat) (h : op < 1024) :
    decLong f (liWord op o + m * 2 ^ 30) o.imm.toNat = some (f (.li o)) := by
  rw [decLong, if_neg (by rw [(li_bits o op m h).2]; decide), liOf_enc]

theorem decMov_enc (o : LR) (m : Nat) :
    decMov (lrWord 0x079 o + m * 2 ^ 30) (lrExt o) = some (if o.x then .movSpecial o else .movL o) := by
  have hx := (lr_bits o 0x079 m (by decide)).2.2
  rw [decMov, decLR_enc _ _ _ _ (by decide), hx]
  cases o.x <;> rfl

end Sys2Proof
end

