-- ==== Sys2Proof/Laws/PerInstr.lean ====
section
/-!
SUPPORT. The family RoundTrip: what the decoder reads from the words of an instruction is that instruction, one lemma for each
constructor. The steps that are no instruction words have no words to read.
-/

namespace Sys2Proof.Laws

/-- Decode of encode (R42, R47, R48, R58): where no operand check fails, the opcode is one that M3 assigns, and the words, with any C
and S, decode to the instruction with every operand. -/
def RoundTrip.Statement (i : Instr) : Prop :=
  i.reason = none → i.isWord = true → ∀ m, m < 4 →
    let w := i.encode.headD 0 + m * 2 ^ 30
    m3Assigned (slc w 20 10) = true ∧ decodeOp (slc w 20 10) w (i.encode.getD 1 0) = .ok i

theorem encLR_words (op : Nat) (o : LR) : encLR op o = [lrWord op o, lrExt o] := by
  simp only [lrWord, lrExt, encLR, List.headD_cons, List.getD_cons_succ, List.getD_cons_zero]

theorem encLI_words (op : Nat) (o : LI) : encLI op o = [liWord op o, o.imm.toNat] := by
  simp only [liWord, encLI, List.headD_cons]

theorem encLong_lr (op : Nat) (o : LR) : encLong op (.lr o) = [lrWord op o, lrExt o] := encLR_words op o

theorem encLong_li (op : Nat) (o : LI) : encLong op (.li o) = [liWord op o, o.imm.toNat] := encLI_words op o

theorem round_trip_two {i : Instr} (op w0 x0 : Nat) (ha : m3Assigned op = true) (he : i.encode = [w0, x0])
    (hs : ∀ m, slc (w0 + m * 2 ^ 30) 20 10 = op)
    (hd : ∀ m, i.reason = none → decodeOps op (w0 + m * 2 ^ 30) x0 = some i) : RoundTrip.Statement i := by
  intro hr _ m _
  simp only [he, List.headD_cons, List.getD_cons_succ, List.getD_cons_zero, hs m]
  refine ⟨ha, ?_⟩
  rw [decodeOp, hd m hr]
  simp only [hr]

theorem round_trip_one {i : Instr} (op w0 : Nat) (ha : m3Assigned op = true) (he : i.encode = [w0])
    (hs : ∀ m, slc (w0 + m * 2 ^ 30) 20 10 = op)
    (hd : ∀ m, decodeOps op (w0 + m * 2 ^ 30) 0 = some i) : RoundTrip.Statement i := by
  intro hr _ m _
  simp only [he, List.headD_cons, List.getD_cons_succ, List.getD_nil, hs m]
  refine ⟨ha, ?_⟩
  rw [decodeOp, hd m]
  simp only [hr]

theorem round_trip_event {i : Instr} (h : i.encode = []) : RoundTrip.Statement i := by
  intro _ hw
  rw [Instr.isWord, h] at hw
  exact absurd hw (by decide)

theorem round_trip_sr (f : BitVec 2 → BitVec 6 → BitVec 6 → BitVec 6 → Instr) (op : Nat) (g : BitVec 2) (d : BitVec 6) (a : BitVec 6) (b : BitVec 6) (ho : op < 1024)
    (ha : m3Assigned op = true) (he : (f g d a b).encode = [encSR op g d a b])
    (hd : ∀ w x, decodeOps op w x = decSR f w) : RoundTrip.Statement (f g d a b) :=
  round_trip_one op _ ha he (fun m => slc_encSR op m ho g d a b) fun m => (hd _ _).trans (decSR_enc f op m g d a b)

theorem round_trip_sr2 (f : BitVec 2 → BitVec 6 → BitVec 6 → Instr) (op : Nat) (g : BitVec 2) (d : BitVec 6) (a : BitVec 6) (ho : op < 1024)
    (ha : m3Assigned op = true) (he : (f g d a).encode = [encSR2 op g d a])
    (hd : ∀ w x, decodeOps op w x = decSR2 f w) : RoundTrip.Statement (f g d a) :=
  round_trip_one op _ ha he (fun m => slc_encSR2 op m ho g d a) fun m => (hd _ _).trans (decSR2_enc f op m g d a)

theorem round_trip_su (f : BitVec 1 → BitVec 6 → BitVec 6 → BitVec 6 → Instr) (op : Nat) (k : BitVec 1) (d : BitVec 6) (a : BitVec 6) (b : BitVec 6) (ho : op < 1024)
    (ha : m3Assigned op = true) (he : (f k d a b).encode = [encSU op k d a b])
    (hd : ∀ w x, decodeOps op w x = decSU f w) : RoundTrip.Statement (f k d a b) :=
  round_trip_one op _ ha he (fun m => slc_encSU op m ho k d a b) fun m => (hd _ _).trans (decSU_enc f op m k d a b)

theorem round_trip_su2 (f : BitVec 6 → BitVec 6 → Instr) (op : Nat) (d : BitVec 6) (a : BitVec 6) (ho : op < 1024)
    (ha : m3Assigned op = true) (he : (f d a).encode = [encSU2 op d a])
    (hd : ∀ w x, decodeOps op w x = decSU2 f w) : RoundTrip.Statement (f d a) :=
  round_trip_one op _ ha he (fun m => slc_encSU2 op m ho d a) fun m => (hd _ _).trans (decSU2_enc f op m d a)

theorem round_trip_su3 (f : BitVec 6 → BitVec 6 → BitVec 6 → Instr) (op : Nat) (d : BitVec 6) (a : BitVec 6) (b : BitVec 6) (ho : op < 1024)
    (ha : m3Assigned op = true) (he : (f d a b).encode = [encSU3 op d a b])
    (hd : ∀ w x, decodeOps op w x = decSU3 f w) : RoundTrip.Statement (f d a b) :=
  round_trip_one op _ ha he (fun m => slc_encSU3 op m ho d a b) fun m => (hd _ _).trans (decSU3_enc f op m d a b)

theorem round_trip_sc (f : BitVec 2 → BitVec 3 → BitVec 2 → BitVec 1 → BitVec 6 → BitVec 6 → Instr) (op : Nat) (g : BitVec 2) (t : BitVec 3) (q : BitVec 2) (w : BitVec 1) (a : BitVec 6) (b : BitVec 6) (ho : op < 1024)
    (ha : m3Assigned op = true) (he : (f g t q w a b).encode = [encSC op g t q w a b])
    (hd : ∀ w x, decodeOps op w x = decSC f w) : RoundTrip.Statement (f g t q w a b) :=
  round_trip_one op _ ha he (fun m => slc_encSC op m ho g t q w a b) fun m => (hd _ _).trans (decSC_enc f op m g t q w a b)

theorem round_trip_sb (f : BitVec 2 → BitVec 18 → Instr) (op : Nat) (g : BitVec 2) (d : BitVec 18) (ho : op < 1024)
    (ha : m3Assigned op = true) (he : (f g d).encode = [encSB op g d])
    (hd : ∀ w x, decodeOps op w x = decSB f w) : RoundTrip.Statement (f g d) :=
  round_trip_one op _ ha he (fun m => slc_encSB op m ho g d) fun m => (hd _ _).trans (decSB_enc f op m g d)

theorem round_trip_sf0 (f : BitVec 2 → Instr) (op : Nat) (g : BitVec 2) (ho : op < 1024)
    (ha : m3Assigned op = true) (he : (f g).encode = [encSF0 op g])
    (hd : ∀ w x, decodeOps op w x = decSF0 f w) : RoundTrip.Statement (f g) :=
  round_trip_one op _ ha he (fun m => slc_encSF0 op m ho g) fun m => (hd _ _).trans (decSF0_enc f op m g)

theorem round_trip_sf1 (f : BitVec 2 → BitVec 6 → Instr) (op : Nat) (g : BitVec 2) (d : BitVec 6) (ho : op < 1024)
    (ha : m3Assigned op = true) (he : (f g d).encode = [encSF1 op g d])
    (hd : ∀ w x, decodeOps op w x = decSF1 f w) : RoundTrip.Statement (f g d) :=
  round_trip_one op _ ha he (fun m => slc_encSF1 op m ho g d) fun m => (hd _ _).trans (decSF1_enc f op m g d)

theorem round_trip_lr (f : LR → Instr) (op : Nat) (o : LR) (ho : op < 1024) (ha : m3Assigned op = true)
    (he : (f o).encode = encLR op o) (hd : ∀ w x, decodeOps op w x = decLR f w x) : RoundTrip.Statement (f o) :=
  round_trip_two op _ _ ha (he.trans (encLR_words op o)) (fun m => (lr_bits o op m ho).1) fun m _ =>
    (hd _ _).trans (decLR_enc f o op m ho)

theorem round_trip_li (f : LI → Instr) (op : Nat) (o : LI) (ho : op < 1024) (ha : m3Assigned op = true)
    (he : (f o).encode = encLI op o) (hd : ∀ w x, decodeOps op w x = decLI f w x) : RoundTrip.Statement (f o) :=
  round_trip_two op _ _ ha (he.trans (encLI_words op o)) (fun m => (li_bits o op m ho).1) fun m _ =>
    (hd _ _).trans (decLI_enc f o op m ho)

theorem round_trip_long (f : Long → Instr) (op : Nat) (o : Long) (ho : op < 1024) (ha : m3Assigned op = true)
    (he : (f o).encode = encLong op o) (hd : ∀ w x, decodeOps op w x = decLong f w x) : RoundTrip.Statement (f o) := by
  cases o with
  | lr o =>
    exact round_trip_two op _ _ ha (he.trans (encLong_lr op o)) (fun m => (lr_bits o op m ho).1) fun m _ =>
      (hd _ _).trans (decLong_lr f o op m ho)
  | li o =>
    exact round_trip_two op _ _ ha (he.trans (encLong_li op o)) (fun m => (li_bits o op m ho).1) fun m _ =>
      (hd _ _).trans (decLong_li f o op m ho)

theorem reason_movSpecial (o : LR) : (Instr.movSpecial o).reason = fieldUnless (chkSpecial o) := rfl

theorem reason_movL (o : LR) : (Instr.movL o).reason = fieldUnless (chkMov o) := rfl

theorem decodeOps_mov (w x : Nat) : decodeOps 0x079 w x = decMov w x := rfl

theorem special_x {o : LR} (h : (Instr.movSpecial o).reason = none) : o.x = true := by
  cases hx : o.x
  · simp [reason_movSpecial, fieldUnless, chkSpecial, hx] at h
  · rfl

theorem mov_x {o : LR} (h : (Instr.movL o).reason = none) : o.x = false := by
  cases hx : o.x
  · rfl
  · simp [reason_movL, fieldUnless, chkMov, LRUse.fits, hx] at h

namespace RoundTrip

theorem iaddSr (g : BitVec 2) (d : BitVec 6) (a : BitVec 6) (b : BitVec 6) : Statement (.iaddSr g d a b) :=
  round_trip_sr .iaddSr 0x001 g d a b (by decide) (by decide) rfl (fun _ _ => rfl)
theorem iaddSi (g : BitVec 2) (d : BitVec 6) (a : BitVec 6) (i : BitVec 6) : Statement (.iaddSi g d a i) :=
  round_trip_sr .iaddSi 0x021 g d a i (by decide) (by decide) rfl (fun _ _ => rfl)
theorem iaddSu (k : BitVec 1) (d : BitVec 6) (a : BitVec 6) (b : BitVec 6) : Statement (.iaddSu k d a b) :=
  round_trip_su .iaddSu 0x041 k d a b (by decide) (by decide) rfl (fun _ _ => rfl)
theorem iaddL (o : Long) : Statement (.iaddL o) :=
  round_trip_long .iaddL 0x061 o (by decide) (by decide) rfl (fun _ _ => rfl)
theorem isubSr (g : BitVec 2) (d : BitVec 6) (a : BitVec 6) (b : BitVec 6) : Statement (.isubSr g d a b) :=
  round_trip_sr .isubSr 0x002 g d a b (by decide) (by decide) rfl (fun _ _ => rfl)
theorem isubSi (g : BitVec 2) (d : BitVec 6) (a : BitVec 6) (i : BitVec 6) : Statement (.isubSi g d a i) :=
  round_trip_sr .isubSi 0x022 g d a i (by decide) (by decide) rfl (fun _ _ => rfl)
theorem isubSu (k : BitVec 1) (d : BitVec 6) (a : BitVec 6) (b : BitVec 6) : Statement (.isubSu k d a b) :=
  round_trip_su .isubSu 0x042 k d a b (by decide) (by decide) rfl (fun _ _ => rfl)
theorem isubL (o : Long) : Statement (.isubL o) :=
  round_trip_long .isubL 0x062 o (by decide) (by decide) rfl (fun _ _ => rfl)
theorem imulSr (g : BitVec 2) (d : BitVec 6) (a : BitVec 6) (b : BitVec 6) : Statement (.imulSr g d a b) :=
  round_trip_sr .imulSr 0x003 g d a b (by decide) (by decide) rfl (fun _ _ => rfl)
theorem imulSi (g : BitVec 2) (d : BitVec 6) (a : BitVec 6) (i : BitVec 6) : Statement (.imulSi g d a i) :=
  round_trip_sr .imulSi 0x023 g d a i (by decide) (by decide) rfl (fun _ _ => rfl)
theorem imulSu (k : BitVec 1) (d : BitVec 6) (a : BitVec 6) (b : BitVec 6) : Statement (.imulSu k d a b) :=
  round_trip_su .imulSu 0x043 k d a b (by decide) (by decide) rfl (fun _ _ => rfl)
theorem imulL (o : Long) : Statement (.imulL o) :=
  round_trip_long .imulL 0x063 o (by decide) (by decide) rfl (fun _ _ => rfl)
theorem imadL (o : LR) : Statement (.imadL o) :=
  round_trip_lr .imadL 0x064 o (by decide) (by decide) rfl (fun _ _ => rfl)
theorem imulhiSr (g : BitVec 2) (d : BitVec 6) (a : BitVec 6) (b : BitVec 6) : Statement (.imulhiSr g d a b) :=
  round_trip_sr .imulhiSr 0x005 g d a b (by decide) (by decide) rfl (fun _ _ => rfl)
theorem imulhiSu (k : BitVec 1) (d : BitVec 6) (a : BitVec 6) (b : BitVec 6) : Statement (.imulhiSu k d a b) :=
  round_trip_su .imulhiSu 0x045 k d a b (by decide) (by decide) rfl (fun _ _ => rfl)
theorem imulhiL (o : LR) : Statement (.imulhiL o) :=
  round_trip_lr .imulhiL 0x065 o (by decide) (by decide) rfl (fun _ _ => rfl)
theorem iadd64Sr (g : BitVec 2) (d : BitVec 6) (a : BitVec 6) (b : BitVec 6) : Statement (.iadd64Sr g d a b) :=
  round_trip_sr .iadd64Sr 0x006 g d a b (by decide) (by decide) rfl (fun _ _ => rfl)
theorem iadd64Si (g : BitVec 2) (d : BitVec 6) (a : BitVec 6) (i : BitVec 6) : Statement (.iadd64Si g d a i) :=
  round_trip_sr .iadd64Si 0x026 g d a i (by decide) (by decide) rfl (fun _ _ => rfl)
theorem iadd64Su (k : BitVec 1) (d : BitVec 6) (a : BitVec 6) (b : BitVec 6) : Statement (.iadd64Su k d a b) :=
  round_trip_su .iadd64Su 0x046 k d a b (by decide) (by decide) rfl (fun _ _ => rfl)
theorem iadd64L (o : Long) : Statement (.iadd64L o) :=
  round_trip_long .iadd64L 0x066 o (by decide) (by decide) rfl (fun _ _ => rfl)
theorem inegSr (g : BitVec 2) (d : BitVec 6) (a : BitVec 6) : Statement (.inegSr g d a) :=
  round_trip_sr2 .inegSr 0x007 g d a (by decide) (by decide) rfl (fun _ _ => rfl)
theorem inegSu (d : BitVec 6) (a : BitVec 6) : Statement (.inegSu d a) :=
  round_trip_su2 .inegSu 0x047 d a (by decide) (by decide) rfl (fun _ _ => rfl)
theorem inegL (o : LR) : Statement (.inegL o) :=
  round_trip_lr .inegL 0x067 o (by decide) (by decide) rfl (fun _ _ => rfl)
theorem iabsSr (g : BitVec 2) (d : BitVec 6) (a : BitVec 6) : Statement (.iabsSr g d a) :=
  round_trip_sr2 .iabsSr 0x008 g d a (by decide) (by decide) rfl (fun _ _ => rfl)
theorem iabsSu (d : BitVec 6) (a : BitVec 6) : Statement (.iabsSu d a) :=
  round_trip_su2 .iabsSu 0x048 d a (by decide) (by decide) rfl (fun _ _ => rfl)
theorem iabsL (o : LR) : Statement (.iabsL o) :=
  round_trip_lr .iabsL 0x068 o (by decide) (by decide) rfl (fun _ _ => rfl)
theorem iminSr (g : BitVec 2) (d : BitVec 6) (a : BitVec 6) (b : BitVec 6) : Statement (.iminSr g d a b) :=
  round_trip_sr .iminSr 0x009 g d a b (by decide) (by decide) rfl (fun _ _ => rfl)
theorem iminSi (g : BitVec 2) (d : BitVec 6) (a : BitVec 6) (i : BitVec 6) : Statement (.iminSi g d a i) :=
  round_trip_sr .iminSi 0x029 g d a i (by decide) (by decide) rfl (fun _ _ => rfl)
theorem iminSu (k : BitVec 1) (d : BitVec 6) (a : BitVec 6) (b : BitVec 6) : Statement (.iminSu k d a b) :=
  round_trip_su .iminSu 0x049 k d a b (by decide) (by decide) rfl (fun _ _ => rfl)
theorem iminL (o : Long) : Statement (.iminL o) :=
  round_trip_long .iminL 0x069 o (by decide) (by decide) rfl (fun _ _ => rfl)
theorem imaxSr (g : BitVec 2) (d : BitVec 6) (a : BitVec 6) (b : BitVec 6) : Statement (.imaxSr g d a b) :=
  round_trip_sr .imaxSr 0x00A g d a b (by decide) (by decide) rfl (fun _ _ => rfl)
theorem imaxSi (g : BitVec 2) (d : BitVec 6) (a : BitVec 6) (i : BitVec 6) : Statement (.imaxSi g d a i) :=
  round_trip_sr .imaxSi 0x02A g d a i (by decide) (by decide) rfl (fun _ _ => rfl)
theorem imaxSu (k : BitVec 1) (d : BitVec 6) (a : BitVec 6) (b : BitVec 6) : Statement (.imaxSu k d a b) :=
  round_trip_su .imaxSu 0x04A k d a b (by decide) (by decide) rfl (fun _ _ => rfl)
theorem imaxL (o : Long) : Statement (.imaxL o) :=
  round_trip_long .imaxL 0x06A o (by decide) (by decide) rfl (fun _ _ => rfl)
theorem andSr (g : BitVec 2) (d : BitVec 6) (a : BitVec 6) (b : BitVec 6) : Statement (.andSr g d a b) :=
  round_trip_sr .andSr 0x00B g d a b (by decide) (by decide) rfl (fun _ _ => rfl)
theorem andSi (g : BitVec 2) (d : BitVec 6) (a : BitVec 6) (i : BitVec 6) : Statement (.andSi g d a i) :=
  round_trip_sr .andSi 0x02B g d a i (by decide) (by decide) rfl (fun _ _ => rfl)
theorem andSu (k : BitVec 1) (d : BitVec 6) (a : BitVec 6) (b : BitVec 6) : Statement (.andSu k d a b) :=
  round_trip_su .andSu 0x04B k d a b (by decide) (by decide) rfl (fun _ _ => rfl)
theorem andL (o : Long) : Statement (.andL o) :=
  round_trip_long .andL 0x06B o (by decide) (by decide) rfl (fun _ _ => rfl)
theorem orSr (g : BitVec 2) (d : BitVec 6) (a : BitVec 6) (b : BitVec 6) : Statement (.orSr g d a b) :=
  round_trip_sr .orSr 0x00C g d a b (by decide) (by decide) rfl (fun _ _ => rfl)
theorem orSi (g : BitVec 2) (d : BitVec 6) (a : BitVec 6) (i : BitVec 6) : Statement (.orSi g d a i) :=
  round_trip_sr .orSi 0x02C g d a i (by decide) (by decide) rfl (fun _ _ => rfl)
theorem orSu (k : BitVec 1) (d : BitVec 6) (a : BitVec 6) (b : BitVec 6) : Statement (.orSu k d a b) :=
  round_trip_su .orSu 0x04C k d a b (by decide) (by decide) rfl (fun _ _ => rfl)
theorem orL (o : Long) : Statement (.orL o) :=
  round_trip_long .orL 0x06C o (by decide) (by decide) rfl (fun _ _ => rfl)
theorem xorSr (g : BitVec 2) (d : BitVec 6) (a : BitVec 6) (b : BitVec 6) : Statement (.xorSr g d a b) :=
  round_trip_sr .xorSr 0x00D g d a b (by decide) (by decide) rfl (fun _ _ => rfl)
theorem xorSi (g : BitVec 2) (d : BitVec 6) (a : BitVec 6) (i : BitVec 6) : Statement (.xorSi g d a i) :=
  round_trip_sr .xorSi 0x02D g d a i (by decide) (by decide) rfl (fun _ _ => rfl)
theorem xorSu (k : BitVec 1) (d : BitVec 6) (a : BitVec 6) (b : BitVec 6) : Statement (.xorSu k d a b) :=
  round_trip_su .xorSu 0x04D k d a b (by decide) (by decide) rfl (fun _ _ => rfl)
theorem xorL (o : Long) : Statement (.xorL o) :=
  round_trip_long .xorL 0x06D o (by decide) (by decide) rfl (fun _ _ => rfl)
theorem notSr (g : BitVec 2) (d : BitVec 6) (a : BitVec 6) : Statement (.notSr g d a) :=
  round_trip_sr2 .notSr 0x00E g d a (by decide) (by decide) rfl (fun _ _ => rfl)
theorem notSu (d : BitVec 6) (a : BitVec 6) : Statement (.notSu d a) :=
  round_trip_su2 .notSu 0x04E d a (by decide) (by decide) rfl (fun _ _ => rfl)
theorem notL (o : LR) : Statement (.notL o) :=
  round_trip_lr .notL 0x06E o (by decide) (by decide) rfl (fun _ _ => rfl)
theorem shlSr (g : BitVec 2) (d : BitVec 6) (a : BitVec 6) (b : BitVec 6) : Statement (.shlSr g d a b) :=
  round_trip_sr .shlSr 0x00F g d a b (by decide) (by decide) rfl (fun _ _ => rfl)
theorem shlSi (g : BitVec 2) (d : BitVec 6) (a : BitVec 6) (i : BitVec 6) : Statement (.shlSi g d a i) :=
  round_trip_sr .shlSi 0x02F g d a i (by decide) (by decide) rfl (fun _ _ => rfl)
theorem shlSu (k : BitVec 1) (d : BitVec 6) (a : BitVec 6) (b : BitVec 6) : Statement (.shlSu k d a b) :=
  round_trip_su .shlSu 0x04F k d a b (by decide) (by decide) rfl (fun _ _ => rfl)
theorem shlL (o : LR) : Statement (.shlL o) :=
  round_trip_lr .shlL 0x06F o (by decide) (by decide) rfl (fun _ _ => rfl)
theorem shrSr (g : BitVec 2) (d : BitVec 6) (a : BitVec 6) (b : BitVec 6) : Statement (.shrSr g d a b) :=
  round_trip_sr .shrSr 0x010 g d a b (by decide) (by decide) rfl (fun _ _ => rfl)
theorem shrSi (g : BitVec 2) (d : BitVec 6) (a : BitVec 6) (i : BitVec 6) : Statement (.shrSi g d a i) :=
  round_trip_sr .shrSi 0x030 g d a i (by decide) (by decide) rfl (fun _ _ => rfl)
theorem shrSu (k : BitVec 1) (d : BitVec 6) (a : BitVec 6) (b : BitVec 6) : Statement (.shrSu k d a b) :=
  round_trip_su .shrSu 0x050 k d a b (by decide) (by decide) rfl (fun _ _ => rfl)
theorem shrL (o : LR) : Statement (.shrL o) :=
  round_trip_lr .shrL 0x070 o (by decide) (by decide) rfl (fun _ _ => rfl)
theorem sarSr (g : BitVec 2) (d : BitVec 6) (a : BitVec 6) (b : BitVec 6) : Statement (.sarSr g d a b) :=
  round_trip_sr .sarSr 0x011 g d a b (by decide) (by decide) rfl (fun _ _ => rfl)
theorem sarSi (g : BitVec 2) (d : BitVec 6) (a : BitVec 6) (i : BitVec 6) : Statement (.sarSi g d a i) :=
  round_trip_sr .sarSi 0x031 g d a i (by decide) (by decide) rfl (fun _ _ => rfl)
theorem sarSu (k : BitVec 1) (d : BitVec 6) (a : BitVec 6) (b : BitVec 6) : Statement (.sarSu k d a b) :=
  round_trip_su .sarSu 0x051 k d a b (by decide) (by decide) rfl (fun _ _ => rfl)
theorem sarL (o : LR) : Statement (.sarL o) :=
  round_trip_lr .sarL 0x071 o (by decide) (by decide) rfl (fun _ _ => rfl)
theorem rotlSr (g : BitVec 2) (d : BitVec 6) (a : BitVec 6) (b : BitVec 6) : Statement (.rotlSr g d a b) :=
  round_trip_sr .rotlSr 0x012 g d a b (by decide) (by decide) rfl (fun _ _ => rfl)
theorem rotlSi (g : BitVec 2) (d : BitVec 6) (a : BitVec 6) (i : BitVec 6) : Statement (.rotlSi g d a i) :=
  round_trip_sr .rotlSi 0x032 g d a i (by decide) (by decide) rfl (fun _ _ => rfl)
theorem rotlSu (k : BitVec 1) (d : BitVec 6) (a : BitVec 6) (b : BitVec 6) : Statement (.rotlSu k d a b) :=
  round_trip_su .rotlSu 0x052 k d a b (by decide) (by decide) rfl (fun _ _ => rfl)
theorem rotlL (o : LR) : Statement (.rotlL o) :=
  round_trip_lr .rotlL 0x072 o (by decide) (by decide) rfl (fun _ _ => rfl)
theorem bfxL (o : LR) : Statement (.bfxL o) :=
  round_trip_lr .bfxL 0x073 o (by decide) (by decide) rfl (fun _ _ => rfl)
theorem bfiL (o : LR) : Statement (.bfiL o) :=
  round_trip_lr .bfiL 0x074 o (by decide) (by decide) rfl (fun _ _ => rfl)
theorem popcSr (g : BitVec 2) (d : BitVec 6) (a : BitVec 6) : Statement (.popcSr g d a) :=
  round_trip_sr2 .popcSr 0x015 g d a (by decide) (by decide) rfl (fun _ _ => rfl)
theorem popcSu (d : BitVec 6) (a : BitVec 6) : Statement (.popcSu d a) :=
  round_trip_su2 .popcSu 0x055 d a (by decide) (by decide) rfl (fun _ _ => rfl)
theorem popcL (o : LR) : Statement (.popcL o) :=
  round_trip_lr .popcL 0x075 o (by decide) (by decide) rfl (fun _ _ => rfl)
theorem clzSr (g : BitVec 2) (d : BitVec 6) (a : BitVec 6) : Statement (.clzSr g d a) :=
  round_trip_sr2 .clzSr 0x016 g d a (by decide) (by decide) rfl (fun _ _ => rfl)
theorem clzSu (d : BitVec 6) (a : BitVec 6) : Statement (.clzSu d a) :=
  round_trip_su2 .clzSu 0x056 d a (by decide) (by decide) rfl (fun _ _ => rfl)
theorem clzL (o : LR) : Statement (.clzL o) :=
  round_trip_lr .clzL 0x076 o (by decide) (by decide) rfl (fun _ _ => rfl)
theorem brevSr (g : BitVec 2) (d : BitVec 6) (a : BitVec 6) : Statement (.brevSr g d a) :=
  round_trip_sr2 .brevSr 0x017 g d a (by decide) (by decide) rfl (fun _ _ => rfl)
theorem brevSu (d : BitVec 6) (a : BitVec 6) : Statement (.brevSu d a) :=
  round_trip_su2 .brevSu 0x057 d a (by decide) (by decide) rfl (fun _ _ => rfl)
theorem brevL (o : LR) : Statement (.brevL o) :=
  round_trip_lr .brevL 0x077 o (by decide) (by decide) rfl (fun _ _ => rfl)
theorem selSr (p : BitVec 2) (d : BitVec 6) (a : BitVec 6) (b : BitVec 6) : Statement (.selSr p d a b) :=
  round_trip_sr .selSr 0x018 p d a b (by decide) (by decide) rfl (fun _ _ => rfl)
theorem selL (o : LR) : Statement (.selL o) :=
  round_trip_lr .selL 0x078 o (by decide) (by decide) rfl (fun _ _ => rfl)
theorem movSr (g : BitVec 2) (d : BitVec 6) (a : BitVec 6) : Statement (.movSr g d a) :=
  round_trip_sr2 .movSr 0x019 g d a (by decide) (by decide) rfl (fun _ _ => rfl)
theorem movSu (d : BitVec 6) (a : BitVec 6) : Statement (.movSu d a) :=
  round_trip_su2 .movSu 0x059 d a (by decide) (by decide) rfl (fun _ _ => rfl)
theorem movL (o : LR) : Statement (.movL o) :=
  round_trip_two 0x079 (lrWord 0x079 o) (lrExt o) (by decide) (encLR_words 0x079 o) (fun m => (lr_bits o 0x079 m (by decide)).1) fun m h =>
    (decodeOps_mov _ _).trans ((decMov_enc o m).trans (by rw [mov_x h]; rfl))
theorem movSpecial (o : LR) : Statement (.movSpecial o) :=
  round_trip_two 0x079 (lrWord 0x079 o) (lrExt o) (by decide) (encLR_words 0x079 o) (fun m => (lr_bits o 0x079 m (by decide)).1) fun m h =>
    (decodeOps_mov _ _).trans ((decMov_enc o m).trans (by rw [special_x h]; rfl))
theorem moviSi (g : BitVec 2) (d : BitVec 6) (i : BitVec 6) : Statement (.moviSi g d i) := by
  have := g.isLt
  have := d.isLt
  have := i.isLt
  have hd (w x : Nat) : decodeOps 0x03A w x = if slc w 6 6 = 0 then some (.moviSi (fld 2 w 18) (fld 6 w 12) (fld 6 w 0)) else none := rfl
  refine round_trip_one 0x03A (0x03A00000 + g.toNat * 2 ^ 18 + d.toNat * 2 ^ 12 + i.toNat) (by decide) rfl (fun mc => by simp only [slc]; omega) fun mc => (hd _ _).trans ?_
  have h0 : slc (0x03A00000 + g.toNat * 2 ^ 18 + d.toNat * 2 ^ 12 + i.toNat + mc * 2 ^ 30) 6 6 = 0 := by simp only [slc]; omega
  rw [h0, if_pos (by decide), fld_of (f := g) (by omega), fld_of (f := d) (by omega), fld_of (f := i) (by omega)]
theorem moviSu (d : BitVec 6) (i : BitVec 6) : Statement (.moviSu d i) := by
  have := d.isLt
  have := i.isLt
  have hd (w x : Nat) : decodeOps 0x05A w x = if slc w 6 6 = 0 && slc w 18 2 = 2 then some (.moviSu (fld 6 w 12) (fld 6 w 0)) else none := rfl
  refine round_trip_one 0x05A (0x05A80000 + d.toNat * 2 ^ 12 + i.toNat) (by decide) rfl (fun mc => by simp only [slc]; omega) fun mc => (hd _ _).trans ?_
  have h0 : slc (0x05A80000 + d.toNat * 2 ^ 12 + i.toNat + mc * 2 ^ 30) 6 6 = 0 := by simp only [slc]; omega
  have h1 : slc (0x05A80000 + d.toNat * 2 ^ 12 + i.toNat + mc * 2 ^ 30) 18 2 = 2 := by simp only [slc]; omega
  rw [h0, h1, if_pos (by decide), fld_of (f := d) (by omega), fld_of (f := i) (by omega)]
theorem moviLi (o : LI) : Statement (.moviLi o) :=
  round_trip_li .moviLi 0x07A o (by decide) (by decide) rfl (fun _ _ => rfl)
theorem leaL (o : Long) : Statement (.leaL o) :=
  round_trip_long .leaL 0x07B o (by decide) (by decide) rfl (fun _ _ => rfl)
theorem icmpEqSc (g : BitVec 2) (t : BitVec 3) (q : BitVec 2) (w : BitVec 1) (a : BitVec 6) (b : BitVec 6) : Statement (.icmpEqSc g t q w a b) :=
  round_trip_sc .icmpEqSc 0x01C g t q w a b (by decide) (by decide) rfl (fun _ _ => rfl)
theorem icmpEqSci (g : BitVec 2) (t : BitVec 3) (q : BitVec 2) (w : BitVec 1) (a : BitVec 6) (i : BitVec 6) : Statement (.icmpEqSci g t q w a i) :=
  round_trip_sc .icmpEqSci 0x03C g t q w a i (by decide) (by decide) rfl (fun _ _ => rfl)
theorem icmpNeSc (g : BitVec 2) (t : BitVec 3) (q : BitVec 2) (w : BitVec 1) (a : BitVec 6) (b : BitVec 6) : Statement (.icmpNeSc g t q w a b) :=
  round_trip_sc .icmpNeSc 0x01D g t q w a b (by decide) (by decide) rfl (fun _ _ => rfl)
theorem icmpNeSci (g : BitVec 2) (t : BitVec 3) (q : BitVec 2) (w : BitVec 1) (a : BitVec 6) (i : BitVec 6) : Statement (.icmpNeSci g t q w a i) :=
  round_trip_sc .icmpNeSci 0x03D g t q w a i (by decide) (by decide) rfl (fun _ _ => rfl)
theorem icmpLtSc (g : BitVec 2) (t : BitVec 3) (q : BitVec 2) (w : BitVec 1) (a : BitVec 6) (b : BitVec 6) : Statement (.icmpLtSc g t q w a b) :=
  round_trip_sc .icmpLtSc 0x01E g t q w a b (by decide) (by decide) rfl (fun _ _ => rfl)
theorem icmpLtSci (g : BitVec 2) (t : BitVec 3) (q : BitVec 2) (w : BitVec 1) (a : BitVec 6) (i : BitVec 6) : Statement (.icmpLtSci g t q w a i) :=
  round_trip_sc .icmpLtSci 0x03E g t q w a i (by decide) (by decide) rfl (fun _ _ => rfl)
theorem icmpLeSc (g : BitVec 2) (t : BitVec 3) (q : BitVec 2) (w : BitVec 1) (a : BitVec 6) (b : BitVec 6) : Statement (.icmpLeSc g t q w a b) :=
  round_trip_sc .icmpLeSc 0x01F g t q w a b (by decide) (by decide) rfl (fun _ _ => rfl)
theorem icmpLeSci (g : BitVec 2) (t : BitVec 3) (q : BitVec 2) (w : BitVec 1) (a : BitVec 6) (i : BitVec 6) : Statement (.icmpLeSci g t q w a i) :=
  round_trip_sc .icmpLeSci 0x03F g t q w a i (by decide) (by decide) rfl (fun _ _ => rfl)
theorem icmpL (o : LR) : Statement (.icmpL o) :=
  round_trip_lr .icmpL 0x07C o (by decide) (by decide) rfl (fun _ _ => rfl)
theorem faddSr (g : BitVec 2) (d : BitVec 6) (a : BitVec 6) (b : BitVec 6) : Statement (.faddSr g d a b) :=
  round_trip_sr .faddSr 0x081 g d a b (by decide) (by decide) rfl (fun _ _ => rfl)
theorem faddSu (d : BitVec 6) (a : BitVec 6) (b : BitVec 6) : Statement (.faddSu d a b) :=
  round_trip_su3 .faddSu 0x0C1 d a b (by decide) (by decide) rfl (fun _ _ => rfl)
theorem faddL (o : Long) : Statement (.faddL o) :=
  round_trip_long .faddL 0x0E1 o (by decide) (by decide) rfl (fun _ _ => rfl)
theorem fsubSr (g : BitVec 2) (d : BitVec 6) (a : BitVec 6) (b : BitVec 6) : Statement (.fsubSr g d a b) :=
  round_trip_sr .fsubSr 0x082 g d a b (by decide) (by decide) rfl (fun _ _ => rfl)
theorem fsubSu (d : BitVec 6) (a : BitVec 6) (b : BitVec 6) : Statement (.fsubSu d a b) :=
  round_trip_su3 .fsubSu 0x0C2 d a b (by decide) (by decide) rfl (fun _ _ => rfl)
theorem fsubL (o : Long) : Statement (.fsubL o) :=
  round_trip_long .fsubL 0x0E2 o (by decide) (by decide) rfl (fun _ _ => rfl)
theorem fmulSr (g : BitVec 2) (d : BitVec 6) (a : BitVec 6) (b : BitVec 6) : Statement (.fmulSr g d a b) :=
  round_trip_sr .fmulSr 0x083 g d a b (by decide) (by decide) rfl (fun _ _ => rfl)
theorem fmulSu (d : BitVec 6) (a : BitVec 6) (b : BitVec 6) : Statement (.fmulSu d a b) :=
  round_trip_su3 .fmulSu 0x0C3 d a b (by decide) (by decide) rfl (fun _ _ => rfl)
theorem fmulL (o : Long) : Statement (.fmulL o) :=
  round_trip_long .fmulL 0x0E3 o (by decide) (by decide) rfl (fun _ _ => rfl)
theorem ffmaL (o : LR) : Statement (.ffmaL o) :=
  round_trip_lr .ffmaL 0x0E4 o (by decide) (by decide) rfl (fun _ _ => rfl)
theorem fminSr (g : BitVec 2) (d : BitVec 6) (a : BitVec 6) (b : BitVec 6) : Statement (.fminSr g d a b) :=
  round_trip_sr .fminSr 0x085 g d a b (by decide) (by decide) rfl (fun _ _ => rfl)
theorem fminSu (d : BitVec 6) (a : BitVec 6) (b : BitVec 6) : Statement (.fminSu d a b) :=
  round_trip_su3 .fminSu 0x0C5 d a b (by decide) (by decide) rfl (fun _ _ => rfl)
theorem fminL (o : Long) : Statement (.fminL o) :=
  round_trip_long .fminL 0x0E5 o (by decide) (by decide) rfl (fun _ _ => rfl)
theorem fmaxSr (g : BitVec 2) (d : BitVec 6) (a : BitVec 6) (b : BitVec 6) : Statement (.fmaxSr g d a b) :=
  round_trip_sr .fmaxSr 0x086 g d a b (by decide) (by decide) rfl (fun _ _ => rfl)
theorem fmaxSu (d : BitVec 6) (a : BitVec 6) (b : BitVec 6) : Statement (.fmaxSu d a b) :=
  round_trip_su3 .fmaxSu 0x0C6 d a b (by decide) (by decide) rfl (fun _ _ => rfl)
theorem fmaxL (o : Long) : Statement (.fmaxL o) :=
  round_trip_long .fmaxL 0x0E6 o (by decide) (by decide) rfl (fun _ _ => rfl)
theorem fnegSr (g : BitVec 2) (d : BitVec 6) (a : BitVec 6) : Statement (.fnegSr g d a) :=
  round_trip_sr2 .fnegSr 0x087 g d a (by decide) (by decide) rfl (fun _ _ => rfl)
theorem fnegSu (d : BitVec 6) (a : BitVec 6) : Statement (.fnegSu d a) :=
  round_trip_su2 .fnegSu 0x0C7 d a (by decide) (by decide) rfl (fun _ _ => rfl)
theorem fnegL (o : LR) : Statement (.fnegL o) :=
  round_trip_lr .fnegL 0x0E7 o (by decide) (by decide) rfl (fun _ _ => rfl)
theorem fabsSr (g : BitVec 2) (d : BitVec 6) (a : BitVec 6) : Statement (.fabsSr g d a) :=
  round_trip_sr2 .fabsSr 0x088 g d a (by decide) (by decide) rfl (fun _ _ => rfl)
theorem fabsSu (d : BitVec 6) (a : BitVec 6) : Statement (.fabsSu d a) :=
  round_trip_su2 .fabsSu 0x0C8 d a (by decide) (by decide) rfl (fun _ _ => rfl)
theorem fabsL (o : LR) : Statement (.fabsL o) :=
  round_trip_lr .fabsL 0x0E8 o (by decide) (by decide) rfl (fun _ _ => rfl)
theorem frcpSr (g : BitVec 2) (d : BitVec 6) (a : BitVec 6) : Statement (.frcpSr g d a) :=
  round_trip_sr2 .frcpSr 0x089 g d a (by decide) (by decide) rfl (fun _ _ => rfl)
theorem frcpSu (d : BitVec 6) (a : BitVec 6) : Statement (.frcpSu d a) :=
  round_trip_su2 .frcpSu 0x0C9 d a (by decide) (by decide) rfl (fun _ _ => rfl)
theorem frcpL (o : LR) : Statement (.frcpL o) :=
  round_trip_lr .frcpL 0x0E9 o (by decide) (by decide) rfl (fun _ _ => rfl)
theorem frsqSr (g : BitVec 2) (d : BitVec 6) (a : BitVec 6) : Statement (.frsqSr g d a) :=
  round_trip_sr2 .frsqSr 0x08A g d a (by decide) (by decide) rfl (fun _ _ => rfl)
theorem frsqSu (d : BitVec 6) (a : BitVec 6) : Statement (.frsqSu d a) :=
  round_trip_su2 .frsqSu 0x0CA d a (by decide) (by decide) rfl (fun _ _ => rfl)
theorem frsqL (o : LR) : Statement (.frsqL o) :=
  round_trip_lr .frsqL 0x0EA o (by decide) (by decide) rfl (fun _ _ => rfl)
theorem fsqrtSr (g : BitVec 2) (d : BitVec 6) (a : BitVec 6) : Statement (.fsqrtSr g d a) :=
  round_trip_sr2 .fsqrtSr 0x08B g d a (by decide) (by decide) rfl (fun _ _ => rfl)
theorem fsqrtSu (d : BitVec 6) (a : BitVec 6) : Statement (.fsqrtSu d a) :=
  round_trip_su2 .fsqrtSu 0x0CB d a (by decide) (by decide) rfl (fun _ _ => rfl)
theorem fsqrtL (o : LR) : Statement (.fsqrtL o) :=
  round_trip_lr .fsqrtL 0x0EB o (by decide) (by decide) rfl (fun _ _ => rfl)
theorem fexp2Sr (g : BitVec 2) (d : BitVec 6) (a : BitVec 6) : Statement (.fexp2Sr g d a) :=
  round_trip_sr2 .fexp2Sr 0x08C g d a (by decide) (by decide) rfl (fun _ _ => rfl)
theorem fexp2Su (d : BitVec 6) (a : BitVec 6) : Statement (.fexp2Su d a) :=
  round_trip_su2 .fexp2Su 0x0CC d a (by decide) (by decide) rfl (fun _ _ => rfl)
theorem fexp2L (o : LR) : Statement (.fexp2L o) :=
  round_trip_lr .fexp2L 0x0EC o (by decide) (by decide) rfl (fun _ _ => rfl)
theorem flog2Sr (g : BitVec 2) (d : BitVec 6) (a : BitVec 6) : Statement (.flog2Sr g d a) :=
  round_trip_sr2 .flog2Sr 0x08D g d a (by decide) (by decide) rfl (fun _ _ => rfl)
theorem flog2Su (d : BitVec 6) (a : BitVec 6) : Statement (.flog2Su d a) :=
  round_trip_su2 .flog2Su 0x0CD d a (by decide) (by decide) rfl (fun _ _ => rfl)
theorem flog2L (o : LR) : Statement (.flog2L o) :=
  round_trip_lr .flog2L 0x0ED o (by decide) (by decide) rfl (fun _ _ => rfl)
theorem fsinSr (g : BitVec 2) (d : BitVec 6) (a : BitVec 6) : Statement (.fsinSr g d a) :=
  round_trip_sr2 .fsinSr 0x08E g d a (by decide) (by decide) rfl (fun _ _ => rfl)
theorem fsinSu (d : BitVec 6) (a : BitVec 6) : Statement (.fsinSu d a) :=
  round_trip_su2 .fsinSu 0x0CE d a (by decide) (by decide) rfl (fun _ _ => rfl)
theorem fsinL (o : LR) : Statement (.fsinL o) :=
  round_trip_lr .fsinL 0x0EE o (by decide) (by decide) rfl (fun _ _ => rfl)
theorem fcosSr (g : BitVec 2) (d : BitVec 6) (a : BitVec 6) : Statement (.fcosSr g d a) :=
  round_trip_sr2 .fcosSr 0x08F g d a (by decide) (by decide) rfl (fun _ _ => rfl)
theorem fcosSu (d : BitVec 6) (a : BitVec 6) : Statement (.fcosSu d a) :=
  round_trip_su2 .fcosSu 0x0CF d a (by decide) (by decide) rfl (fun _ _ => rfl)
theorem fcosL (o : LR) : Statement (.fcosL o) :=
  round_trip_lr .fcosL 0x0EF o (by decide) (by decide) rfl (fun _ _ => rfl)
theorem ftanhSr (g : BitVec 2) (d : BitVec 6) (a : BitVec 6) : Statement (.ftanhSr g d a) :=
  round_trip_sr2 .ftanhSr 0x090 g d a (by decide) (by decide) rfl (fun _ _ => rfl)
theorem ftanhSu (d : BitVec 6) (a : BitVec 6) : Statement (.ftanhSu d a) :=
  round_trip_su2 .ftanhSu 0x0D0 d a (by decide) (by decide) rfl (fun _ _ => rfl)
theorem ftanhL (o : LR) : Statement (.ftanhL o) :=
  round_trip_lr .ftanhL 0x0F0 o (by decide) (by decide) rfl (fun _ _ => rfl)
theorem fclassSr (g : BitVec 2) (d : BitVec 6) (a : BitVec 6) : Statement (.fclassSr g d a) :=
  round_trip_sr2 .fclassSr 0x091 g d a (by decide) (by decide) rfl (fun _ _ => rfl)
theorem fclassL (o : LR) : Statement (.fclassL o) :=
  round_trip_lr .fclassL 0x0F1 o (by decide) (by decide) rfl (fun _ _ => rfl)
theorem cvtSr (g : BitVec 2) (d : BitVec 6) (a : BitVec 6) : Statement (.cvtSr g d a) :=
  round_trip_sr2 .cvtSr 0x092 g d a (by decide) (by decide) rfl (fun _ _ => rfl)
theorem cvtSu (d : BitVec 6) (a : BitVec 6) : Statement (.cvtSu d a) :=
  round_trip_su2 .cvtSu 0x0D2 d a (by decide) (by decide) rfl (fun _ _ => rfl)
theorem cvtL (o : LR) : Statement (.cvtL o) :=
  round_trip_lr .cvtL 0x0F2 o (by decide) (by decide) rfl (fun _ _ => rfl)
theorem fcmpEqSc (g : BitVec 2) (t : BitVec 3) (q : BitVec 2) (w : BitVec 1) (a : BitVec 6) (b : BitVec 6) : Statement (.fcmpEqSc g t q w a b) :=
  round_trip_sc .fcmpEqSc 0x09C g t q w a b (by decide) (by decide) rfl (fun _ _ => rfl)
theorem fcmpNeSc (g : BitVec 2) (t : BitVec 3) (q : BitVec 2) (w : BitVec 1) (a : BitVec 6) (b : BitVec 6) : Statement (.fcmpNeSc g t q w a b) :=
  round_trip_sc .fcmpNeSc 0x09D g t q w a b (by decide) (by decide) rfl (fun _ _ => rfl)
theorem fcmpLtSc (g : BitVec 2) (t : BitVec 3) (q : BitVec 2) (w : BitVec 1) (a : BitVec 6) (b : BitVec 6) : Statement (.fcmpLtSc g t q w a b) :=
  round_trip_sc .fcmpLtSc 0x09E g t q w a b (by decide) (by decide) rfl (fun _ _ => rfl)
theorem fcmpLeSc (g : BitVec 2) (t : BitVec 3) (q : BitVec 2) (w : BitVec 1) (a : BitVec 6) (b : BitVec 6) : Statement (.fcmpLeSc g t q w a b) :=
  round_trip_sc .fcmpLeSc 0x09F g t q w a b (by decide) (by decide) rfl (fun _ _ => rfl)
theorem fcmpL (o : LR) : Statement (.fcmpL o) :=
  round_trip_lr .fcmpL 0x0FC o (by decide) (by decide) rfl (fun _ _ => rfl)
theorem dot4Sr (g : BitVec 2) (d : BitVec 6) (a : BitVec 6) (b : BitVec 6) : Statement (.dot4Sr g d a b) :=
  round_trip_sr .dot4Sr 0x101 g d a b (by decide) (by decide) rfl (fun _ _ => rfl)
theorem dot4L (o : LR) : Statement (.dot4L o) :=
  round_trip_lr .dot4L 0x161 o (by decide) (by decide) rfl (fun _ _ => rfl)
theorem dot8Sr (g : BitVec 2) (d : BitVec 6) (a : BitVec 6) (b : BitVec 6) : Statement (.dot8Sr g d a b) :=
  round_trip_sr .dot8Sr 0x102 g d a b (by decide) (by decide) rfl (fun _ _ => rfl)
theorem dot8L (o : LR) : Statement (.dot8L o) :=
  round_trip_lr .dot8L 0x162 o (by decide) (by decide) rfl (fun _ _ => rfl)
theorem qpackSr (g : BitVec 2) (d : BitVec 6) (a : BitVec 6) : Statement (.qpackSr g d a) :=
  round_trip_sr2 .qpackSr 0x103 g d a (by decide) (by decide) rfl (fun _ _ => rfl)
theorem qpackL (o : LR) : Statement (.qpackL o) :=
  round_trip_lr .qpackL 0x163 o (by decide) (by decide) rfl (fun _ _ => rfl)
theorem qunpkSr (g : BitVec 2) (d : BitVec 6) (a : BitVec 6) : Statement (.qunpkSr g d a) :=
  round_trip_sr2 .qunpkSr 0x104 g d a (by decide) (by decide) rfl (fun _ _ => rfl)
theorem qunpkL (o : LR) : Statement (.qunpkL o) :=
  round_trip_lr .qunpkL 0x164 o (by decide) (by decide) rfl (fun _ _ => rfl)
theorem shflSr (g : BitVec 2) (d : BitVec 6) (a : BitVec 6) (b : BitVec 6) : Statement (.shflSr g d a b) :=
  round_trip_sr .shflSr 0x105 g d a b (by decide) (by decide) rfl (fun _ _ => rfl)
theorem shflRotSi (g : BitVec 2) (d : BitVec 6) (a : BitVec 6) (i : BitVec 6) : Statement (.shflRotSi g d a i) :=
  round_trip_sr .shflRotSi 0x125 g d a i (by decide) (by decide) rfl (fun _ _ => rfl)
theorem shflL (o : LR) : Statement (.shflL o) :=
  round_trip_lr .shflL 0x165 o (by decide) (by decide) rfl (fun _ _ => rfl)
theorem xbflySr (g : BitVec 2) (d : BitVec 6) (a : BitVec 6) (b : BitVec 6) : Statement (.xbflySr g d a b) :=
  round_trip_sr .xbflySr 0x106 g d a b (by decide) (by decide) rfl (fun _ _ => rfl)
theorem xbflySi (g : BitVec 2) (d : BitVec 6) (a : BitVec 6) (i : BitVec 6) : Statement (.xbflySi g d a i) :=
  round_trip_sr .xbflySi 0x126 g d a i (by decide) (by decide) rfl (fun _ _ => rfl)
theorem xbflyL (o : LR) : Statement (.xbflyL o) :=
  round_trip_lr .xbflyL 0x166 o (by decide) (by decide) rfl (fun _ _ => rfl)
theorem bcastSr (g : BitVec 2) (d : BitVec 6) (a : BitVec 6) (b : BitVec 6) : Statement (.bcastSr g d a b) :=
  round_trip_sr .bcastSr 0x107 g d a b (by decide) (by decide) rfl (fun _ _ => rfl)
theorem bcastSi (g : BitVec 2) (d : BitVec 6) (a : BitVec 6) (i : BitVec 6) : Statement (.bcastSi g d a i) :=
  round_trip_sr .bcastSi 0x127 g d a i (by decide) (by decide) rfl (fun _ _ => rfl)
theorem bcastL (o : LR) : Statement (.bcastL o) :=
  round_trip_lr .bcastL 0x167 o (by decide) (by decide) rfl (fun _ _ => rfl)
theorem voteSf (g : BitVec 2) (m : BitVec 3) (p : BitVec 3) (d : BitVec 6) : Statement (.voteSf g m p d) := by
  have := g.isLt
  have := m.isLt
  have := p.isLt
  have := d.isLt
  have hd (w x : Nat) : decodeOps 0x108 w x = if slc w 0 6 = 0 then some (.voteSf (fld 2 w 18) (fld 3 w 15) (fld 3 w 12) (fld 6 w 6)) else none := rfl
  refine round_trip_one 0x108 (0x10800000 + g.toNat * 2 ^ 18 + m.toNat * 2 ^ 15 + p.toNat * 2 ^ 12 + d.toNat * 2 ^ 6) (by decide) rfl (fun mc => by simp only [slc]; omega) fun mc => (hd _ _).trans ?_
  have h0 : slc (0x10800000 + g.toNat * 2 ^ 18 + m.toNat * 2 ^ 15 + p.toNat * 2 ^ 12 + d.toNat * 2 ^ 6 + mc * 2 ^ 30) 0 6 = 0 := by simp only [slc]; omega
  rw [h0, if_pos (by decide), fld_of (f := g) (by omega), fld_of (f := m) (by omega), fld_of (f := p) (by omega), fld_of (f := d) (by omega)]
theorem voteL (o : LR) : Statement (.voteL o) :=
  round_trip_lr .voteL 0x168 o (by decide) (by decide) rfl (fun _ _ => rfl)
theorem elect (p : BitVec 5) : Statement (.elect p) := by
  have := p.isLt
  have hd (w x : Nat) : decodeOps 0x109 w x = if slc w 0 15 = 0 then some (.elect (fld 5 w 15)) else none := rfl
  refine round_trip_one 0x109 (0x10900000 + p.toNat * 2 ^ 15) (by decide) rfl (fun mc => by simp only [slc]; omega) fun mc => (hd _ _).trans ?_
  have h0 : slc (0x10900000 + p.toNat * 2 ^ 15 + mc * 2 ^ 30) 0 15 = 0 := by simp only [slc]; omega
  rw [h0, if_pos (by decide), fld_of (f := p) (by omega)]
theorem lredSr (g : BitVec 2) (d : BitVec 6) (a : BitVec 6) : Statement (.lredSr g d a) :=
  round_trip_sr2 .lredSr 0x10A g d a (by decide) (by decide) rfl (fun _ _ => rfl)
theorem lredL (o : LR) : Statement (.lredL o) :=
  round_trip_lr .lredL 0x16A o (by decide) (by decide) rfl (fun _ _ => rfl)
theorem lscanSr (g : BitVec 2) (d : BitVec 6) (a : BitVec 6) : Statement (.lscanSr g d a) :=
  round_trip_sr2 .lscanSr 0x10B g d a (by decide) (by decide) rfl (fun _ _ => rfl)
theorem lscanL (o : LR) : Statement (.lscanL o) :=
  round_trip_lr .lscanL 0x16B o (by decide) (by decide) rfl (fun _ _ => rfl)
theorem vfacL (o : LR) : Statement (.vfacL o) :=
  round_trip_lr .vfacL 0x16C o (by decide) (by decide) rfl (fun _ _ => rfl)
theorem ldSi (g : BitVec 2) (d : BitVec 6) (a : BitVec 6) (i : BitVec 6) : Statement (.ldSi g d a i) :=
  round_trip_sr .ldSi 0x1A1 g d a i (by decide) (by decide) rfl (fun _ _ => rfl)
theorem ldL (o : Long) : Statement (.ldL o) :=
  round_trip_long .ldL 0x1E1 o (by decide) (by decide) rfl (fun _ _ => rfl)
theorem stSi (g : BitVec 2) (d : BitVec 6) (a : BitVec 6) (i : BitVec 6) : Statement (.stSi g d a i) :=
  round_trip_sr .stSi 0x1A2 g d a i (by decide) (by decide) rfl (fun _ _ => rfl)
theorem stL (o : Long) : Statement (.stL o) :=
  round_trip_long .stL 0x1E2 o (by decide) (by decide) rfl (fun _ _ => rfl)
theorem prefSi (g : BitVec 2) (l : BitVec 6) (a : BitVec 6) (i : BitVec 6) : Statement (.prefSi g l a i) :=
  round_trip_sr .prefSi 0x1A3 g l a i (by decide) (by decide) rfl (fun _ _ => rfl)
theorem prefL (o : Long) : Statement (.prefL o) :=
  round_trip_long .prefL 0x1E3 o (by decide) (by decide) rfl (fun _ _ => rfl)
theorem atomL (o : LR) : Statement (.atomL o) :=
  round_trip_lr .atomL 0x261 o (by decide) (by decide) rfl (fun _ _ => rfl)
theorem redL (o : LR) : Statement (.redL o) :=
  round_trip_lr .redL 0x262 o (by decide) (by decide) rfl (fun _ _ => rfl)
theorem casL (o : LR) : Statement (.casL o) :=
  round_trip_lr .casL 0x263 o (by decide) (by decide) rfl (fun _ _ => rfl)
theorem cas64L (o : LR) : Statement (.cas64L o) :=
  round_trip_lr .cas64L 0x264 o (by decide) (by decide) rfl (fun _ _ => rfl)
theorem cas128L (o : LR) : Statement (.cas128L o) :=
  round_trip_lr .cas128L 0x265 o (by decide) (by decide) rfl (fun _ _ => rfl)
theorem dldSi (g : BitVec 2) (d : BitVec 6) (a : BitVec 6) (i : BitVec 6) : Statement (.dldSi g d a i) :=
  round_trip_sr .dldSi 0x228 g d a i (by decide) (by decide) rfl (fun _ _ => rfl)
theorem dldL (o : LR) : Statement (.dldL o) :=
  round_trip_lr .dldL 0x268 o (by decide) (by decide) rfl (fun _ _ => rfl)
theorem dstSi (g : BitVec 2) (d : BitVec 6) (a : BitVec 6) (i : BitVec 6) : Statement (.dstSi g d a i) :=
  round_trip_sr .dstSi 0x229 g d a i (by decide) (by decide) rfl (fun _ _ => rfl)
theorem dstL (o : LR) : Statement (.dstL o) :=
  round_trip_lr .dstL 0x269 o (by decide) (by decide) rfl (fun _ _ => rfl)
theorem daddL (o : LR) : Statement (.daddL o) :=
  round_trip_lr .daddL 0x26A o (by decide) (by decide) rfl (fun _ _ => rfl)
theorem demaL (o : LR) : Statement (.demaL o) :=
  round_trip_lr .demaL 0x26B o (by decide) (by decide) rfl (fun _ _ => rfl)
theorem dmrgL (o : LR) : Statement (.dmrgL o) :=
  round_trip_lr .dmrgL 0x26C o (by decide) (by decide) rfl (fun _ _ => rfl)
theorem odoRd (g : BitVec 2) (d : BitVec 6) : Statement (.odoRd g d) :=
  round_trip_sf1 .odoRd 0x20D g d (by decide) (by decide) rfl (fun _ _ => rfl)
theorem odoAdv (g : BitVec 2) (d : BitVec 6) (n : BitVec 6) : Statement (.odoAdv g d n) := by
  have := g.isLt
  have := d.isLt
  have := n.isLt
  have hd (w x : Nat) : decodeOps 0x20E w x = if slc w 6 6 = 0 then some (.odoAdv (fld 2 w 18) (fld 6 w 12) (fld 6 w 0)) else none := rfl
  refine round_trip_one 0x20E (0x20E00000 + g.toNat * 2 ^ 18 + d.toNat * 2 ^ 12 + n.toNat) (by decide) rfl (fun mc => by simp only [slc]; omega) fun mc => (hd _ _).trans ?_
  have h0 : slc (0x20E00000 + g.toNat * 2 ^ 18 + d.toNat * 2 ^ 12 + n.toNat + mc * 2 ^ 30) 6 6 = 0 := by simp only [slc]; omega
  rw [h0, if_pos (by decide), fld_of (f := g) (by omega), fld_of (f := d) (by omega), fld_of (f := n) (by omega)]
theorem lbind (n : BitVec 3) : Statement (.lbind n) := by
  have := n.isLt
  have hd (w x : Nat) : decodeOps 0x210 w x = if slc w 3 17 = 0 then some (.lbind (fld 3 w 0)) else none := rfl
  refine round_trip_one 0x210 (0x21000000 + n.toNat) (by decide) rfl (fun mc => by simp only [slc]; omega) fun mc => (hd _ _).trans ?_
  have h0 : slc (0x21000000 + n.toNat + mc * 2 ^ 30) 3 17 = 0 := by simp only [slc]; omega
  rw [h0, if_pos (by decide), fld_of (f := n) (by omega)]
theorem lfree : Statement (.lfree) := by
  have hd (w x : Nat) : decodeOps 0x211 w x = if slc w 0 20 = 0 then some .lfree else none := rfl
  refine round_trip_one 0x211 (0x21100000) (by decide) rfl (fun mc => by simp only [slc]; omega) fun mc => (hd _ _).trans ?_
  have h0 : slc (0x21100000 + mc * 2 ^ 30) 0 20 = 0 := by simp only [slc]; omega
  rw [h0, if_pos (by decide)]
theorem laddSr (g : BitVec 2) (d : BitVec 6) (a : BitVec 6) (b : BitVec 6) : Statement (.laddSr g d a b) :=
  round_trip_sr .laddSr 0x212 g d a b (by decide) (by decide) rfl (fun _ _ => rfl)
theorem laddL (o : LR) : Statement (.laddL o) :=
  round_trip_lr .laddL 0x272 o (by decide) (by decide) rfl (fun _ _ => rfl)
theorem ladcSr (g : BitVec 2) (d : BitVec 6) (a : BitVec 6) (b : BitVec 6) : Statement (.ladcSr g d a b) :=
  round_trip_sr .ladcSr 0x213 g d a b (by decide) (by decide) rfl (fun _ _ => rfl)
theorem ladcL (o : LR) : Statement (.ladcL o) :=
  round_trip_lr .ladcL 0x273 o (by decide) (by decide) rfl (fun _ _ => rfl)
theorem lsubSr (g : BitVec 2) (d : BitVec 6) (a : BitVec 6) (b : BitVec 6) : Statement (.lsubSr g d a b) :=
  round_trip_sr .lsubSr 0x214 g d a b (by decide) (by decide) rfl (fun _ _ => rfl)
theorem lsubL (o : LR) : Statement (.lsubL o) :=
  round_trip_lr .lsubL 0x274 o (by decide) (by decide) rfl (fun _ _ => rfl)
theorem lsbcSr (g : BitVec 2) (d : BitVec 6) (a : BitVec 6) (b : BitVec 6) : Statement (.lsbcSr g d a b) :=
  round_trip_sr .lsbcSr 0x215 g d a b (by decide) (by decide) rfl (fun _ _ => rfl)
theorem lsbcL (o : LR) : Statement (.lsbcL o) :=
  round_trip_lr .lsbcL 0x275 o (by decide) (by decide) rfl (fun _ _ => rfl)
theorem lnegSr (g : BitVec 2) (d : BitVec 6) (a : BitVec 6) : Statement (.lnegSr g d a) :=
  round_trip_sr2 .lnegSr 0x216 g d a (by decide) (by decide) rfl (fun _ _ => rfl)
theorem lnegL (o : LR) : Statement (.lnegL o) :=
  round_trip_lr .lnegL 0x276 o (by decide) (by decide) rfl (fun _ _ => rfl)
theorem lshlSr (g : BitVec 2) (d : BitVec 6) (a : BitVec 6) (b : BitVec 6) : Statement (.lshlSr g d a b) :=
  round_trip_sr .lshlSr 0x217 g d a b (by decide) (by decide) rfl (fun _ _ => rfl)
theorem lshlSi (g : BitVec 2) (d : BitVec 6) (a : BitVec 6) (k : BitVec 6) : Statement (.lshlSi g d a k) :=
  round_trip_sr .lshlSi 0x237 g d a k (by decide) (by decide) rfl (fun _ _ => rfl)
theorem lshlL (o : LR) : Statement (.lshlL o) :=
  round_trip_lr .lshlL 0x277 o (by decide) (by decide) rfl (fun _ _ => rfl)
theorem lshrSr (g : BitVec 2) (d : BitVec 6) (a : BitVec 6) (b : BitVec 6) : Statement (.lshrSr g d a b) :=
  round_trip_sr .lshrSr 0x218 g d a b (by decide) (by decide) rfl (fun _ _ => rfl)
theorem lshrSi (g : BitVec 2) (d : BitVec 6) (a : BitVec 6) (k : BitVec 6) : Statement (.lshrSi g d a k) :=
  round_trip_sr .lshrSi 0x238 g d a k (by decide) (by decide) rfl (fun _ _ => rfl)
theorem lshrL (o : LR) : Statement (.lshrL o) :=
  round_trip_lr .lshrL 0x278 o (by decide) (by decide) rfl (fun _ _ => rfl)
theorem lcmpSc (g : BitVec 2) (t : BitVec 3) (q : BitVec 2) (w : BitVec 1) (a : BitVec 6) (b : BitVec 6) : Statement (.lcmpSc g t q w a b) :=
  round_trip_sc .lcmpSc 0x219 g t q w a b (by decide) (by decide) rfl (fun _ _ => rfl)
theorem lcmpL (o : LR) : Statement (.lcmpL o) :=
  round_trip_lr .lcmpL 0x279 o (by decide) (by decide) rfl (fun _ _ => rfl)
theorem lmadL (o : LR) : Statement (.lmadL o) :=
  round_trip_lr .lmadL 0x27A o (by decide) (by decide) rfl (fun _ _ => rfl)
theorem lcarrySr (g : BitVec 2) (d : BitVec 6) (a : BitVec 6) (b : BitVec 6) : Statement (.lcarrySr g d a b) :=
  round_trip_sr .lcarrySr 0x21B g d a b (by decide) (by decide) rfl (fun _ _ => rfl)
theorem lcarryL (o : LR) : Statement (.lcarryL o) :=
  round_trip_lr .lcarryL 0x27B o (by decide) (by decide) rfl (fun _ _ => rfl)
theorem mma (g : BitVec 2) (q : BitVec 6) (l : BitVec 1) : Statement (.mma g q l) := by
  have := g.isLt
  have := q.isLt
  have := l.isLt
  have hd (w x : Nat) : decodeOps 0x281 w x = if slc w 0 11 = 0 then some (.mma (fld 2 w 18) (fld 6 w 12) (fld 1 w 11)) else none := rfl
  refine round_trip_one 0x281 (0x28100000 + g.toNat * 2 ^ 18 + q.toNat * 2 ^ 12 + l.toNat * 2 ^ 11) (by decide) rfl (fun mc => by simp only [slc]; omega) fun mc => (hd _ _).trans ?_
  have h0 : slc (0x28100000 + g.toNat * 2 ^ 18 + q.toNat * 2 ^ 12 + l.toNat * 2 ^ 11 + mc * 2 ^ 30) 0 11 = 0 := by simp only [slc]; omega
  rw [h0, if_pos (by decide), fld_of (f := g) (by omega), fld_of (f := q) (by omega), fld_of (f := l) (by omega)]
theorem mmaWait (g : BitVec 2) (n : BitVec 3) : Statement (.mmaWait g n) := by
  have := g.isLt
  have := n.isLt
  have hd (w x : Nat) : decodeOps 0x282 w x = if slc w 3 15 = 0 then some (.mmaWait (fld 2 w 18) (fld 3 w 0)) else none := rfl
  refine round_trip_one 0x282 (0x28200000 + g.toNat * 2 ^ 18 + n.toNat) (by decide) rfl (fun mc => by simp only [slc]; omega) fun mc => (hd _ _).trans ?_
  have h0 : slc (0x28200000 + g.toNat * 2 ^ 18 + n.toNat + mc * 2 ^ 30) 3 15 = 0 := by simp only [slc]; omega
  rw [h0, if_pos (by decide), fld_of (f := g) (by omega), fld_of (f := n) (by omega)]
theorem mmaDrainSf (g : BitVec 2) (q : BitVec 6) (l : BitVec 1) : Statement (.mmaDrainSf g q l) := by
  have := g.isLt
  have := q.isLt
  have := l.isLt
  have hd (w x : Nat) : decodeOps 0x283 w x = if slc w 0 11 = 0 then some (.mmaDrainSf (fld 2 w 18) (fld 6 w 12) (fld 1 w 11)) else none := rfl
  refine round_trip_one 0x283 (0x28300000 + g.toNat * 2 ^ 18 + q.toNat * 2 ^ 12 + l.toNat * 2 ^ 11) (by decide) rfl (fun mc => by simp only [slc]; omega) fun mc => (hd _ _).trans ?_
  have h0 : slc (0x28300000 + g.toNat * 2 ^ 18 + q.toNat * 2 ^ 12 + l.toNat * 2 ^ 11 + mc * 2 ^ 30) 0 11 = 0 := by simp only [slc]; omega
  rw [h0, if_pos (by decide), fld_of (f := g) (by omega), fld_of (f := q) (by omega), fld_of (f := l) (by omega)]
theorem mmaDrainL (o : LR) : Statement (.mmaDrainL o) :=
  round_trip_lr .mmaDrainL 0x2E3 o (by decide) (by decide) rfl (fun _ _ => rfl)
theorem ofence (g : BitVec 2) : Statement (.ofence g) :=
  round_trip_sf0 .ofence 0x284 g (by decide) (by decide) rfl (fun _ _ => rfl)
theorem accClrSf (g : BitVec 2) (k : BitVec 6) : Statement (.accClrSf g k) :=
  round_trip_sf1 .accClrSf 0x285 g k (by decide) (by decide) rfl (fun _ _ => rfl)
theorem accClrL (o : LR) : Statement (.accClrL o) :=
  round_trip_lr .accClrL 0x2E5 o (by decide) (by decide) rfl (fun _ _ => rfl)
theorem accLd (o : LR) : Statement (.accLd o) :=
  round_trip_lr .accLd 0x2E6 o (by decide) (by decide) rfl (fun _ _ => rfl)
theorem accSt (o : LR) : Statement (.accSt o) :=
  round_trip_lr .accSt 0x2E7 o (by decide) (by decide) rfl (fun _ _ => rfl)
theorem accGrow (g : BitVec 2) (d : BitVec 6) (k : BitVec 4) : Statement (.accGrow g d k) := by
  have := g.isLt
  have := d.isLt
  have := k.isLt
  have hd (w x : Nat) : decodeOps 0x288 w x = if slc w 4 8 = 0 then some (.accGrow (fld 2 w 18) (fld 6 w 12) (fld 4 w 0)) else none := rfl
  refine round_trip_one 0x288 (0x28800000 + g.toNat * 2 ^ 18 + d.toNat * 2 ^ 12 + k.toNat) (by decide) rfl (fun mc => by simp only [slc]; omega) fun mc => (hd _ _).trans ?_
  have h0 : slc (0x28800000 + g.toNat * 2 ^ 18 + d.toNat * 2 ^ 12 + k.toNat + mc * 2 ^ 30) 4 8 = 0 := by simp only [slc]; omega
  rw [h0, if_pos (by decide), fld_of (f := g) (by omega), fld_of (f := d) (by omega), fld_of (f := k) (by omega)]
theorem cpySf (g : BitVec 2) (a : BitVec 6) : Statement (.cpySf g a) :=
  round_trip_sf1 .cpySf 0x28C g a (by decide) (by decide) rfl (fun _ _ => rfl)
theorem cpyL (o : LR) : Statement (.cpyL o) :=
  round_trip_lr .cpyL 0x2EC o (by decide) (by decide) rfl (fun _ _ => rfl)
theorem cpyQSf (g : BitVec 2) (a : BitVec 6) : Statement (.cpyQSf g a) :=
  round_trip_sf1 .cpyQSf 0x28D g a (by decide) (by decide) rfl (fun _ _ => rfl)
theorem cpyQL (o : LR) : Statement (.cpyQL o) :=
  round_trip_lr .cpyQL 0x2ED o (by decide) (by decide) rfl (fun _ _ => rfl)
theorem cpyMcSf (g : BitVec 2) (a : BitVec 6) : Statement (.cpyMcSf g a) :=
  round_trip_sf1 .cpyMcSf 0x28E g a (by decide) (by decide) rfl (fun _ _ => rfl)
theorem cpyMcL (o : LR) : Statement (.cpyMcL o) :=
  round_trip_lr .cpyMcL 0x2EE o (by decide) (by decide) rfl (fun _ _ => rfl)
theorem cpyWait (g : BitVec 2) (n : BitVec 6) : Statement (.cpyWait g n) := by
  have := g.isLt
  have := n.isLt
  have hd (w x : Nat) : decodeOps 0x28F w x = if slc w 6 12 = 0 then some (.cpyWait (fld 2 w 18) (fld 6 w 0)) else none := rfl
  refine round_trip_one 0x28F (0x28F00000 + g.toNat * 2 ^ 18 + n.toNat) (by decide) rfl (fun mc => by simp only [slc]; omega) fun mc => (hd _ _).trans ?_
  have h0 : slc (0x28F00000 + g.toNat * 2 ^ 18 + n.toNat + mc * 2 ^ 30) 6 12 = 0 := by simp only [slc]; omega
  rw [h0, if_pos (by decide), fld_of (f := g) (by omega), fld_of (f := n) (by omega)]
theorem cpyPoll (g : BitVec 2) (d : BitVec 6) : Statement (.cpyPoll g d) :=
  round_trip_sf1 .cpyPoll 0x290 g d (by decide) (by decide) rfl (fun _ _ => rfl)
theorem flowSendSf (g : BitVec 2) (f : BitVec 6) (a : BitVec 6) (l : BitVec 6) : Statement (.flowSendSf g f a l) :=
  round_trip_sr .flowSendSf 0x294 g f a l (by decide) (by decide) rfl (fun _ _ => rfl)
theorem flowSendL (o : LR) : Statement (.flowSendL o) :=
  round_trip_lr .flowSendL 0x2F4 o (by decide) (by decide) rfl (fun _ _ => rfl)
theorem flowMcastSf (g : BitVec 2) (f : BitVec 6) (a : BitVec 6) (l : BitVec 6) : Statement (.flowMcastSf g f a l) :=
  round_trip_sr .flowMcastSf 0x295 g f a l (by decide) (by decide) rfl (fun _ _ => rfl)
theorem flowMcastL (o : LR) : Statement (.flowMcastL o) :=
  round_trip_lr .flowMcastL 0x2F5 o (by decide) (by decide) rfl (fun _ _ => rfl)
theorem flowWaitSf (p : BitVec 2) (f : BitVec 6) (e : BitVec 6) : Statement (.flowWaitSf p f e) :=
  round_trip_sr2 .flowWaitSf 0x296 p f e (by decide) (by decide) rfl (fun _ _ => rfl)
theorem flowWaitL (o : LR) : Statement (.flowWaitL o) :=
  round_trip_lr .flowWaitL 0x2F6 o (by decide) (by decide) rfl (fun _ _ => rfl)
theorem flowStatSf (g : BitVec 2) (d : BitVec 6) (f : BitVec 6) (e : BitVec 6) : Statement (.flowStatSf g d f e) :=
  round_trip_sr .flowStatSf 0x297 g d f e (by decide) (by decide) rfl (fun _ _ => rfl)
theorem flowStatL (o : LR) : Statement (.flowStatL o) :=
  round_trip_lr .flowStatL 0x2F7 o (by decide) (by decide) rfl (fun _ _ => rfl)
theorem collStartSf (g : BitVec 2) (a : BitVec 6) : Statement (.collStartSf g a) :=
  round_trip_sf1 .collStartSf 0x29A g a (by decide) (by decide) rfl (fun _ _ => rfl)
theorem collStartL (o : LR) : Statement (.collStartL o) :=
  round_trip_lr .collStartL 0x2FA o (by decide) (by decide) rfl (fun _ _ => rfl)
theorem collWaitSf (g : BitVec 2) (n : BitVec 3) : Statement (.collWaitSf g n) := by
  have := g.isLt
  have := n.isLt
  have hd (w x : Nat) : decodeOps 0x29B w x = if slc w 3 15 = 0 then some (.collWaitSf (fld 2 w 18) (fld 3 w 0)) else none := rfl
  refine round_trip_one 0x29B (0x29B00000 + g.toNat * 2 ^ 18 + n.toNat) (by decide) rfl (fun mc => by simp only [slc]; omega) fun mc => (hd _ _).trans ?_
  have h0 : slc (0x29B00000 + g.toNat * 2 ^ 18 + n.toNat + mc * 2 ^ 30) 3 15 = 0 := by simp only [slc]; omega
  rw [h0, if_pos (by decide), fld_of (f := g) (by omega), fld_of (f := n) (by omega)]
theorem collWaitL (o : LR) : Statement (.collWaitL o) :=
  round_trip_lr .collWaitL 0x2FB o (by decide) (by decide) rfl (fun _ _ => rfl)
theorem collStatSf (g : BitVec 2) (d : BitVec 6) (p : BitVec 6) (e : BitVec 6) : Statement (.collStatSf g d p e) :=
  round_trip_sr .collStatSf 0x29C g d p e (by decide) (by decide) rfl (fun _ _ => rfl)
theorem collStatL (o : LR) : Statement (.collStatL o) :=
  round_trip_lr .collStatL 0x2FC o (by decide) (by decide) rfl (fun _ _ => rfl)
theorem trigAtSf (g : BitVec 2) (r : BitVec 6) (t : BitVec 6) : Statement (.trigAtSf g r t) :=
  round_trip_sr2 .trigAtSf 0x29D g r t (by decide) (by decide) rfl (fun _ _ => rfl)
theorem trigAtL (o : LR) : Statement (.trigAtL o) :=
  round_trip_lr .trigAtL 0x2FD o (by decide) (by decide) rfl (fun _ _ => rfl)
theorem trigOnSf (g : BitVec 2) (r : BitVec 6) (w : BitVec 6) (v : BitVec 6) : Statement (.trigOnSf g r w v) :=
  round_trip_sr .trigOnSf 0x29E g r w v (by decide) (by decide) rfl (fun _ _ => rfl)
theorem trigOnL (o : LR) : Statement (.trigOnL o) :=
  round_trip_lr .trigOnL 0x2FE o (by decide) (by decide) rfl (fun _ _ => rfl)
theorem braSb (g : BitVec 2) (d : BitVec 18) : Statement (.braSb g d) :=
  round_trip_sb .braSb 0x301 g d (by decide) (by decide) rfl (fun _ _ => rfl)
theorem braLi (o : LI) : Statement (.braLi o) :=
  round_trip_li .braLi 0x361 o (by decide) (by decide) rfl (fun _ _ => rfl)
theorem brxSf (g : BitVec 2) (a : BitVec 6) : Statement (.brxSf g a) := by
  have := g.isLt
  have := a.isLt
  have hd (w x : Nat) : decodeOps 0x302 w x = if slc w 0 6 = 0 && slc w 12 6 = 0 then some (.brxSf (fld 2 w 18) (fld 6 w 6)) else none := rfl
  refine round_trip_one 0x302 (0x30200000 + g.toNat * 2 ^ 18 + a.toNat * 2 ^ 6) (by decide) rfl (fun mc => by simp only [slc]; omega) fun mc => (hd _ _).trans ?_
  have h0 : slc (0x30200000 + g.toNat * 2 ^ 18 + a.toNat * 2 ^ 6 + mc * 2 ^ 30) 0 6 = 0 := by simp only [slc]; omega
  have h1 : slc (0x30200000 + g.toNat * 2 ^ 18 + a.toNat * 2 ^ 6 + mc * 2 ^ 30) 12 6 = 0 := by simp only [slc]; omega
  rw [h0, h1, if_pos (by decide), fld_of (f := g) (by omega), fld_of (f := a) (by omega)]
theorem brxL (o : LR) : Statement (.brxL o) :=
  round_trip_lr .brxL 0x362 o (by decide) (by decide) rfl (fun _ _ => rfl)
theorem callSb (g : BitVec 2) (d : BitVec 18) : Statement (.callSb g d) :=
  round_trip_sb .callSb 0x303 g d (by decide) (by decide) rfl (fun _ _ => rfl)
theorem callLi (o : LI) : Statement (.callLi o) :=
  round_trip_li .callLi 0x363 o (by decide) (by decide) rfl (fun _ _ => rfl)
theorem ret (g : BitVec 2) : Statement (.ret g) :=
  round_trip_sf0 .ret 0x304 g (by decide) (by decide) rfl (fun _ _ => rfl)
theorem meetSb (g : BitVec 2) (d : BitVec 18) : Statement (.meetSb g d) :=
  round_trip_sb .meetSb 0x305 g d (by decide) (by decide) rfl (fun _ _ => rfl)
theorem meetLi (o : LI) : Statement (.meetLi o) :=
  round_trip_li .meetLi 0x365 o (by decide) (by decide) rfl (fun _ _ => rfl)
theorem exit (g : BitVec 2) : Statement (.exit g) :=
  round_trip_sf0 .exit 0x306 g (by decide) (by decide) rfl (fun _ _ => rfl)
theorem regroup (g : BitVec 2) (w : BitVec 2) : Statement (.regroup g w) := by
  have := g.isLt
  have := w.isLt
  have hd (w x : Nat) : decodeOps 0x307 w x = if slc w 2 16 = 0 then some (.regroup (fld 2 w 18) (fld 2 w 0)) else none := rfl
  refine round_trip_one 0x307 (0x30700000 + g.toNat * 2 ^ 18 + w.toNat) (by decide) rfl (fun mc => by simp only [slc]; omega) fun mc => (hd _ _).trans ?_
  have h0 : slc (0x30700000 + g.toNat * 2 ^ 18 + w.toNat + mc * 2 ^ 30) 2 16 = 0 := by simp only [slc]; omega
  rw [h0, if_pos (by decide), fld_of (f := g) (by omega), fld_of (f := w) (by omega)]
theorem rgn (g : BitVec 2) : Statement (.rgn g) :=
  round_trip_sf0 .rgn 0x308 g (by decide) (by decide) rfl (fun _ _ => rfl)
theorem yield (g : BitVec 2) : Statement (.yield g) :=
  round_trip_sf0 .yield 0x309 g (by decide) (by decide) rfl (fun _ _ => rfl)
theorem nop (g : BitVec 2) : Statement (.nop g) :=
  round_trip_sf0 .nop 0x30A g (by decide) (by decide) rfl (fun _ _ => rfl)
theorem rep (n : BitVec 6) (e : BitVec 1) (k : BitVec 2) (f : BitVec 1) (j : BitVec 2) (h : BitVec 1) (m : BitVec 2) : Statement (.rep n e k f j h m) := by
  have := n.isLt
  have := e.isLt
  have := k.isLt
  have := f.isLt
  have := j.isLt
  have := h.isLt
  have := m.isLt
  have hd (w x : Nat) : decodeOps 0x30B w x = if slc w 0 3 = 0 && slc w 18 2 = 0 then some (.rep (fld 6 w 12) (fld 1 w 11) (fld 2 w 9) (fld 1 w 8) (fld 2 w 6) (fld 1 w 5) (fld 2 w 3)) else none := rfl
  refine round_trip_one 0x30B (0x30B00000 + n.toNat * 2 ^ 12 + e.toNat * 2 ^ 11 + k.toNat * 2 ^ 9 + f.toNat * 2 ^ 8 + j.toNat * 2 ^ 6 + h.toNat * 2 ^ 5 + m.toNat * 2 ^ 3) (by decide) rfl (fun mc => by simp only [slc]; omega) fun mc => (hd _ _).trans ?_
  have h0 : slc (0x30B00000 + n.toNat * 2 ^ 12 + e.toNat * 2 ^ 11 + k.toNat * 2 ^ 9 + f.toNat * 2 ^ 8 + j.toNat * 2 ^ 6 + h.toNat * 2 ^ 5 + m.toNat * 2 ^ 3 + mc * 2 ^ 30) 0 3 = 0 := by simp only [slc]; omega
  have h1 : slc (0x30B00000 + n.toNat * 2 ^ 12 + e.toNat * 2 ^ 11 + k.toNat * 2 ^ 9 + f.toNat * 2 ^ 8 + j.toNat * 2 ^ 6 + h.toNat * 2 ^ 5 + m.toNat * 2 ^ 3 + mc * 2 ^ 30) 18 2 = 0 := by simp only [slc]; omega
  rw [h0, h1, if_pos (by decide), fld_of (f := n) (by omega), fld_of (f := e) (by omega), fld_of (f := k) (by omega), fld_of (f := f) (by omega), fld_of (f := j) (by omega), fld_of (f := h) (by omega), fld_of (f := m) (by omega)]
theorem barArriveSf (g : BitVec 2) (l : BitVec 6) (n : BitVec 12) : Statement (.barArriveSf g l n) := by
  have := g.isLt
  have := l.isLt
  have := n.isLt
  have hd (w x : Nat) : decodeOps 0x310 w x = some (.barArriveSf (fld 2 w 18) (fld 6 w 12) (fld 12 w 0)) := rfl
  refine round_trip_one 0x310 (0x31000000 + g.toNat * 2 ^ 18 + l.toNat * 2 ^ 12 + n.toNat) (by decide) rfl (fun mc => by simp only [slc]; omega) fun mc => (hd _ _).trans ?_
  rw [fld_of (f := g) (by omega), fld_of (f := l) (by omega), fld_of (f := n) (by omega)]
theorem barArriveL (o : LR) : Statement (.barArriveL o) :=
  round_trip_lr .barArriveL 0x370 o (by decide) (by decide) rfl (fun _ _ => rfl)
theorem barExpSf (g : BitVec 2) (l : BitVec 6) (b : BitVec 6) (v : BitVec 1) : Statement (.barExpSf g l b v) := by
  have := g.isLt
  have := l.isLt
  have := b.isLt
  have := v.isLt
  have hd (w x : Nat) : decodeOps 0x311 w x = if slc w 1 5 = 0 then some (.barExpSf (fld 2 w 18) (fld 6 w 12) (fld 6 w 6) (fld 1 w 0)) else none := rfl
  refine round_trip_one 0x311 (0x31100000 + g.toNat * 2 ^ 18 + l.toNat * 2 ^ 12 + b.toNat * 2 ^ 6 + v.toNat) (by decide) rfl (fun mc => by simp only [slc]; omega) fun mc => (hd _ _).trans ?_
  have h0 : slc (0x31100000 + g.toNat * 2 ^ 18 + l.toNat * 2 ^ 12 + b.toNat * 2 ^ 6 + v.toNat + mc * 2 ^ 30) 1 5 = 0 := by simp only [slc]; omega
  rw [h0, if_pos (by decide), fld_of (f := g) (by omega), fld_of (f := l) (by omega), fld_of (f := b) (by omega), fld_of (f := v) (by omega)]
theorem barExpL (o : LR) : Statement (.barExpL o) :=
  round_trip_lr .barExpL 0x371 o (by decide) (by decide) rfl (fun _ _ => rfl)
theorem barWaitSf (g : BitVec 2) (l : BitVec 6) (h : BitVec 1) : Statement (.barWaitSf g l h) := by
  have := g.isLt
  have := l.isLt
  have := h.isLt
  have hd (w x : Nat) : decodeOps 0x312 w x = if slc w 1 11 = 0 then some (.barWaitSf (fld 2 w 18) (fld 6 w 12) (fld 1 w 0)) else none := rfl
  refine round_trip_one 0x312 (0x31200000 + g.toNat * 2 ^ 18 + l.toNat * 2 ^ 12 + h.toNat) (by decide) rfl (fun mc => by simp only [slc]; omega) fun mc => (hd _ _).trans ?_
  have h0 : slc (0x31200000 + g.toNat * 2 ^ 18 + l.toNat * 2 ^ 12 + h.toNat + mc * 2 ^ 30) 1 11 = 0 := by simp only [slc]; omega
  rw [h0, if_pos (by decide), fld_of (f := g) (by omega), fld_of (f := l) (by omega), fld_of (f := h) (by omega)]
theorem barWaitL (o : LR) : Statement (.barWaitL o) :=
  round_trip_lr .barWaitL 0x372 o (by decide) (by decide) rfl (fun _ _ => rfl)
theorem fence (g : BitVec 2) (e : BitVec 3) : Statement (.fence g e) := by
  have := g.isLt
  have := e.isLt
  have hd (w x : Nat) : decodeOps 0x313 w x = if slc w 3 15 = 0 then some (.fence (fld 2 w 18) (fld 3 w 0)) else none := rfl
  refine round_trip_one 0x313 (0x31300000 + g.toNat * 2 ^ 18 + e.toNat) (by decide) rfl (fun mc => by simp only [slc]; omega) fun mc => (hd _ _).trans ?_
  have h0 : slc (0x31300000 + g.toNat * 2 ^ 18 + e.toNat + mc * 2 ^ 30) 3 15 = 0 := by simp only [slc]; omega
  rw [h0, if_pos (by decide), fld_of (f := g) (by omega), fld_of (f := e) (by omega)]
theorem tokAcqSf (g : BitVec 2) (d : BitVec 6) (a : BitVec 6) : Statement (.tokAcqSf g d a) :=
  round_trip_sr2 .tokAcqSf 0x314 g d a (by decide) (by decide) rfl (fun _ _ => rfl)
theorem tokAcqL (o : LR) : Statement (.tokAcqL o) :=
  round_trip_lr .tokAcqL 0x374 o (by decide) (by decide) rfl (fun _ _ => rfl)
theorem tokRelSf (g : BitVec 2) (d : BitVec 6) (a : BitVec 6) : Statement (.tokRelSf g d a) :=
  round_trip_sr2 .tokRelSf 0x315 g d a (by decide) (by decide) rfl (fun _ _ => rfl)
theorem tokRelL (o : LR) : Statement (.tokRelL o) :=
  round_trip_lr .tokRelL 0x375 o (by decide) (by decide) rfl (fun _ _ => rfl)
theorem trap (g : BitVec 2) (n : BitVec 8) : Statement (.trap g n) := by
  have := g.isLt
  have := n.isLt
  have hd (w x : Nat) : decodeOps 0x381 w x = if slc w 8 10 = 0 then some (.trap (fld 2 w 18) (fld 8 w 0)) else none := rfl
  refine round_trip_one 0x381 (0x38100000 + g.toNat * 2 ^ 18 + n.toNat) (by decide) rfl (fun mc => by simp only [slc]; omega) fun mc => (hd _ _).trans ?_
  have h0 : slc (0x38100000 + g.toNat * 2 ^ 18 + n.toNat + mc * 2 ^ 30) 8 10 = 0 := by simp only [slc]; omega
  rw [h0, if_pos (by decide), fld_of (f := g) (by omega), fld_of (f := n) (by omega)]
theorem brk (g : BitVec 2) (n : BitVec 8) : Statement (.brk g n) := by
  have := g.isLt
  have := n.isLt
  have hd (w x : Nat) : decodeOps 0x382 w x = if slc w 8 10 = 0 then some (.brk (fld 2 w 18) (fld 8 w 0)) else none := rfl
  refine round_trip_one 0x382 (0x38200000 + g.toNat * 2 ^ 18 + n.toNat) (by decide) rfl (fun mc => by simp only [slc]; omega) fun mc => (hd _ _).trans ?_
  have h0 : slc (0x38200000 + g.toNat * 2 ^ 18 + n.toNat + mc * 2 ^ 30) 8 10 = 0 := by simp only [slc]; omega
  rw [h0, if_pos (by decide), fld_of (f := g) (by omega), fld_of (f := n) (by omega)]
theorem sysRdSf (g : BitVec 2) (d : BitVec 6) (n : BitVec 12) : Statement (.sysRdSf g d n) := by
  have := g.isLt
  have := d.isLt
  have := n.isLt
  have hd (w x : Nat) : decodeOps 0x383 w x = some (.sysRdSf (fld 2 w 18) (fld 6 w 12) (fld 12 w 0)) := rfl
  refine round_trip_one 0x383 (0x38300000 + g.toNat * 2 ^ 18 + d.toNat * 2 ^ 12 + n.toNat) (by decide) rfl (fun mc => by simp only [slc]; omega) fun mc => (hd _ _).trans ?_
  rw [fld_of (f := g) (by omega), fld_of (f := d) (by omega), fld_of (f := n) (by omega)]
theorem sysRdL (o : LR) : Statement (.sysRdL o) :=
  round_trip_lr .sysRdL 0x3E3 o (by decide) (by decide) rfl (fun _ _ => rfl)
theorem sysWrSf (g : BitVec 2) (d : BitVec 6) (n : BitVec 12) : Statement (.sysWrSf g d n) := by
  have := g.isLt
  have := d.isLt
  have := n.isLt
  have hd (w x : Nat) : decodeOps 0x384 w x = some (.sysWrSf (fld 2 w 18) (fld 6 w 12) (fld 12 w 0)) := rfl
  refine round_trip_one 0x384 (0x38400000 + g.toNat * 2 ^ 18 + d.toNat * 2 ^ 12 + n.toNat) (by decide) rfl (fun mc => by simp only [slc]; omega) fun mc => (hd _ _).trans ?_
  rw [fld_of (f := g) (by omega), fld_of (f := d) (by omega), fld_of (f := n) (by omega)]
theorem sysWrL (o : LR) : Statement (.sysWrL o) :=
  round_trip_lr .sysWrL 0x3E4 o (by decide) (by decide) rfl (fun _ _ => rfl)
theorem sysRdK (o : LR) : Statement (.sysRdK o) :=
  round_trip_lr .sysRdK 0x3F3 o (by decide) (by decide) rfl (fun _ _ => rfl)
theorem sysWrK (o : LR) : Statement (.sysWrK o) :=
  round_trip_lr .sysWrK 0x3F4 o (by decide) (by decide) rfl (fun _ _ => rfl)
theorem launchSf (g : BitVec 2) (a : BitVec 6) : Statement (.launchSf g a) :=
  round_trip_sf1 .launchSf 0x385 g a (by decide) (by decide) rfl (fun _ _ => rfl)
theorem launchL (o : LR) : Statement (.launchL o) :=
  round_trip_lr .launchL 0x3E5 o (by decide) (by decide) rfl (fun _ _ => rfl)
theorem tstamp (g : BitVec 2) (d : BitVec 6) : Statement (.tstamp g d) :=
  round_trip_sf1 .tstamp 0x386 g d (by decide) (by decide) rfl (fun _ _ => rfl)
theorem cntRdSf (g : BitVec 2) (d : BitVec 6) (n : BitVec 12) : Statement (.cntRdSf g d n) := by
  have := g.isLt
  have := d.isLt
  have := n.isLt
  have hd (w x : Nat) : decodeOps 0x387 w x = some (.cntRdSf (fld 2 w 18) (fld 6 w 12) (fld 12 w 0)) := rfl
  refine round_trip_one 0x387 (0x38700000 + g.toNat * 2 ^ 18 + d.toNat * 2 ^ 12 + n.toNat) (by decide) rfl (fun mc => by simp only [slc]; omega) fun mc => (hd _ _).trans ?_
  rw [fld_of (f := g) (by omega), fld_of (f := d) (by omega), fld_of (f := n) (by omega)]
theorem cntRdL (o : LR) : Statement (.cntRdL o) :=
  round_trip_lr .cntRdL 0x3E7 o (by decide) (by decide) rfl (fun _ _ => rfl)
theorem handlerRetry (team : Nat) (grp : Nat) : Statement (.handlerRetry team grp) := round_trip_event rfl
theorem handlerSkip (team : Nat) (grp : Nat) : Statement (.handlerSkip team grp) := round_trip_event rfl
theorem handlerEnd (team : Nat) (grp : Nat) : Statement (.handlerEnd team grp) := round_trip_event rfl
theorem hostdbWrite : Statement (.hostdbWrite) := round_trip_event rfl
theorem pendingTrapTaken (team : Nat) (grp : Nat) : Statement (.pendingTrapTaken team grp) := round_trip_event rfl
theorem loadSectorArrival (i : Nat) : Statement (.loadSectorArrival i) := round_trip_event rfl
theorem storeAck (i : Nat) : Statement (.storeAck i) := round_trip_event rfl
theorem storeRefused (i : Nat) : Statement (.storeRefused i) := round_trip_event rfl
theorem sliceOperation (i : Nat) (err : Nat) : Statement (.sliceOperation i err) := round_trip_event rfl
theorem migrationStart (page : Nat) (size : Nat) (mod : Nat) (pa : Nat) : Statement (.migrationStart page size mod pa) := round_trip_event rfl
theorem migrationLineCopy (entry : Nat) (line : Nat) : Statement (.migrationLineCopy entry line) := round_trip_event rfl
theorem migrationClose (entry : Nat) : Statement (.migrationClose entry) := round_trip_event rfl
theorem sweepPassStart (i : Nat) : Statement (.sweepPassStart i) := round_trip_event rfl
theorem sweepVisit (i : Nat) (elem : Nat) : Statement (.sweepVisit i elem) := round_trip_event rfl
theorem invOnePage (ctx : Nat) (vpn : Nat) : Statement (.invOnePage ctx vpn) := round_trip_event rfl
theorem invVirtualRange (ctx : Nat) (vpn : Nat) (len : Nat) : Statement (.invVirtualRange ctx vpn len) := round_trip_event rfl
theorem invWholeContext (ctx : Nat) : Statement (.invWholeContext ctx) := round_trip_event rfl
theorem invRangeEntry (ctx : Nat) (idx : Nat) : Statement (.invRangeEntry ctx idx) := round_trip_event rfl
theorem invEveryContext : Statement (.invEveryContext) := round_trip_event rfl
theorem invComplete : Statement (.invComplete) := round_trip_event rfl
theorem faultResolve (rid : Nat) : Statement (.faultResolve rid) := round_trip_event rfl
theorem faultEnd (rid : Nat) : Statement (.faultEnd rid) := round_trip_event rfl
theorem faultReport (rid : Nat) : Statement (.faultReport rid) := round_trip_event rfl
theorem lossReport (ctx : Nat) (info : DWord) (addr : DWord) (mask : DWord) : Statement (.lossReport ctx info addr mask) := round_trip_event rfl
theorem engineAbandon (rid : Nat) : Statement (.engineAbandon rid) := round_trip_event rfl
theorem sideLogReplay (core : Nat) (ctx : Nat) : Statement (.sideLogReplay core ctx) := round_trip_event rfl
theorem sideLogDiscard (core : Nat) (ctx : Nat) : Statement (.sideLogDiscard core ctx) := round_trip_event rfl
theorem excIncrement : Statement (.excIncrement) := round_trip_event rfl
theorem excWindowStart (ctx : Nat) (cls : Nat) : Statement (.excWindowStart ctx cls) := round_trip_event rfl
theorem fabricRead (src tid tag : Nat) (how : Machine.PeerHow) (pa n : Nat) : Statement (.fabricRead src tid tag how pa n) := round_trip_event rfl
theorem fabricWrite (src tid tag : Nat) (how : Machine.PeerHow) (pa : Nat) (bytes : List (Nat × Byte)) : Statement (.fabricWrite src tid tag how pa bytes) := round_trip_event rfl
theorem fabricAtomic (src : Nat) (tid : Nat) (tag : Nat) (pa : Nat) (w : Nat) (op : Machine.MemOp × Machine.PeerHow) (data : Nat) (cmp : Nat) : Statement (.fabricAtomic src tid tag pa w op data cmp) := round_trip_event rfl
theorem fabricResponse (src : Nat) (tid : Nat) (status : Nat) (data : List Byte) : Statement (.fabricResponse src tid status data) := round_trip_event rfl
theorem tokenAcquire (src : Nat) (tid : Nat) (tag : Nat) (region : Nat) : Statement (.tokenAcquire src tid tag region) := round_trip_event rfl
theorem tokenRelease (src : Nat) (tid : Nat) (tag : Nat) (region : Nat) : Statement (.tokenRelease src tid tag region) := round_trip_event rfl
theorem tokenRecall (src : Nat) (tid : Nat) (tag : Nat) (region : Nat) : Statement (.tokenRecall src tid tag region) := round_trip_event rfl
theorem grant (incoming : Option Nat) (peer : Nat) (id : Nat) (base : Nat) (len : Nat) (perm : Nat) : Statement (.grant incoming peer id base len perm) := round_trip_event rfl
theorem grantAck (incoming : Option Nat) (peer : Nat) (id : Nat) : Statement (.grantAck incoming peer id) := round_trip_event rfl
theorem recallGrant (incoming : Option Nat) (peer : Nat) (id : Nat) (deadline : Nat) : Statement (.recallGrant incoming peer id deadline) := round_trip_event rfl
theorem recallAck (incoming : Option Nat) (peer : Nat) (id : Nat) : Statement (.recallAck incoming peer id) := round_trip_event rfl
theorem recallDeadline (id : Nat) : Statement (.recallDeadline id) := round_trip_event rfl
theorem deny (peer : Nat × Nat) : Statement (.deny peer) := round_trip_event rfl
theorem ptpMessage (port : Nat) (kind : Machine.PtpMsg) : Statement (.ptpMessage port kind) := round_trip_event rfl
theorem timeStep (t : DWord) : Statement (.timeStep t) := round_trip_event rfl
theorem flitReplayRequest (port : Nat) (seq : Nat) : Statement (.flitReplayRequest port seq) := round_trip_event rfl
theorem downFlit (port : Nat) : Statement (.downFlit port) := round_trip_event rfl
theorem linkSilence (port : Nat) : Statement (.linkSilence port) := round_trip_event rfl
theorem portDown (port : Nat) : Statement (.portDown port) := round_trip_event rfl
theorem retrainTimer (port : Nat) : Statement (.retrainTimer port) := round_trip_event rfl
theorem trainingComplete (port : Nat) (good : List Nat) : Statement (.trainingComplete port good) := round_trip_event rfl
theorem routeChangeBroadcast (src : Nat) (tid : Nat) (a : Nat) (b : Nat) : Statement (.routeChangeBroadcast src tid a b) := round_trip_event rfl
theorem routeRestored (a : Nat) (b : Nat) : Statement (.routeRestored a b) := round_trip_event rfl
theorem laneSample (port lane : Nat) (eye : Bool) (high margin : Nat) : Statement (.laneSample port lane eye high margin) := round_trip_event rfl
theorem shift (port : Nat) (lane : Nat) (n : Nat) : Statement (.shift port lane n) := round_trip_event rfl
theorem shiftAck (port : Nat) (n : Nat) (m : Nat) : Statement (.shiftAck port n m) := round_trip_event rfl
theorem shiftAckTimeout (port : Nat) : Statement (.shiftAckTimeout port) := round_trip_event rfl
theorem laneMapSwitch (port : Nat) : Statement (.laneMapSwitch port) := round_trip_event rfl
theorem heartbeatTimer : Statement (.heartbeatTimer) := round_trip_event rfl
theorem heartbeat (src : Nat) (tid : Nat) : Statement (.heartbeat src tid) := round_trip_event rfl
theorem memberFail (mod : Nat) : Statement (.memberFail mod) := round_trip_event rfl
theorem flowTransferStart (ctx : Nat) (flow : Nat) : Statement (.flowTransferStart ctx flow) := round_trip_event rfl
theorem blocks (src tid tag slot base cnt : Nat) (body : List Byte) : Statement (.blocks src tid tag slot base cnt body) := round_trip_event rfl
theorem thdr (src : Nat) (tid : Nat) (tag : Nat) (hdr : DWord) (body : List Byte) (chunk : Option Machine.ChunkMeta) : Statement (.thdr src tid tag hdr body chunk) := round_trip_event rfl
theorem tail (src : Nat) (tid : Nat) (tag : Nat) (hdr : DWord) (body : List Byte) : Statement (.tail src tid tag hdr body) := round_trip_event rfl
theorem resync (src : Nat) (tid : Nat) (tag : Nat) (hdr : DWord) (body : List Byte) : Statement (.resync src tid tag hdr body) := round_trip_event rfl
theorem ack (src : Nat) (tid : Nat) (tag : Nat) (hdr : DWord) (body : List Byte) : Statement (.ack src tid tag hdr body) := round_trip_event rfl
theorem abort (src : Nat) (tid : Nat) (tag : Nat) (hdr : DWord) (body : List Byte) : Statement (.abort src tid tag hdr body) := round_trip_event rfl
theorem flowDeadline (ctx : Nat) (flow : Nat) : Statement (.flowDeadline ctx flow) := round_trip_event rfl
theorem flowEndCreate (ctx : Nat) (flow : Nat) (slot : Nat) (v : BitVec 256) : Statement (.flowEndCreate ctx flow slot v) := round_trip_event rfl
theorem flowEndDestroy (ctx : Nat) (flow : Nat) (v : BitVec 256) : Statement (.flowEndDestroy ctx flow v) := round_trip_event rfl
theorem mcastSlotWrite (grp : Nat) (i : Nat) (v : DWord) : Statement (.mcastSlotWrite grp i v) := round_trip_event rfl
theorem collAbort (src : Nat) (tid : Nat) (tag : Nat) (pnum : Nat) (ord : Nat) : Statement (.collAbort src tid tag pnum ord) := round_trip_event rfl
theorem pelotonShrink (ctx : Nat) (pnum : Nat) (members : BitVec 256) (epoch : Word) : Statement (.pelotonShrink ctx pnum members epoch) := round_trip_event rfl
theorem pelotonGrow (ctx : Nat) (pnum : Nat) (members : BitVec 256) (epoch : Word) : Statement (.pelotonGrow ctx pnum members epoch) := round_trip_event rfl
theorem pelotonRerun (ctx : Nat) (pnum : Nat) (coll : Nat) : Statement (.pelotonRerun ctx pnum coll) := round_trip_event rfl
theorem pelotonWrite (i : Nat) (v : BitVec 512) : Statement (.pelotonWrite i v) := round_trip_event rfl
theorem triggerTimeFire (id : Nat) : Statement (.triggerTimeFire id) := round_trip_event rfl
theorem triggerWatchFire (id : Nat) : Statement (.triggerWatchFire id) := round_trip_event rfl
theorem doorbell (vf : Nat) (q : Nat) (v : DWord) : Statement (.doorbell vf q v) := round_trip_event rfl
theorem queueHead (ctx q : Nat) (data : List Byte) : Statement (.queueHead ctx q data) := round_trip_event rfl
theorem dependenceMet (ctx : Nat) (q : Nat) : Statement (.dependenceMet ctx q) := round_trip_event rfl
theorem teamPlacement (core : Nat) : Statement (.teamPlacement core) := round_trip_event rfl
theorem teamEnd (team : Nat) : Statement (.teamEnd team) := round_trip_event rfl
theorem regroupEffect (team : Nat) : Statement (.regroupEffect team) := round_trip_event rfl
theorem copyStart (core : Nat) (data : List Byte) : Statement (.copyStart core data) := round_trip_event rfl
theorem copyPiece (id first count : Nat) (data : List Byte) (answer : Nat) : Statement (.copyPiece id first count data answer) := round_trip_event rfl
theorem mmaPerform (id : Nat) : Statement (.mmaPerform id) := round_trip_event rfl
theorem drainPerform (id first count answer : Nat) : Statement (.drainPerform id first count answer) := round_trip_event rfl
theorem preemptSave (ctx : Nat) : Statement (.preemptSave ctx) := round_trip_event rfl
theorem saveResultTimeout (team : Nat) (grp : Nat) : Statement (.saveResultTimeout team grp) := round_trip_event rfl
theorem saveImageWritten (core : Nat) : Statement (.saveImageWritten core) := round_trip_event rfl
theorem preemptResume (ctx : Nat) : Statement (.preemptResume ctx) := round_trip_event rfl
theorem tenantCreate (ctx : Nat) (map : Nat) (dtag : Nat) (root : Nat) (limit : Nat) (deadline : Nat) : Statement (.tenantCreate ctx map dtag root limit deadline) := round_trip_event rfl
theorem tenantReset (ctx : Nat) : Statement (.tenantReset ctx) := round_trip_event rfl
theorem resetNRelease : Statement (.resetNRelease) := round_trip_event rfl
theorem recoveryGo (len : Nat) : Statement (.recoveryGo len) := round_trip_event rfl
theorem measurementExtend (i : Nat) (d : BitVec 512) : Statement (.measurementExtend i d) := round_trip_event rfl
theorem attestationRequest (ctx : Nat) (nonce : BitVec 512) : Statement (.attestationRequest ctx nonce) := round_trip_event rfl
theorem mctpMessage (kind : Nat) (pldm : Machine.Pldm) (nonce : BitVec 512) : Statement (.mctpMessage kind pldm nonce) := round_trip_event rfl
theorem bar2Read (vf : Nat) (off : Nat) (n : Nat) : Statement (.bar2Read vf off n) := round_trip_event rfl
theorem bar2Write (vf : Nat) (off : Nat) (bytes : List Byte) : Statement (.bar2Write vf off bytes) := round_trip_event rfl
theorem winbaseWrite (vf : Nat) (v : DWord) : Statement (.winbaseWrite vf v) := round_trip_event rfl
theorem thermalLimit (die : Nat) : Statement (.thermalLimit die) := round_trip_event rfl
theorem thermalClear (die : List Nat) : Statement (.thermalClear die) := round_trip_event rfl
theorem thermtrip (die : Nat) : Statement (.thermtrip die) := round_trip_event rfl
theorem wearUpdate (recs : List (BitVec 128)) : Statement (.wearUpdate recs) := round_trip_event rfl
theorem decodeEntryWrite (ctx : Nat) (opc : Nat) (v : Bool) (op : Nat) : Statement (.decodeEntryWrite ctx opc v op) := round_trip_event rfl
theorem decodeTableLoad (ctx : Nat) (map : Nat) : Statement (.decodeTableLoad ctx map) := round_trip_event rfl
theorem rangeEntryWrite (ctx : Nat) (i : Nat) (v : BitVec 128) : Statement (.rangeEntryWrite ctx i v) := round_trip_event rfl
theorem decayClassWrite (ctx : Nat) (i : Nat) (v : BitVec 128) : Statement (.decayClassWrite ctx i v) := round_trip_event rfl
theorem sweepRangeWrite (i : Nat) (v : BitVec 128) : Statement (.sweepRangeWrite i v) := round_trip_event rfl
theorem pannierWrite (ctx : Nat) (i : Nat) (v : BitVec 256) : Statement (.pannierWrite ctx i v) := round_trip_event rfl
theorem launchCounterWrite (ctx : Nat) (i : Nat) (v : BitVec 192) : Statement (.launchCounterWrite ctx i v) := round_trip_event rfl
theorem queueControlWrite (ctx : Nat) (q : Nat) (v : DWord) : Statement (.queueControlWrite ctx q v) := round_trip_event rfl
theorem excControlWrite (ctx : Nat) (cls : Nat) (v : DWord) : Statement (.excControlWrite ctx cls v) := round_trip_event rfl
theorem excClear (ctx : Nat) (cls : Nat) : Statement (.excClear ctx cls) := round_trip_event rfl
theorem registerWrite (n : Nat) (v : DWord) : Statement (.registerWrite n v) := round_trip_event rfl
theorem flowSourceBlockRead (ctx flow : Nat) (data : List Byte) : Statement (.flowSourceBlockRead ctx flow data) := round_trip_event rfl
theorem historyZeroingDone (ctx : Nat) (flow : Nat) : Statement (.historyZeroingDone ctx flow) := round_trip_event rfl
theorem longResultWritten (team : Nat) (grp : Nat) (i : Nat) : Statement (.longResultWritten team grp i) := round_trip_event rfl
theorem collFlowDeadline (id : Nat) : Statement (.collFlowDeadline id) := round_trip_event rfl
theorem podWrite (rows : Nat) (cols : Nat) (row : Nat) (col : Nat) : Statement (.podWrite rows cols row col) := round_trip_event rfl
theorem powerLoss : Statement (.powerLoss) := round_trip_event rfl

end RoundTrip

end Sys2Proof.Laws
end

