-- ==== Sys2Proof/WellFormed.lean ====
section
/-!
DEFINITION. The instructions that an encoding of the spec can carry: no field check, register check or chain check of Chapter 3
fails on them.
-/

namespace Sys2Proof

/-- No reason of Table 3.7 stands against the operands of the instruction (R50, R51, R54, R58, R241). -/
abbrev WellFormed (i : Instr) : Prop := i.reason = none

end Sys2Proof
end

