-- ==== Sys2Proof/Safety.lean ====
section
/-!
DEFINITION. What the claims speak of: a run that never stops, the canonical form of the module's stores, a word that is at issue,
and what one register instruction does to the state, its frame included.
-/

namespace Sys2Proof.Machine

/-- A run that no step stops, whatever programs, kernels and peers do. -/
def State.Safe (s : State) : Prop := ∀ n, ∃ t, Host.Core.run { State, Fault, Refusal, step, reset := State.reset } n s = .next t

/-- The byte stores are in canonical form: main memory (R84) and the lines held under token (R87). -/
structure State.Canonical (s : State) : Prop where
  mem : Memory.wf s.mem
  peer : Memory.wf s.peerMem

/-- A word of group `is.grp` of a resident team is at issue, and its active set is made of lanes of the group (R214). -/
structure Running (s : State) (is : Issue) (tm : Team) : Prop where
  issue : s.issue = some is
  team : s.team? is.team = some tm
  group : is.grp < tm.groups.length
  lanes : ∀ l, is.mask.getLsbD l = true → l < tm.w ∧ tm.tid is.grp l < tm.threads.length

/-- What a register reads after writes made in order: the last write of it (R43); p0 discards them (R50). -/
def afterWrites (ws : List (RegRef × Word)) (old : Word) (r : RegRef) : Word :=
  match r with
  | .p _ 0 => old
  | _ => ((ws.reverse.find? (fun w => w.1 == r)).map (·.2)).getD old

/-- Whether a register of the issuing group certainly reads, after a word that writes `now`, as those writes say. A written register
that was pending may have either value (R46), and so may every lane of a written register that a drain of the group, which no `mma.wait` has
covered, has as a destination (R296). -/
def State.Sure (s : State) (is : Issue) (tm : Team) (now : List (RegRef × Word)) (r : RegRef) : Prop :=
  ((∃ w ∈ now, w.1 = r) → (tm.group is.grp).pendReg r = none) ∧
  (tm.role is.grp = .matrix → ∀ l n, r = .v l n → (∃ w ∈ now, ∃ k, w.1 = .v k n) →
    ∀ c ∈ s.mats, c.2.team = is.team → c.2.grp = is.grp → n ∉ c.2.dests)

/-- The fields of a group that no instruction of the register families writes, equal before and after (the frame). `late` are
the results put in flight; the fields that follow the registers are the issue's own course (R43, R46, R53, R214, R387, R391) and the old
values an `ofence` ends (R291). -/
def Group.SameButRegs (a b : Group) (late : List Pending) : Prop :=
  b = { a with
        s := b.s, pend := a.pend ++ late, pendRegs := b.pendRegs, chain := b.chain, olds := b.olds, repidx := b.repidx,
        repMask := b.repMask, hold := b.hold, held := b.held, lanesDone := b.lanesDone, laneSnaps := b.laneSnaps, parked := b.parked,
        snapLcount := b.snapLcount, snapRepidx := b.snapRepidx, snapRepMask := b.snapRepMask, snapW := b.snapW, partSaved := b.partSaved }

/-- The team before and after a word of group `is.grp`: `upd` is what the word does to its group's own counters, `now` the registers
it writes at once and `late` those that its instruction `n` writes when the results arrive, pending until then (R45, R46); `closes` marks the result of an instruction that closes
a region (R391). Every other
register, group and thread is as before; a lane of the active set goes where `next` says, or on to the next word, unless its `rep` has a
repeat left (R53). -/
structure TeamStep (tm tm' : Team) (is : Issue) (upd : Group → Group) (next : Nat → Option (BitVec 24))
    (now : List (RegRef × Word)) (n : Nat) (late : List (List (RegRef × Word))) (sure : RegRef → Prop)
    (closes : Bool := false) : Prop where
  rest : tm' = { tm with threads := tm'.threads, groups := tm'.groups }
  groups : ∀ j, j ≠ is.grp → tm'.group j = tm.group j
  group : (upd (tm.group is.grp)).SameButRegs (tm'.group is.grp) (late.map fun ws => { instr := n, writes := ws, closes := closes })
  pending : ∀ r, (tm'.group is.grp).pendReg r = none ↔
    (upd (tm.group is.grp)).pendReg r = none ∧ ∀ ws ∈ late, ∀ w ∈ ws, w.1 ≠ r
  regs : ∀ r, sure r → tm'.readReg is.grp r = afterWrites now (tm.readReg is.grp r) r
  threads : ∀ j, j / tm.w ≠ is.grp → tm'.thread j = tm.thread j
  thread : ∀ j, (tm'.thread j).stack = (tm.thread j).stack ∧ (tm'.thread j).depth = (tm.thread j).depth ∧
    (tm'.thread j).exited = (tm.thread j).exited ∧ (tm'.thread j).waiting = (tm.thread j).waiting ∧
    (tm'.thread j).held = (tm.thread j).held
  pc : ∀ l, l < tm.w → (tm'.thread (tm.tid is.grp l)).pc =
    if is.mask.getLsbD l && !(is.rep.any fun n => decide ((tm.group is.grp).repidx < n)) then
      (next l).getD (is.pc + BitVec.ofNat 24 is.len)
    else (tm.thread (tm.tid is.grp l)).pc

/-- A matrix command without its notes of the registers that its group wrote (R291, R296). -/
def MatCmd.unmarked (c : MatCmd) : MatCmd := { c with late := [], lost := false, dirty := [] }

/-- The state before and after a word that touches its team alone: memory, every context, engine, table, flow and special register is
as before, and so is every other team; `evs` are the exception events it counts (R240). The counters of instructions and of free values
go on, and the matrix commands of a matrix group note which of their registers were written (R291, R296). -/
structure WordStep (s t : State) (is : Issue) (tm : Team) (upd : Group → Group) (next : Nat → Option (BitVec 24))
    (now : List (RegRef × Word)) (late : List (List (RegRef × Word))) (evs : List ExcInc) (closes : Bool := false) : Prop where
  rest : t = { s with
    teams := t.teams, issue := t.issue, excQ := s.excQ ++ evs, mats := t.mats, fresh := t.fresh, nextInstr := t.nextInstr }
  fresh : s.fresh ≤ t.fresh
  nextInstr : s.nextInstr ≤ t.nextInstr
  mats : t.mats.map (fun c => (c.1, c.2.unmarked)) = s.mats.map (fun c => (c.1, c.2.unmarked)) ∧
    (tm.role is.grp ≠ .matrix → t.mats = s.mats)
  teams : ∀ id, id ≠ is.team → t.team? id = s.team? id
  team : ∃ tm', t.team? is.team = some tm' ∧ TeamStep tm tm' is upd next now s.nextInstr late (s.Sure is tm now) closes

/-- The state before and after a word that writes registers and nothing else. -/
abbrev RegStep (s t : State) (is : Issue) (tm : Team) (now : List (RegRef × Word)) (late : List (List (RegRef × Word)))
    (evs : List ExcInc) : Prop :=
  WordStep s t is tm id (fun _ => none) now late evs

/-- An instruction that changes its group's counters by `upd`, writes no register at once or later, and goes on (`next`). -/
abbrev GroupStep (s t : State) (is : Issue) (tm : Team) (upd : Group → Group) (next : Nat → Option (BitVec 24)) : Prop :=
  WordStep s t is tm upd next [] [] []

/-- What a register instruction writes: one result for each executing lane (R216). -/
def resultWrites (d : Dst) (lanes : List Nat) (val : Nat → DWord) : List (List (RegRef × Word)) :=
  lanes.map fun l => d.writes l (val l)

/-- An instruction computes `f` of its sources into its destination: with every operand inside the reservation (R205) it answers a
next state, in which each executing lane of `m` (one execution for a scalar destination, R216) has its result, at once or, `long`, in
flight; the exception events of the elements that a result holds are counted, one of a class for each element (R238); and nothing else
has changed. -/
def ComputesPacked (i : Instr) (m : Issue → BitVec 64) (long : Bool) (d : Dst) (srcs : List Src)
    (f : State → Issue → Team → Nat → List DWord → DWord × List (List Ev)) : Prop :=
  ∀ s is tm, Running s is tm → d.inRange tm.nv tm.ns = true → srcs.all (Src.inRange tm.nv tm.ns) = true →
    let lanes := execLanes d (m is)
    let res := fun l => f s is tm l (srcs.map (Src.read is.snap l))
    let ws := resultWrites d lanes fun l => (res l).1
    ∃ t, exec i s = .next t ∧ RegStep s t is tm (if long then [] else ws.flatten) (if long then ws else [])
      (incsOf tm.ctx (some (is.team, is.grp)) (lanes.flatMap fun l => (res l).2.flatMap evClasses))

/-- The same where a result is one element. -/
abbrev Computes (i : Instr) (m : Issue → BitVec 64) (long : Bool) (d : Dst) (srcs : List Src)
    (f : State → Issue → Team → Nat → List DWord → DWord × List Ev) : Prop :=
  ComputesPacked i m long d srcs fun s is tm l xs => ((f s is tm l xs).1, [(f s is tm l xs).2])

end Sys2Proof.Machine
end

