-- ==== Sys2Proof/Certificates/Slice0/Obligations.lean ====
section
/-!
DEFINITION. The statements for the provers: what the decoder, the step and each instruction of one SL-940 module do, as the rules of
the spec say. Values are written out in plain arithmetic where the spec gives arithmetic; operands, destinations, lanes and effective
addresses are named with the functions that the meanings themselves use.
-/

namespace Sys2Proof.Claims

open Sys2Proof.Machine

/-! ### Values in plain arithmetic -/

/-- The result of a rule that gives a value and counts no event. -/
def pure1 (x : DWord) : DWord × List Ev := (x, [])

/-- A function of two words, on 64-bit operands. -/
def on2 (f : Word → Word → Word) : State → Issue → Team → Nat → List DWord → DWord × List Ev :=
  fun _ _ _ _ xs => ((f ((opnd xs 0).setWidth 32) ((opnd xs 1).setWidth 32)).setWidth 64, [])

/-- A function of one word. -/
def on1 (f : Word → Word) : State → Issue → Team → Nat → List DWord → DWord × List Ev :=
  fun _ _ _ _ xs => ((f ((opnd xs 0).setWidth 32)).setWidth 64, [])

/-- A minimum and a maximum of signed words, and the high word of their product (R243). -/
def lesser (x y : Word) : Word := if x.slt y then x else y
def greater (x y : Word) : Word := if x.slt y then y else x
def highWord (x y : Word) : Word := (x.signExtend 64 * y.signExtend 64).extractLsb' 32 32

/-- Shifts by an unsigned count: 32 or more shifts every bit out (R245). -/
def shiftL (x y : Word) : Word := if y.toNat < 32 then x <<< y.toNat else 0
def shiftR (x y : Word) : Word := if y.toNat < 32 then x >>> y.toNat else 0
def shiftA (x y : Word) : Word := if y.toNat < 32 then x.sshiftRight y.toNat else x.sshiftRight 31
def rotateL (x y : Word) : Word := x.rotateLeft (y.toNat % 32)

/-- The number of 1 bits; the number of 0 bits above the highest 1 bit, 32 for 0; bit i to bit 31 − i (R247). -/
def ones (x : Word) : Word := BitVec.ofNat 32 ((List.range 32).countP fun i => x.getLsbD i)
def leading (x : Word) : Word := BitVec.ofNat 32 (((List.range 32).find? fun i => x.getLsbD (31 - i)).getD 32)
def mirrored (x : Word) : Word :=
  BitVec.ofNat 32 ((List.range 32).foldl (fun a i => if x.getLsbD i then a + 2 ^ (31 - i) else a) 0)
def magnitude (x : Word) : Word := if x.msb then -x else x

/-- The operations with three short forms, SR, SI and SU, on type `.i32` (R243 to R245). -/
abbrev Short3 := (BitVec 2 → BitVec 6 → BitVec 6 → BitVec 6 → Instr) × (Word → Word → Word)

/-- A six-bit signed immediate (R243). -/
def short (i : BitVec 6) : DWord := i.signExtend 64

/-- The guarded lanes of an issue, as a set. -/
def guardedBy (g : Nat) : Issue → BitVec 64 := fun is => is.guarded g

/-- An operand read in an integer type of class 0 (R241). -/
def valued (t : ITy) (x : DWord) : Int :=
  if t.wide then (if t.signed then x.toInt else x.toNat)
  else if t.signed then (x.setWidth 32).toInt else (x.setWidth 32).toNat

/-- The end of R243: with SAT a result outside the range becomes the nearest bound and counts SATURATION; every other result is
taken modulo 2^n. -/
def ended (t : ITy) (sat : Bool) (r : Int) : DWord × List Ev :=
  let n := t.bits
  let lo : Int := if t.signed then -(2 ^ (n - 1)) else 0
  let hi : Int := if t.signed then 2 ^ (n - 1) - 1 else 2 ^ n - 1
  if sat && decide (r < lo) then ((BitVec.ofInt n lo).setWidth 64, [.saturation])
  else if sat && decide (hi < r) then ((BitVec.ofInt n hi).setWidth 64, [.saturation])
  else ((BitVec.ofInt n r).setWidth 64, [])

/-- An integer operation on a typed pair of operands. -/
def typed2 (t : ITy) (sat : Bool) (f : Int → Int → Int) : State → Issue → Team → Nat → List DWord → DWord × List Ev :=
  fun _ _ _ _ xs => ended t sat (f (valued t (opnd xs 0)) (valued t (opnd xs 1)))

def typed1 (t : ITy) (sat : Bool) (f : Int → Int) : State → Issue → Team → Nat → List DWord → DWord × List Ev :=
  fun _ _ _ _ xs => ended t sat (f (valued t (opnd xs 0)))

/-- The destination and the sources of an LR form in the widths of a type (R205, R241). -/
def lrDst (o : LR) (wide : Bool) : Dst := dstOf o.kd wide o.d.toNat
def lrSrcs (o : LR) (wideA wideB : Bool) : List Src := [srcOf o.ka wideA o.a.toNat, srcOf o.kb wideB o.b.toNat]

/-- The operands of an LI form in type `.i32`: a register and the immediate (R241). -/
def liDst (o : LI) (wide : Bool) : Dst := dstOf o.k wide o.d.toNat
def liSrcs (o : LI) (wide : Bool) (imm : DWord) : List Src := [srcOf o.k wide o.a.toNat, .imm imm]

/-- A floating result: the exact value of R227 rounded once, with the events of the arithmetic and of the rounding. -/
def rounded (f : FFmt) (m : RMode) (sat : Bool) (v : FV × List Ev) : DWord × List Ev :=
  let r := f.round m sat v.1
  (BitVec.ofNat 64 r.code, v.2 ++ r.ev)

/-- The exact values of R253 and R229: sum, difference, product, fused product and sum, minimum, maximum, negation, magnitude. -/
abbrev Exact := RMode → FV → FV → FV × List Ev

def exactSum : Exact := fun m x y => sumFV m false [x, y]
def exactDiff : Exact := fun m x y => sumFV m false [x, y.neg]
def exactProd : Exact := fun _ x y => ((x.mul y).1, if (x.mul y).2 then [.invalid] else [])
def exactMin : Exact := fun _ x y => (FV.minmax false x y, [])
def exactMax : Exact := fun _ x y => (FV.minmax true x y, [])

/-- A floating operation of two operands in a format; a selection and a sign change round to nearest even (R253). -/
def flt2 (f : FFmt) (sat : Bool) (e : Exact) (mode : State → Issue → Team → Nat → RMode) :
    State → Issue → Team → Nat → List DWord → DWord × List Ev :=
  fun s is tm l xs => rounded f (mode s is tm l) sat (e (mode s is tm l) (f.val (opnd xs 0)) (f.val (opnd xs 1)))

def flt1 (f : FFmt) (e : FV → FV) : State → Issue → Team → Nat → List DWord → DWord × List Ev :=
  fun _ _ _ _ xs => rounded f .rn false (e (f.val (opnd xs 0)), [])

/-- Round to nearest, ties to even (Table 12.3). -/
def nearest : State → Issue → Team → Nat → RMode := fun _ _ _ _ => .rn

/-- The rounding mode that an LR form names, element 0 (R227, R231). -/
def lrMode (o : LR) : State → Issue → Team → Nat → RMode := fun s is tm l => rmode s is tm l 0 o.rm.toNat

/-- The uniform short forms and the short compares. -/
abbrev ShortU := (BitVec 1 → BitVec 6 → BitVec 6 → BitVec 6 → Instr) × (Word → Word → Word)
abbrev ShortC := (BitVec 2 → BitVec 3 → BitVec 2 → BitVec 1 → BitVec 6 → BitVec 6 → Instr) × (Word → Word → Bool)

/-- A compare: with its sources inside the reservation it answers a next state, in which every active lane's pair of predicates is what
Table 3.5 makes of its guard, the condition and the old pair; nothing else has changed (R51, R252). -/
def Compares (i : Instr) (g code p1 p2 : Nat) (srcs : List Src) (cond : List DWord → Bool) : Prop :=
  ∀ s is tm, Running s is tm → srcs.all (Src.inRange tm.nv tm.ns) = true →
    ∃ t, exec i s = .next t ∧
      RegStep s t is tm ((lanesOf is.mask).flatMap fun l => predWrites l p1 p2
        (combine code (is.snap.pred l g) (cond (srcs.map (Src.read is.snap l))) (is.snap.pred l p1) (is.snap.pred l p2))) [] []

/-- A condition of Table 3.4 on two floating values: with a NaN only `ne` and `uo` hold. -/
def ordered (code : Nat) (x y : FV) : Bool :=
  match code, x.isNaN || y.isNaN with
  | 1, true | 6, true => true
  | _, true => false
  | 0, _ => x.cmp y == 0
  | 1, _ => x.cmp y != 0
  | 2, _ => decide (x.cmp y < 0)
  | 3, _ => decide (x.cmp y ≤ 0)
  | 4, _ => decide (0 < x.cmp y)
  | 5, _ => decide (0 ≤ x.cmp y)
  | 7, _ => true
  | _, _ => false

/-- The bit of R255 for a value. -/
def classBit (f : FFmt) : FV → Nat
  | .nan => 8
  | .inf n => if n then 0 else 7
  | .fin n m _ =>
    if m = 0 then (if n then 3 else 4) else if m < 2 ^ f.fbits then (if n then 2 else 5) else if n then 1 else 6

/-- A conversion to `.i32`, to nearest even: NaN is 0, a value outside the range the nearest bound, both with INVALID (R257). -/
def toWord (v : FV) : DWord × List Ev :=
  match v with
  | .nan => (0, [.invalid])
  | .inf n => (if n then 0x80000000 else 0x7FFFFFFF, [.invalid])
  | .fin n m e =>
    let r := roundInt .rn n m e
    if r < -(2 ^ 31) then (0x80000000, [.invalid]) else if 2 ^ 31 ≤ r then (0x7FFFFFFF, [.invalid])
    else ((BitVec.ofInt 32 r).setWidth 64, [])

/-- The value of `a` in the source lane where that lane contributes, else in the lane itself (R264). -/
def taken (is : Issue) (tm : Team) (g : Nat) (a : Src) (l sl : Nat) : DWord :=
  a.read is.snap (if sl < tm.w ∧ (is.guarded g).getLsbD sl = true then sl else l)

/-- What `vote` writes: any, all, or equal over the contributing lanes (R265). -/
def polled (is : Issue) (g mode ps : Nat) : Word :=
  let on := fun l => is.snap.pred l ps
  let ls := lanesOf (is.guarded g)
  if (match mode with | 0 => ls.any on | 1 => ls.all on | _ => ls.all on || ls.all fun l => !on l) then 1 else 0

/-- What the ballot writes: bit l is the predicate of contributing lane l (R265). -/
def ballot (is : Issue) (g ps d : Nat) : List (List (RegRef × Word)) :=
  let b : DWord := maskOf fun l => (is.guarded g).getLsbD l && is.snap.pred l ps
  if is.guarded g = 0 then [] else [[(.s d, b.setWidth 32), (.s (d + 1), (b >>> 32).setWidth 32)]]

end Sys2Proof.Claims

open Sys2Proof Sys2Proof.Machine Sys2Proof.Claims

/-! ### Decode, step and reset -/

/-- R42 to R48, R52: words written out in the spec, from every family of instructions, decode to the instructions they stand for: (bits,
first word, extension word, instruction). -/
def Obligations.SpecWordsDecode : Prop :=
  ∀ p ∈ ([
      (32, 0x02105084, 0x00000000, .iaddSi 0 5 2 4),
      (64, 0x06110000, 0x08C04060, .iaddL (.lr ⟨2, 0, 0, 0, 0, 70, 2, 3, false, false, false, false, false⟩)),
      (32, 0x0060A30E, 0x00000000, .iadd64Sr 0 10 12 14),
      (32, 0x05A8703D, 0x00000000, .moviSu 7 0x3D),
      (32, 0x0188824A, 0x00000000, .selSr 2 8 9 10),
      (32, 0x01E02187, 0x00000000, .icmpLtSc 0 0 1 0 6 7),
      (64, 0x07C32200, 0x0280C0E0, .icmpL ⟨6, 4, 2, 0, 0, 20, 6, 7, false, false, false, false, false⟩),
      (32, 0x483061C8, 0x00000000, .fmulSr 0 6 7 8),
      (64, 0x0E140100, 0x006080A0, .faddL (.lr ⟨8, 0, 1, 0, 0, 3, 4, 5, false, false, false, false, false⟩)),
      (64, 0x0E380607, 0x3F000000, .fmulL (.li ⟨false, 0, 6, 7, 0x3F000000⟩)),
      (64, 0x0F25C000, 0x00406002, .cvtL ⟨11, 8, 0, 0, 0, 2, 3, 0, false, false, false, true, false⟩),
      (64, 0x1625D809, 0x01804061, .dot8L ⟨11, 11, 0, 9, 0, 12, 2, 3, false, false, false, false, true⟩),
      (32, 0x12605101, 0x00000000, .xbflySi 0 5 4 1),
      (32, 0x10918000, 0x00000000, .elect 3),
      (32, 0x9A104080, 0x00000000, .ldSi 0 4 2 0),
      (64, 0x26130303, 0x01404180, .atomL ⟨6, 0, 3, 3, 0, 10, 2, 12, false, false, false, false, false⟩),
      (64, 0x26B40800, 0x2000C0A0, .demaL ⟨8, 1, 0, 0, 1, 0, 6, 5, false, false, false, false, false⟩),
      (32, 0x21000002, 0x00000000, .lbind 2),
      (64, 0x2773000A, 0x016160C5, .lshlL ⟨6, 0, 0, 10, 0, 11, 11, 6, false, false, true, false, true⟩),
      (32, 0x281D0000, 0x00000000, .mma 3 16 0),
      (64, 0x2E640003, 0x0500C108, .accLd ⟨8, 0, 0, 3, 0, 40, 6, 8, false, true, false, false, false⟩),
      (32, 0x28C04000, 0x00000000, .cpySf 0 4),
      (64, 0x2F400000, 0x0101419D, .flowSendL ⟨0, 0, 0, 0, 0, 8, 10, 12, true, true, true, false, true⟩),
      (32, 0x29C14201, 0x00000000, .collStatSf 0 20 8 1),
      (32, 0x29E04189, 0x00000000, .trigOnSf 0 4 6 9),
      (32, 0x301BFFFE, 0x00000000, .braSb 2 0x3FFFE),
      (64, 0x36180000, 0x00010000, .braLi ⟨false, 0, 0, 0, 0x10000⟩),
      (32, 0x30700001, 0x00000000, .regroup 0 1),
      (32, 0x31105181, 0x00000000, .barExpSf 0 5 6 1),
      (32, 0x38415043, 0x00000000, .sysWrSf 0 21 0x43)] : List (Nat × Nat × Nat × Instr)),
    decodeTableWord p.1 (p.2.1 + 2 ^ 32 * p.2.2.1) = some p.2.2.2

/-- R42, R47, R48, R58: for every instruction word of the spec and every C and S bit, what the decoder reads from the encoder's words is
that instruction with every operand, and its opcode is one that M3 assigns. -/
def Obligations.DecodeOfEncodeIsIdentity : Prop :=
  ∀ i : Instr, WellFormed i → i.isWord = true → ∀ m, m < 4 →
    m3Assigned (slc (i.encode.headD 0 + m * 2 ^ 30) 20 10) = true ∧
      decodeOp (slc (i.encode.headD 0 + m * 2 ^ 30) 20 10) (i.encode.headD 0 + m * 2 ^ 30) (i.encode.getD 1 0) = .ok i

/-! ### Register instructions -/

/-- R243: `iadd`, `isub`, `imul`, `imulhi`, `imin` and `imax` in their short forms, on type `.i32`, modulo 2^32; the immediate is six
signed bits; the SU forms execute once on scalar registers (R216). -/
def Obligations.IntegerArithmeticShortForms : Prop :=
  (∀ p ∈ ([(.iaddSr, fun x y => x + y), (.isubSr, fun x y => x - y), (.imulSr, fun x y => x * y), (.imulhiSr, highWord),
      (.iminSr, lesser), (.imaxSr, greater)] : List Short3), ∀ g d a b,
    Computes (p.1 g d a b) (guardedBy g.toNat) false (.v d.toNat) [.v a.toNat, .v b.toNat] (on2 p.2)) ∧
  (∀ p ∈ ([(.iaddSi, fun x y => x + y), (.isubSi, fun x y => x - y), (.imulSi, fun x y => x * y), (.iminSi, lesser),
      (.imaxSi, greater)] : List Short3), ∀ g d a i,
    Computes (p.1 g d a i) (guardedBy g.toNat) false (.v d.toNat) [.v a.toNat, .imm (short i)] (on2 p.2)) ∧
  ∀ p ∈ ([(.iaddSu, fun x y => x + y), (.isubSu, fun x y => x - y), (.imulSu, fun x y => x * y), (.imulhiSu, highWord),
      (.iminSu, lesser), (.imaxSu, greater)] : List ShortU), ∀ k d a b,
    Computes (p.1 k d a b) (fun is => is.mask) false (.s d.toNat) [.s a.toNat, if k = 1 then .imm (short b) else .s b.toNat] (on2 p.2)

/-- R244: `and`, `or` and `xor` act bit by bit, in their short forms on 32 bits. R245: the shifts and the rotation in their short forms, the
count one 32-bit value read unsigned; a count of 32 or more leaves 0, or copies of the sign. -/
def Obligations.LogicAndShiftShortForms : Prop :=
  ((∀ p ∈ ([(.andSr, fun x y => x &&& y), (.orSr, fun x y => x ||| y), (.xorSr, fun x y => x ^^^ y)] : List Short3), ∀ g d a b,
    Computes (p.1 g d a b) (guardedBy g.toNat) false (.v d.toNat) [.v a.toNat, .v b.toNat] (on2 p.2)) ∧
  (∀ p ∈ ([(.andSi, fun x y => x &&& y), (.orSi, fun x y => x ||| y), (.xorSi, fun x y => x ^^^ y)] : List Short3), ∀ g d a i,
    Computes (p.1 g d a i) (guardedBy g.toNat) false (.v d.toNat) [.v a.toNat, .imm (short i)] (on2 p.2)) ∧
  ∀ p ∈ ([(.andSu, fun x y => x &&& y), (.orSu, fun x y => x ||| y), (.xorSu, fun x y => x ^^^ y)] : List ShortU), ∀ k d a b,
    Computes (p.1 k d a b) (fun is => is.mask) false (.s d.toNat) [.s a.toNat, if k = 1 then .imm (short b) else .s b.toNat] (on2 p.2)) ∧
  ((∀ p ∈ ([(.shlSr, shiftL), (.shrSr, shiftR), (.sarSr, shiftA), (.rotlSr, rotateL)] : List Short3), ∀ g d a b,
    Computes (p.1 g d a b) (guardedBy g.toNat) false (.v d.toNat) [.v a.toNat, .v b.toNat] (on2 p.2)) ∧
  (∀ p ∈ ([(.shlSi, shiftL), (.shrSi, shiftR), (.sarSi, shiftA), (.rotlSi, rotateL)] : List Short3), ∀ g d a i,
    Computes (p.1 g d a i) (guardedBy g.toNat) false (.v d.toNat) [.v a.toNat, .imm (short i)] (on2 p.2)) ∧
  ∀ p ∈ ([(.shlSu, shiftL), (.shrSu, shiftR), (.sarSu, shiftA), (.rotlSu, rotateL)] : List ShortU), ∀ k d a b,
    Computes (p.1 k d a b) (fun is => is.mask) false (.s d.toNat) [.s a.toNat, if k = 1 then .imm (short b) else .s b.toNat] (on2 p.2))

/-- R243, R244, R247, R248: the short forms with one source, and the moves of an immediate. R243: `iadd64` adds pairs modulo 2^64 in its
short forms. -/
def Obligations.UnaryAndPairShortForms : Prop :=
  ((∀ p ∈ ([(.inegSr, fun x => -x), (.iabsSr, magnitude), (.notSr, fun x => ~~~x), (.popcSr, ones), (.clzSr, leading),
      (.brevSr, mirrored), (.movSr, id)] : List ((BitVec 2 → BitVec 6 → BitVec 6 → Instr) × (Word → Word))), ∀ g d a,
    Computes (p.1 g d a) (guardedBy g.toNat) false (.v d.toNat) [.v a.toNat] (on1 p.2)) ∧
  (∀ p ∈ ([(.inegSu, fun x => -x), (.iabsSu, magnitude), (.notSu, fun x => ~~~x), (.popcSu, ones), (.clzSu, leading),
      (.brevSu, mirrored), (.movSu, id)] : List ((BitVec 6 → BitVec 6 → Instr) × (Word → Word))), ∀ d a,
    Computes (p.1 d a) (fun is => is.mask) false (.s d.toNat) [.s a.toNat] (on1 p.2)) ∧
  (∀ g d i, Computes (.moviSi g d i) (guardedBy g.toNat) false (.v d.toNat) [.imm (short i)] (on1 id)) ∧
  (∀ d i, Computes (.moviSu d i) (fun is => is.mask) false (.s d.toNat) [.imm (short i)] (on1 id)) ∧
  ∀ o : LI, Computes (.moviLi o) (guardedBy o.g.toNat) false (liDst o false) [.imm (o.imm.setWidth 64)] (on1 id)) ∧
  ((∀ g d a b, Computes (.iadd64Sr g d a b) (guardedBy g.toNat) false (.vp d.toNat) [.vp a.toNat, .vp b.toNat]
    fun _ _ _ _ xs => (opnd xs 0 + opnd xs 1, [])) ∧
  (∀ g d a i, Computes (.iadd64Si g d a i) (guardedBy g.toNat) false (.vp d.toNat) [.vp a.toNat, .imm (short i)]
    fun _ _ _ _ xs => (opnd xs 0 + opnd xs 1, [])) ∧
  ∀ k d a b, Computes (.iadd64Su k d a b) (fun is => is.mask) false (.sp d.toNat)
    [.sp a.toNat, if k = 1 then .imm (short b) else .sp b.toNat] fun _ _ _ _ xs => (opnd xs 0 + opnd xs 1, []))

/-- R243: the long forms of integer arithmetic compute exactly on operands of the type in T1, saturate where SAT asks, and otherwise
keep the result modulo 2^n; `imad` adds vector c; `iadd64` with X = 1 extends one register. -/
def Obligations.IntegerArithmeticLongForms : Prop :=
  (∀ p ∈ ([(.iaddL, fun x y => x + y), (.isubL, fun x y => x - y), (.imulL, fun x y => x * y)] :
      List ((Long → Instr) × (Int → Int → Int))),
    (∀ o : LR, let t := ITy.of o.t1
      Computes (p.1 (.lr o)) (guardedBy o.g.toNat) false (lrDst o t.wide) (lrSrcs o t.wide t.wide) (typed2 t o.sat p.2)) ∧
    ∀ o : LI, Computes (p.1 (.li o)) (guardedBy o.g.toNat) false (liDst o false) (liSrcs o false (o.imm.signExtend 64))
      (typed2 tI32 false p.2)) ∧
  (∀ p ∈ ([(.iminL, fun x y => min x y), (.imaxL, fun x y => max x y)] : List ((Long → Instr) × (Int → Int → Int))),
    (∀ o : LR, let t := ITy.of o.t1
      Computes (p.1 (.lr o)) (guardedBy o.g.toNat) false (lrDst o t.wide) (lrSrcs o t.wide t.wide) (typed2 t false p.2)) ∧
    ∀ o : LI, Computes (p.1 (.li o)) (guardedBy o.g.toNat) false (liDst o false) (liSrcs o false (o.imm.signExtend 64))
      (typed2 tI32 false p.2)) ∧
  (∀ o : LR, let t := ITy.of o.t1
    Computes (.imulhiL o) (guardedBy o.g.toNat) false (lrDst o t.wide) (lrSrcs o t.wide t.wide)
      (typed2 t false fun x y => x * y / 2 ^ 32)) ∧
  (∀ p ∈ ([(.inegL, fun x => -x), (.iabsL, fun x => max x (-x))] : List ((LR → Instr) × (Int → Int))), ∀ o : LR,
    let t := ITy.of o.t1
    Computes (p.1 o) (guardedBy o.g.toNat) false (lrDst o t.wide) [srcOf o.ka t.wide o.a.toNat] (typed1 t o.sat p.2)) ∧
  (∀ o : LR, let t := ITy.of o.t1
    Computes (.imadL o) (guardedBy o.g.toNat) false (lrDst o t.wide) (lrSrcs o t.wide t.wide ++ [srcOf false t.wide o.c.toNat])
      fun _ _ _ _ xs => ended t o.sat (valued t (opnd xs 0) * valued t (opnd xs 1) + valued t (opnd xs 2))) ∧
  (∀ o : LI, Computes (.iadd64L (.li o)) (guardedBy o.g.toNat) false (liDst o true) (liSrcs o true (o.imm.signExtend 64))
    (typed2 tI64 false fun x y => x + y)) ∧
  ∀ o : LR, WellFormed (.iadd64L (.lr o)) → let t := ITy.of o.t1
    Computes (.iadd64L (.lr o)) (guardedBy o.g.toNat) false (lrDst o true) (lrSrcs o true (!o.x))
      fun _ _ _ _ xs =>
        let y := opnd xs 1
        let z : DWord := if o.x then (if t.signed then (y.setWidth 32).signExtend 64 else (y.setWidth 32).setWidth 64) else y
        ended t o.sat (valued t (opnd xs 0) + valued t z)

/-- R244, R247: the long forms of logic, and of the bit counts and the bit reversal in the width of the type. R245, R246: the long forms of
the shifts in the width of the type, and the bit fields, cut at bit 31. -/
def Obligations.LogicAndShiftLongForms : Prop :=
  ((∀ p ∈ ([(.andL, fun x y => x &&& y), (.orL, fun x y => x ||| y), (.xorL, fun x y => x ^^^ y)] :
      List ((Long → Instr) × (DWord → DWord → DWord))),
    (∀ o : LR, let t := ITy.of o.t1
      Computes (p.1 (.lr o)) (guardedBy o.g.toNat) false (lrDst o t.wide) (lrSrcs o t.wide t.wide)
        fun _ _ _ _ xs => (p.2 (opnd xs 0) (opnd xs 1), [])) ∧
    ∀ o : LI, Computes (p.1 (.li o)) (guardedBy o.g.toNat) false (liDst o false) (liSrcs o false (o.imm.signExtend 64))
      fun _ _ _ _ xs => (p.2 (opnd xs 0) (opnd xs 1), [])) ∧
  (∀ o : LR, let t := ITy.of o.t1
    Computes (.notL o) (guardedBy o.g.toNat) false (lrDst o t.wide) [srcOf o.ka t.wide o.a.toNat]
      fun _ _ _ _ xs => (~~~(opnd xs 0), [])) ∧
  (∀ p ∈ ([(.popcL, fun n x => (List.range n).countP fun i => x.getLsbD i),
      (.clzL, fun n x => ((List.range n).find? fun i => x.getLsbD (n - 1 - i)).getD n)] :
      List ((LR → Instr) × (Nat → DWord → Nat))), ∀ o : LR,
    let t := ITy.of o.t1
    Computes (p.1 o) (guardedBy o.g.toNat) false (lrDst o false) [srcOf o.ka t.wide o.a.toNat]
      fun _ _ _ _ xs => (BitVec.ofNat 64 (p.2 t.bits (opnd xs 0)), [])) ∧
  ∀ o : LR, let t := ITy.of o.t1
    Computes (.brevL o) (guardedBy o.g.toNat) false (lrDst o t.wide) [srcOf o.ka t.wide o.a.toNat]
      fun _ _ _ _ xs => (BitVec.ofNat 64 ((List.range t.bits).foldl
        (fun a i => if (opnd xs 0).getLsbD i then a + 2 ^ (t.bits - 1 - i) else a) 0), [])) ∧
  ((∀ p ∈ ([(.shlL, shiftL, fun x k => if k < 64 then x <<< k else 0), (.shrL, shiftR, fun x k => if k < 64 then x >>> k else 0),
      (.sarL, shiftA, fun x k => x.sshiftRight (min k 63)), (.rotlL, rotateL, fun x k => x.rotateLeft (k % 64))] :
      List ((LR → Instr) × (Word → Word → Word) × (DWord → Nat → DWord))), ∀ o : LR,
    let t := ITy.of o.t1
    Computes (p.1 o) (guardedBy o.g.toNat) false (lrDst o t.wide) (lrSrcs o t.wide false)
      fun _ _ _ _ xs =>
        let y : Word := (opnd xs 1).setWidth 32
        if t.wide then (p.2.2 (opnd xs 0) y.toNat, []) else ((p.2.1 ((opnd xs 0).setWidth 32) y).setWidth 64, [])) ∧
  (∀ o : LR, let t := ITy.of o.t1
    Computes (.bfxL o) (guardedBy o.g.toNat) false (lrDst o false)
      (srcOf o.ka false o.a.toNat :: if o.x then [] else [srcOf o.kb false o.b.toNat])
      fun _ _ _ _ xs =>
        let x : Word := (opnd xs 0).setWidth 32
        let pos := if o.x then o.b.toNat else (opnd xs 1).toNat % 256
        let len := if o.x then o.c.toNat else (opnd xs 1).toNat / 256 % 256
        let m := min len (32 - pos)
        if 32 ≤ pos ∨ len = 0 then (0, [])
        else
          let f := (x >>> pos) <<< (32 - m)
          ((if t.signed then f.sshiftRight (32 - m) else f >>> (32 - m)).setWidth 64, [])) ∧
  ∀ o : LR, Computes (.bfiL o) (guardedBy o.g.toNat) false (lrDst o false) (lrSrcs o false false ++ [.v o.c.toNat])
    fun _ _ _ _ xs =>
      let x : Word := (opnd xs 0).setWidth 32
      let y : Word := (opnd xs 1).setWidth 32
      let pos := (opnd xs 2).toNat % 256
      let len := (opnd xs 2).toNat / 256 % 256
      let m := min len (32 - pos)
      if 32 ≤ pos ∨ len = 0 then (y.setWidth 64, [])
      else
        let hole : Word := BitVec.ofNat 32 (2 ^ m - 1) <<< pos
        (((y &&& ~~~hole) ||| ((x <<< pos) &&& hole)).setWidth 64, []))

/-- R248, R249, R250: `sel` takes a where the predicate of the guard field reads 1 and b elsewhere, in every active lane; `mov` copies;
`lea` adds a scaled and extended index, or an immediate. R208, Table 11.3: `mov` with X = 1 reads a special register. -/
def Obligations.MovesAndSpecialRegisters : Prop :=
  ((∀ g d a b, Computes (.selSr g d a b) (fun is => is.mask) false (.v d.toNat) [.v a.toNat, .v b.toNat]
    fun _ is _ l xs => (if is.snap.pred l g.toNat then opnd xs 0 else opnd xs 1, [])) ∧
  (∀ o : LR, let t := ITy.of o.t1
    Computes (.selL o) (fun is => is.mask) false (lrDst o t.wide) (lrSrcs o t.wide t.wide)
      fun _ is _ l xs => (if is.snap.pred l o.g.toNat then opnd xs 0 else opnd xs 1, [])) ∧
  (∀ o : LR, let t := ITy.of o.t1
    Computes (.movL o) (guardedBy o.g.toNat) false (lrDst o t.wide) [srcOf o.ka t.wide o.a.toNat]
      fun _ _ _ _ xs => (opnd xs 0, [])) ∧
  (∀ o : LI, Computes (.leaL (.li o)) (guardedBy o.g.toNat) false (liDst o true) (liSrcs o true (o.imm.signExtend 64))
    fun _ _ _ _ xs => (opnd xs 0 + opnd xs 1, [])) ∧
  ∀ o : LR, let t := ITy.of o.t1
    Computes (.leaL (.lr o)) (guardedBy o.g.toNat) false (lrDst o true) (lrSrcs o true t.wide)
      fun _ _ _ _ xs =>
        let y := opnd xs 1
        let e : DWord := if t.wide then y else if t.signed then (y.setWidth 32).signExtend 64 else (y.setWidth 32).setWidth 64
        (opnd xs 0 + BitVec.ofNat 64 (e.toNat * 2 ^ (o.c.toNat % 8)), [])) ∧
  (∀ o : LR, Computes (.movSpecial o) (guardedBy o.g.toNat) false (lrDst o (o.t1 == 7)) []
    fun s is tm l _ =>
      let gd := s.gridOf tm
      (match o.c.toNat with
        | 0 => BitVec.ofNat 64 l
        | 1 => (gd.map fun g => g.gid.setWidth 64).getD 0
        | 2 => BitVec.ofNat 64 tm.index
        | 3 => BitVec.ofNat 64 (tm.coreOf is.grp)
        | 4 => s.modId.setWidth 64
        | 5 => (gd.map fun g => g.odo.setWidth 64).getD 0
        | 6 => s.time
        | 7 => (tm.thread (tm.tid is.grp l)).meet.setWidth 64
        | 8 => (tm.group is.grp).lcount.setWidth 64
        | 9 => BitVec.ofNat 64 (tm.group is.grp).repidx
        | _ => BitVec.ofNat 64 is.grp, []))

/-- R51, R252, Tables 3.4 and 3.5: the short compares on type `.i32`: the condition holds of the two words as it is written here, and the
pair p(2Q + SW), p(2Q + 1 − SW) combines it in every active lane. R51, R252: the long compares of integers and of floating values: the
condition in T2, the combining type in RM, the predicates in d. With a NaN only `ne` and `uo` hold (Table 3.4). -/
def Obligations.CompareForms : Prop :=
  ((∀ p ∈ ([(.icmpEqSc, fun x y => x == y), (.icmpNeSc, fun x y => x != y), (.icmpLtSc, fun x y => x.slt y),
      (.icmpLeSc, fun x y => x.sle y)] : List ShortC), ∀ g t q w a b,
    Compares (p.1 g t q w a b) g.toNat t.toNat (2 * q.toNat + w.toNat) (2 * q.toNat + 1 - w.toNat) [.v a.toNat, .v b.toNat]
      (fun xs => p.2 ((opnd xs 0).setWidth 32) ((opnd xs 1).setWidth 32))) ∧
  ∀ p ∈ ([(.icmpEqSci, fun x y => x == y), (.icmpNeSci, fun x y => x != y), (.icmpLtSci, fun x y => x.slt y),
      (.icmpLeSci, fun x y => x.sle y)] : List ShortC), ∀ g t q w a i,
    Compares (p.1 g t q w a i) g.toNat t.toNat (2 * q.toNat + w.toNat) (2 * q.toNat + 1 - w.toNat)
      [.v a.toNat, .imm ((i.signExtend 32).setWidth 64)]
      (fun xs => p.2 ((opnd xs 0).setWidth 32) ((opnd xs 1).setWidth 32))) ∧
  ((∀ o : LR, let t := ITy.of o.t1
    Compares (.icmpL o) o.g.toNat o.rm.toNat (o.d.toNat / 16 % 8) (o.d.toNat % 8) (lrSrcs o t.wide t.wide)
      fun xs =>
        let x := valued t (opnd xs 0); let y := valued t (opnd xs 1)
        match o.t2.toNat with
        | 0 => decide (x = y) | 1 => decide (x ≠ y) | 2 => decide (x < y) | 3 => decide (x ≤ y) | 4 => decide (x > y)
        | 5 => decide (x ≥ y) | _ => false) ∧
  (∀ o : LR, let f := fmtOf o.t1.toNat
    Compares (.fcmpL o) o.g.toNat o.rm.toNat (o.d.toNat / 16 % 8) (o.d.toNat % 8) (lrSrcs o false false)
      fun xs => ordered o.t2.toNat (f.val (opnd xs 0)) (f.val (opnd xs 1))) ∧
  ∀ p ∈ ([(.fcmpEqSc, 0), (.fcmpNeSc, 1), (.fcmpLtSc, 2), (.fcmpLeSc, 3)] :
      List ((BitVec 2 → BitVec 3 → BitVec 2 → BitVec 1 → BitVec 6 → BitVec 6 → Instr) × Nat)), ∀ g t q w a b,
    Compares (p.1 g t q w a b) g.toNat t.toNat (2 * q.toNat + w.toNat) (2 * q.toNat + 1 - w.toNat) [.v a.toNat, .v b.toNat]
      fun xs => ordered p.2 (fp32.val (opnd xs 0)) (fp32.val (opnd xs 1)))

/-- R227, R228, R229, R253: the exact result of the floating operations is rounded once: the short forms in `.f32` to nearest even, the
LI forms likewise, the LR forms in the type, the mode and the saturation that the fields name. -/
def Obligations.FloatingArithmetic : Prop :=
  (∀ p ∈ ([(.faddSr, exactSum), (.fsubSr, exactDiff), (.fmulSr, exactProd), (.fminSr, exactMin), (.fmaxSr, exactMax)] :
      List ((BitVec 2 → BitVec 6 → BitVec 6 → BitVec 6 → Instr) × Exact)), ∀ g d a b,
    Computes (p.1 g d a b) (guardedBy g.toNat) false (.v d.toNat) [.v a.toNat, .v b.toNat] (flt2 fp32 false p.2 nearest)) ∧
  (∀ p ∈ ([(.faddSu, exactSum), (.fsubSu, exactDiff), (.fmulSu, exactProd), (.fminSu, exactMin), (.fmaxSu, exactMax)] :
      List ((BitVec 6 → BitVec 6 → BitVec 6 → Instr) × Exact)), ∀ d a b,
    Computes (p.1 d a b) (fun is => is.mask) false (.s d.toNat) [.s a.toNat, .s b.toNat] (flt2 fp32 false p.2 nearest)) ∧
  (∀ p ∈ ([(.faddL, exactSum), (.fsubL, exactDiff), (.fmulL, exactProd)] : List ((Long → Instr) × Exact)),
    (∀ o : LR, Computes (p.1 (.lr o)) (guardedBy o.g.toNat) false (lrDst o false) (lrSrcs o false false)
      (flt2 (fmtOf o.t1.toNat) o.sat p.2 (lrMode o))) ∧
    ∀ o : LI, Computes (p.1 (.li o)) (guardedBy o.g.toNat) false (liDst o false) (liSrcs o false (o.imm.setWidth 64))
      (flt2 fp32 false p.2 nearest)) ∧
  (∀ p ∈ ([(.fminL, exactMin), (.fmaxL, exactMax)] : List ((Long → Instr) × Exact)),
    (∀ o : LR, Computes (p.1 (.lr o)) (guardedBy o.g.toNat) false (lrDst o false) (lrSrcs o false false)
      (flt2 (fmtOf o.t1.toNat) false p.2 nearest)) ∧
    ∀ o : LI, Computes (p.1 (.li o)) (guardedBy o.g.toNat) false (liDst o false) (liSrcs o false (o.imm.setWidth 64))
      (flt2 fp32 false p.2 nearest)) ∧
  ∀ o : LR, Computes (.ffmaL o) (guardedBy o.g.toNat) false (lrDst o false) (lrSrcs o false false ++ [.v o.c.toNat])
    fun s is tm l xs =>
      let f := fmtOf o.t1.toNat
      let m := lrMode o s is tm l
      let p := (f.val (opnd xs 0)).mul (f.val (opnd xs 1))
      rounded f m o.sat (sumFV m p.2 [p.1, f.val (opnd xs 2)])

/-- R253, R255, R257: sign changes, classification and conversions, in every form. R254: a special function is long class (R46): its result
is in flight, in each form and type. -/
def Obligations.FloatingUnaryAndSpecialFunctions : Prop :=
  ((∀ p ∈ ([(.fnegSr, FV.neg), (.fabsSr, FV.abs)] : List ((BitVec 2 → BitVec 6 → BitVec 6 → Instr) × (FV → FV))), ∀ g d a,
    Computes (p.1 g d a) (guardedBy g.toNat) false (.v d.toNat) [.v a.toNat] (flt1 fp32 p.2)) ∧
  (∀ p ∈ ([(.fnegSu, FV.neg), (.fabsSu, FV.abs)] : List ((BitVec 6 → BitVec 6 → Instr) × (FV → FV))), ∀ d a,
    Computes (p.1 d a) (fun is => is.mask) false (.s d.toNat) [.s a.toNat] (flt1 fp32 p.2)) ∧
  (∀ p ∈ ([(.fnegL, FV.neg), (.fabsL, FV.abs)] : List ((LR → Instr) × (FV → FV))), ∀ o : LR,
    Computes (p.1 o) (guardedBy o.g.toNat) false (lrDst o false) [srcOf o.ka false o.a.toNat] (flt1 (fmtOf o.t1.toNat) p.2)) ∧
  (∀ g d a, Computes (.fclassSr g d a) (guardedBy g.toNat) false (.v d.toNat) [.v a.toNat]
    fun _ _ _ _ xs => (BitVec.ofNat 64 (2 ^ classBit fp32 (fp32.val (opnd xs 0))), [])) ∧
  (∀ o : LR, Computes (.fclassL o) (guardedBy o.g.toNat) false (lrDst o false) [srcOf o.ka false o.a.toNat]
    fun _ _ _ _ xs => let f := fmtOf o.t1.toNat; (BitVec.ofNat 64 (2 ^ classBit f (f.val (opnd xs 0))), [])) ∧
  (∀ g d a, Computes (.cvtSr g d a) (guardedBy g.toNat) false (.v d.toNat) [.v a.toNat]
    fun _ _ _ _ xs => toWord (fp32.val (opnd xs 0))) ∧
  (∀ d a, Computes (.cvtSu d a) (fun is => is.mask) false (.s d.toNat) [.s a.toNat]
    fun _ _ _ _ xs => toWord (fp32.val (opnd xs 0))) ∧
  ∀ o : LR, let wide := fun t : BitVec 4 => t.toNat == 3 || t.toNat == 7
    Computes (.cvtL o) (guardedBy o.g.toNat) false (lrDst o (wide o.t1)) [srcOf o.ka (wide o.t2) o.a.toNat]
      fun s is tm l xs =>
        let r := opCvt o.t1.toNat o.t2.toNat (lrMode o s is tm l) o.sat (opnd xs 0)
        (r.val, r.ev)) ∧
  ((∀ p ∈ ([(.frcpSr, .rcp), (.frsqSr, .rsq), (.fsqrtSr, .sqrt), (.fexp2Sr, .exp2), (.flog2Sr, .log2), (.fsinSr, .sin), (.fcosSr, .cos),
      (.ftanhSr, .tanh)] : List ((BitVec 2 → BitVec 6 → BitVec 6 → Instr) × SFun)), ∀ g d a,
    Computes (p.1 g d a) (guardedBy g.toNat) true (.v d.toNat) [.v a.toNat]
      fun _ _ _ _ xs => ((opSfu p.2 8 (opnd xs 0)).val, (opSfu p.2 8 (opnd xs 0)).ev)) ∧
  (∀ p ∈ ([(.frcpSu, .rcp), (.frsqSu, .rsq), (.fsqrtSu, .sqrt), (.fexp2Su, .exp2), (.flog2Su, .log2), (.fsinSu, .sin), (.fcosSu, .cos),
      (.ftanhSu, .tanh)] : List ((BitVec 6 → BitVec 6 → Instr) × SFun)), ∀ d a,
    Computes (p.1 d a) (fun is => is.mask) true (.s d.toNat) [.s a.toNat]
      fun _ _ _ _ xs => ((opSfu p.2 8 (opnd xs 0)).val, (opSfu p.2 8 (opnd xs 0)).ev)) ∧
  ∀ p ∈ ([(.frcpL, .rcp), (.frsqL, .rsq), (.fsqrtL, .sqrt), (.fexp2L, .exp2), (.flog2L, .log2), (.fsinL, .sin), (.fcosL, .cos),
      (.ftanhL, .tanh)] : List ((LR → Instr) × SFun)), ∀ o : LR,
    Computes (p.1 o) (guardedBy o.g.toNat) true (lrDst o false) [srcOf o.ka false o.a.toNat]
      fun _ _ _ _ xs => ((opSfu p.2 o.t1.toNat (opnd xs 0)).val, (opSfu p.2 o.t1.toNat (opnd xs 0)).ev))

/-- R259: the short dot products: the products of signed elements are added to d, modulo 2^32. R233, R258 to R261: the scaled and typed dot
products, the packing and the unpacking of narrow elements. R258, R261: the long form of `qunpk` writes one register for each element. -/
def Obligations.NarrowAndDotForms : Prop :=
  (∀ p ∈ ([(.dot4Sr, 4), (.dot8Sr, 8)] : List ((BitVec 2 → BitVec 6 → BitVec 6 → BitVec 6 → Instr) × Nat)), ∀ g d a b,
    Computes (p.1 g d a b) (guardedBy g.toNat) false (.v d.toNat) [.v a.toNat, .v b.toNat, .v d.toNat]
      fun _ _ _ _ xs =>
        let el (x : DWord) (i : Nat) : Int := (x.extractLsb' (p.2 * i) p.2).toInt
        let sum := (List.range (32 / p.2)).foldl (fun z i => z + el (opnd xs 0) i * el (opnd xs 1) i)
          ((opnd xs 2).setWidth 32).toInt
        ((BitVec.ofInt 32 sum).setWidth 64, [])) ∧
  ((∀ p ∈ ([(.dot4L, 4, 4), (.dot8L, 8, 8)] : List ((LR → Instr) × Nat × Nat)), ∀ o : LR,
    let q := 4 * (o.c.toNat / 4)
    Computes (p.1 o) (guardedBy o.g.toNat) false (.v o.d.toNat)
      ([.v o.a.toNat, .v o.b.toNat, .v o.d.toNat] ++ if o.x then [.v q, .v (q + 1)] else [])
      fun s is tm l xs =>
        let k := o.c.toNat % 4
        let sc := if o.x then some (laneScale is.snap q k p.2.2 l, laneScale is.snap (q + 1) k p.2.2 l) else none
        let r := opDot p.2.1 o.t1.toNat o.t2.toNat (lrMode o s is tm l) o.sat sc (opnd xs 0).toNat (opnd xs 1).toNat (opnd xs 2).toNat
        (r.val, r.ev)) ∧
  (∀ g d a, ComputesPacked (.qpackSr g d a) (guardedBy g.toNat) false (.v d.toNat) ((List.range 4).map fun i => .v (a.toNat + i))
    fun _ _ _ _ xs =>
      let e (i : Nat) : Rnd := e4m3.round .rn false (fp32.val (opnd xs i))
      (BitVec.ofNat 64 ((List.range 4).foldl (fun z i => z + (e i).code * 256 ^ i) 0), (List.range 4).map fun i => (e i).ev)) ∧
  (∀ o : LR, let n := if o.t2 = 1 then 4 else 8
    let q := 4 * (o.c.toNat / 4)
    ComputesPacked (.qpackL o) (guardedBy o.g.toNat) false (.v o.d.toNat)
      (((List.range (32 / n)).map fun i => .v (o.a.toNat + i)) ++ if o.x then [.v q] else [])
      fun s is tm l xs =>
        let sc := if o.x then some (laneScale is.snap q (o.c.toNat % 4) n l) else none
        opQpack n (Elem.of (o.t2 == 1) o.t1.toNat) (fun i => rmode s is tm l i o.rm.toNat) o.sat sc xs) ∧
  ∀ s is tm, Running s is tm → ∀ g d a : BitVec _, d.toNat + 3 < tm.nv → a.toNat < tm.nv →
    let e := fun l i => fp32.round .rn false (e4m3.decode ((is.snap.vec l a.toNat).toNat / 256 ^ i % 256))
    let lanes := lanesOf (is.guarded g.toNat)
    ∃ t, exec (.qunpkSr g d a) s = .next t ∧
      RegStep s t is tm (lanes.flatMap fun l => (List.range 4).map fun i => (.v l (d.toNat + i), BitVec.ofNat 32 (e l i).code)) []
        (incsOf tm.ctx (some (is.team, is.grp)) (lanes.flatMap fun l => (List.range 4).flatMap fun i => evClasses (e l i).ev))) ∧
  (∀ s is tm, Running s is tm → ∀ o : LR,
    let n := if o.t2 = 1 then 4 else 8
    let q := 4 * (o.c.toNat / 4)
    o.d.toNat + 32 / n - 1 < tm.nv → o.a.toNat < tm.nv → (o.x = true → q < tm.nv) →
    let e := fun l i => opQunpk n (Elem.of (o.t2 == 1) o.t1.toNat) (rmode s is tm l i o.rm.toNat) o.sat
      (if o.x then some (laneScale is.snap q (o.c.toNat % 4) n l) else none) i (is.snap.vec l o.a.toNat).toNat
    let lanes := lanesOf (is.guarded o.g.toNat)
    ∃ t, exec (.qunpkL o) s = .next t ∧
      RegStep s t is tm (lanes.flatMap fun l => (List.range (32 / n)).map fun i => (.v l (o.d.toNat + i), (e l i).val.lo)) []
        (incsOf tm.ctx (some (is.team, is.grp)) (lanes.flatMap fun l => (List.range (32 / n)).flatMap fun i => evClasses (e l i).ev)))

/-- R264: `shfl`, `shfl.rot`, `xbfly` and `bcast` in their short forms: a lane takes a of the source lane where that lane contributes, else
its own; `bcast` takes that of the lowest contributing lane. The results are long class. R264: the long forms of the same, on one register
or a pair, the source lane from a vector or a scalar register. -/
def Obligations.ShuffleForms : Prop :=
  ((∀ g d a b, Computes (.shflSr g d a b) (guardedBy g.toNat) true (.v d.toNat) [.v a.toNat, .v b.toNat]
    fun _ is tm l _ => (taken is tm g.toNat (.v a.toNat) l (is.snap.vec l b.toNat).toNat, [])) ∧
  (∀ g d a i, Computes (.shflRotSi g d a i) (guardedBy g.toNat) true (.v d.toNat) [.v a.toNat, .imm (imm6 i)]
    fun _ is tm l _ => (taken is tm g.toNat (.v a.toNat) l (((l : Int) + i.toInt) % (tm.w : Int)).toNat, [])) ∧
  (∀ g d a b, Computes (.xbflySr g d a b) (guardedBy g.toNat) true (.v d.toNat) [.v a.toNat, .v b.toNat]
    fun _ is tm l _ => (taken is tm g.toNat (.v a.toNat) l (l ^^^ (is.snap.vec l b.toNat).toNat), [])) ∧
  (∀ g d a i, Computes (.xbflySi g d a i) (guardedBy g.toNat) true (.v d.toNat) [.v a.toNat, .imm (imm6 i)]
    fun _ is tm l _ => (taken is tm g.toNat (.v a.toNat) l (l ^^^ (i.signExtend 32 : Word).toNat), [])) ∧
  (∀ g d a b, Computes (.bcastSr g d a b) (guardedBy g.toNat) true (.v d.toNat) [.v a.toNat, .v b.toNat]
    fun _ is tm _ _ =>
      let low := lowLane (is.guarded g.toNat)
      (taken is tm g.toNat (.v a.toNat) low (is.snap.vec low b.toNat).toNat, [])) ∧
  ∀ g d a i, Computes (.bcastSi g d a i) (guardedBy g.toNat) true (.v d.toNat) [.v a.toNat, .imm (imm6 i)]
    fun _ is tm _ _ => (taken is tm g.toNat (.v a.toNat) (lowLane (is.guarded g.toNat)) (i.signExtend 32 : Word).toNat, [])) ∧
  ((∀ o : LR, let wide := o.t1 == 7
    Computes (.shflL o) (guardedBy o.g.toNat) true (dstOf false wide o.d.toNat) [srcOf false wide o.a.toNat, srcOf o.kb false o.b.toNat]
      fun _ is tm l _ =>
        let y : Word := ((srcOf o.kb false o.b.toNat).read is.snap l).setWidth 32
        (taken is tm o.g.toNat (srcOf false wide o.a.toNat) l
          (if o.x then (((l : Int) + y.toInt) % (tm.w : Int)).toNat else y.toNat), [])) ∧
  (∀ o : LR, let wide := o.t1 == 7
    Computes (.xbflyL o) (guardedBy o.g.toNat) true (dstOf false wide o.d.toNat) [srcOf false wide o.a.toNat, srcOf o.kb false o.b.toNat]
      fun _ is tm l _ =>
        let y : Word := ((srcOf o.kb false o.b.toNat).read is.snap l).setWidth 32
        (taken is tm o.g.toNat (srcOf false wide o.a.toNat) l (l ^^^ y.toNat), [])) ∧
  ∀ o : LR, let wide := o.t1 == 7
    Computes (.bcastL o) (guardedBy o.g.toNat) true (dstOf o.kd wide o.d.toNat) [srcOf false wide o.a.toNat, srcOf o.kb false o.b.toNat]
      fun _ is tm _ _ =>
        let low := lowLane (is.guarded o.g.toNat)
        let y : Word := ((srcOf o.kb false o.b.toNat).read is.snap low).setWidth 32
        (taken is tm o.g.toNat (srcOf false wide o.a.toNat) low y.toNat, []))

/-- R265, R266: `vote` counts the predicate over the contributing lanes, `ballot` gathers it into a scalar pair, and `elect` writes 1
in the lowest-numbered contributing lane and 0 in the others, its guard in [19:18] and its one operand field in [17:15]. Every result is in flight; a write of p0 changes nothing. -/
def Obligations.VoteAndElect : Prop :=
  ∀ s is tm, Running s is tm →
    (∀ g m p d : BitVec _, m.toNat ≤ 2 →
      ∃ t, exec (.voteSf g m p d) s = .next t ∧
        RegStep s t is tm [] ((lanesOf (is.guarded g.toNat)).map fun l => [(.p l d.toNat, polled is g.toNat m.toNat p.toNat)]) []) ∧
    (∀ g m p d : BitVec _, m.toNat = 3 → d.toNat + 1 < tm.ns →
      ∃ t, exec (.voteSf g m p d) s = .next t ∧ RegStep s t is tm [] (ballot is g.toNat p.toNat d.toNat) []) ∧
    (∀ o : LR, o.t2.toNat ≤ 2 →
      ∃ t, exec (.voteL o) s = .next t ∧
        RegStep s t is tm []
          ((lanesOf (is.guarded o.g.toNat)).map fun l => [(.p l o.d.toNat, polled is o.g.toNat o.t2.toNat (o.c.toNat % 8))]) []) ∧
    (∀ o : LR, o.t2.toNat = 3 → o.d.toNat + 1 < tm.ns →
      ∃ t, exec (.voteL o) s = .next t ∧ RegStep s t is tm [] (ballot is o.g.toNat (o.c.toNat % 8) o.d.toNat) []) ∧
    (∀ w, w < 2 ^ 20 → decodeTableWord 32 (0x109 * 2 ^ 20 + w) =
      if w % 2 ^ 15 = 0 then some (.elect (BitVec.ofNat 5 (w / 2 ^ 15))) else none) ∧
    (∀ grp l x r, (tm.writeReg grp (.p l 0) x).readReg grp r = tm.readReg grp r) ∧
    ∀ (g : BitVec 2) (p : BitVec 3), ∃ t, exec (.elect (g ++ p)) s = .next t ∧
      RegStep s t is tm [] ((lanesOf (is.guarded g.toNat)).map fun l =>
        [(.p l p.toNat, if ∀ k, k < l → (is.guarded g.toNat).getLsbD k = false then 1 else 0)]) []

/-- R237, R267: the reductions and scans of integer addition in their short forms: the sum over the contributing lanes of a group of a
power-of-two width, and the inclusive prefix sums, modulo 2^32, in flight. R237, R267: the long forms of `lred` and `lscan`: the tree and
the levels of R237 over the lanes' values, an identity standing for a lane that does not contribute; each result counts the steps it came
from, and NAN where it is a NaN itself (R238). R268: `vfac` rounds x · y · (1/S) + ε once, 0 and infinity among the three factors being
INVALID in any order, and `vfac.rsq` takes the reciprocal square root of that; in flight. -/
def Obligations.ReductionsAndFactoredMoment : Prop :=
  (∀ s is tm, Running s is tm → (tm.w = 8 ∨ tm.w = 16 ∨ tm.w = 32 ∨ tm.w = 64) → ∀ g d a : BitVec _, d.toNat < tm.nv → a.toNat < tm.nv →
    let x := fun l => if (is.guarded g.toNat).getLsbD l then is.snap.vec l a.toNat else 0
    let sum := fun n => (List.range n).foldl (fun z l => z + x l) (0 : Word)
    let lanes := lanesOf (is.guarded g.toNat)
    (∃ t, exec (.lredSr g d a) s = .next t ∧ RegStep s t is tm [] (lanes.map fun l => [(.v l d.toNat, sum tm.w)]) []) ∧
    ∃ t, exec (.lscanSr g d a) s = .next t ∧ RegStep s t is tm [] (lanes.map fun l => [(.v l d.toNat, sum (l + 1))]) []) ∧
  ((∀ o : LR, let wide := (ITy.of o.t1).wide && decide (o.t1.toNat < 8)
    let op := ROp.of o.t2.toNat
    Computes (.lredL o) (guardedBy o.g.toNat) true (dstOf o.kd wide o.d.toNat) [srcOf false wide o.a.toNat]
      fun _ is tm _ _ =>
        let m := is.guarded o.g.toNat
        let r := (redTree (op.step o.t1.toNat) (Nat.log2 tm.w) (redInputs op o.t1.toNat is tm m (srcOf false wide o.a.toNat))).headD (0, [])
        (r.1, redEvents o.t1.toNat r)) ∧
  ∀ o : LR, let wide := (ITy.of o.t1).wide && decide (o.t1.toNat < 8)
    let op := ROp.of o.t2.toNat
    Computes (.lscanL o) (guardedBy o.g.toNat) true (dstOf false wide o.d.toNat) [srcOf false wide o.a.toNat]
      fun _ is tm l _ =>
        let xs := redInputs op o.t1.toNat is tm (is.guarded o.g.toNat) (srcOf false wide o.a.toNat)
        let ys := if o.x then (op.ident o.t1.toNat, []) :: xs.dropLast else xs
        let r := (scanFrom (op.step o.t1.toNat) (Nat.log2 tm.w) 1 ys).getD l (0, [])
        (r.1, redEvents o.t1.toNat r)) ∧
  (∀ o : LR, Computes (.vfacL o) (guardedBy o.g.toNat) true (.v o.d.toNat) (lrSrcs o false false ++ [.v o.c.toNat, .v (o.c.toNat + 1)])
    fun s is tm l xs =>
      let m := lrMode o s is tm l
      let v := fun n => fp32.val (opnd xs n)
      let p := (v 0).mul (v 1)
      let fs := [v 0, v 1, v 2]
      let r := rounded fp32 m o.sat (sumFV m (fs.any FV.isZero && fs.any FV.isInf) [(p.1.mul (v 2)).1, v 3])
      if o.x then ((opSfu .rsq 8 r.1).val, r.2 ++ (opSfu .rsq 8 r.1).ev) else r)

/-- R205, R378: a register beyond the reservation is a trap of class 0x04, and nothing is written; said of the integer, logic, shift and
floating short forms with two sources. -/
def Obligations.RegisterBeyondReservationTraps : Prop :=
  ∀ s is tm, Running s is tm → ∀ mk ∈ [Instr.iaddSr, .isubSr, .imulSr, .imulhiSr, .iminSr, .imaxSr, .andSr, .orSr, .xorSr, .shlSr, .shrSr,
      .sarSr, .rotlSr, .faddSr, .fsubSr, .fmulSr, .fminSr, .fmaxSr], ∀ g d a b : BitVec _,
    (tm.nv ≤ d.toNat ∨ tm.nv ≤ a.toNat ∨ tm.nv ≤ b.toNat) →
    exec (mk g d a b) s = .next (s.trap is { cls := 0x04, lmask := is.guarded g.toNat })

namespace Sys2Proof.Claims

/-! ### Segments of bound limbs (Chapter 14) -/

/-- Whether the guard of an issue reads the same in every lane of each segment (R274). -/
def segmentsAgree (is : Issue) (tm : Team) (g : Nat) : Prop :=
  ∀ x ∈ segsOf is tm (tm.group is.grp).limbs, ∀ l ∈ x.lanes, ∀ k ∈ x.lanes, (is.guarded g).getLsbD l = (is.guarded g).getLsbD k

/-- A limb instruction: with its registers inside the reservation and its guard agreeing within each segment, each segment's writes are
made, `f x on` for a segment `x` whose guard reads `on`; nothing else has changed (R274). -/
def Limbs (i : Instr) (g : Nat) (regs : List Src) (ok : Nat → Prop) (f : Issue → Seg → Bool → List (RegRef × Word)) : Prop :=
  ∀ s is tm, Running s is tm → regs.all (Src.inRange tm.nv tm.ns) = true → ok (tm.group is.grp).limbs → segmentsAgree is tm g →
    ∃ t, exec i s = .next t ∧
      RegStep s t is tm ((segsOf is tm (tm.group is.grp).limbs).flatMap fun x => f is x ((is.guarded g).getLsbD (x.lanes.headD 0))) [] []

/-- A carry operation of Table 14.1: the exact result from A, B and the carry in, the carry out from 2^(32n), A and that result, whether b
is read, and whether overflow is reported. -/
structure CarryRule where
  exact : Int → Int → Int → Int
  out : Int → Int → Int → Bool
  second : Bool := true
  ovf : Bool := true

/-- The writes of a carry operation to a segment (R276): the result modulo 2^(32n), the carry out, and the signed overflow. -/
def carryWrites (c : CarryRule) (d a b pci pco pov : Nat) : Issue → Seg → Bool → List (RegRef × Word) :=
  fun is x on =>
    if !on then []
    else
      let n : Int := 2 ^ (32 * x.n)
      let p := x.value is.snap a
      let q := if c.second then x.value is.snap b else 0
      let ci : Int := if is.snap.pred (x.lanes.headD 0) pci then 1 else 0
      let t := c.exact p q ci
      let sg (v : Nat) : Int := if 2 * (v : Int) < n then v else v - n
      let so := c.exact (sg p) (sg q) ci
      x.writes d (t % n).toNat ++ x.pred pco (c.out n p t) ++
        if c.ovf then x.pred pov (decide (2 * so < -n) || decide (n ≤ 2 * so)) else []

/-- The rules of Table 14.1. -/
def ruleAdd : CarryRule := { exact := fun a b _ => a + b, out := fun n _ t => decide (n ≤ t) }
def ruleAdc : CarryRule := { exact := fun a b c => a + b + c, out := fun n _ t => decide (n ≤ t) }
def ruleSub : CarryRule := { exact := fun a b _ => a - b, out := fun _ _ t => decide (t < 0) }
def ruleSbc : CarryRule := { exact := fun a b c => a - b - c, out := fun _ _ t => decide (t < 0) }
def ruleNeg : CarryRule := { exact := fun a _ _ => -a, out := fun _ a _ => decide (a ≠ 0), second := false }
def ruleCarry : CarryRule := { exact := fun a b _ => a + b * 2 ^ 32, out := fun n _ t => decide (n ≤ t), ovf := false }

/-- A left shift of a segment that takes its low bits from the fill, and a right shift that takes its high bits from it (R277). -/
def shiftedLeft (n A F k : Nat) : Nat := (A * 2 ^ k + F * 2 ^ k / 2 ^ (32 * n)) % 2 ^ (32 * n)
def shiftedRight (n A F k : Nat) : Nat := (F * 2 ^ (32 * n) + A) / 2 ^ k % 2 ^ (32 * n)

/-- The arithmetic right shift of a segment (R277). -/
def shiftedSigned (n A k : Nat) : Nat :=
  let N : Int := 2 ^ (32 * n)
  (((if 2 * (A : Int) < N then (A : Int) else A - N) / 2 ^ k) % N).toNat

/-- The writes of a shift to a segment. -/
def shiftWrites (left sign : Bool) (d a : Nat) (k : Issue → Seg → Nat) (fill : Option Nat) :
    Issue → Seg → Bool → List (RegRef × Word) :=
  fun is x on =>
    if !on then []
    else
      let A := x.value is.snap a
      let F := fill.elim 0 fun f => x.value is.snap f
      x.writes d (if left then shiftedLeft x.n A F (k is x) else if sign then shiftedSigned x.n A (k is x)
        else shiftedRight x.n A F (k is x))

/-- A condition of Table 3.4 on integers. -/
def holds (code : Nat) (x y : Int) : Bool :=
  match code with
  | 0 => decide (x = y) | 1 => decide (x ≠ y) | 2 => decide (x < y) | 3 => decide (x ≤ y) | 4 => decide (x > y)
  | 5 => decide (x ≥ y) | _ => false

/-- The writes of a compare of segments (R278). -/
def limbCompare (code p1 p2 a b cond : Nat) (signed : Bool) : Issue → Seg → Bool → List (RegRef × Word) :=
  fun is x on =>
    let n : Int := 2 ^ (32 * x.n)
    let v (r : Nat) : Int :=
      let u : Int := x.value is.snap r
      if signed && decide (n ≤ 2 * u) then u - n else u
    x.lanes.flatMap fun l => predWrites l p1 p2 (combine code on (holds cond (v a) (v b)) (is.snap.pred l p1) (is.snap.pred l p2))

/-! ### Words that act on a group's counters, on memory or on a unit -/

/-- A word at issue with some guarded lane active (R216). -/
structure Guarded (s : State) (is : Issue) (tm : Team) (g : Nat) : Prop extends Running s is tm where
  some : is.guarded g ≠ 0

/-- A word that puts a result in flight for a scalar pair or a scalar register and goes on. -/
def LateScalar (i : Instr) (s : State) (is : Issue) (tm : Team) (d : Dst) (v : DWord) : Prop :=
  ∃ t, exec i s = .next t ∧ RegStep s t is tm [] [d.writes 0 v] []

/-- The lane accesses of a memory instruction over a list of lanes. -/
def accesses (is : Issue) (e : EaSpec) (data : Nat → Nat) (lanes : List Nat) : List LaneAcc :=
  lanes.map fun l => { lane := l, va := e.addr is.snap l, data := data l }

/-- The lanes that a load accesses for: one where the destination is scalar or the address is one for the group (R105), else the guarded
lanes that are still to be performed (R108). -/
def loadLanes (is : Issue) (tm : Team) (g : Nat) (d : Dst) (e : EaSpec) : List Nat :=
  if d.isScalar || e.uniform then (lanesOf (is.guarded g)).take 1 else lanesOf ((tm.group is.grp).remaining (is.guarded g))

/-- The number of a destination's first register. -/
def Dst.num : Dst → Nat
  | .v n | .s n | .vp n | .sp n => n

/-- Where a load puts the bytes it reads: the scalar, every guarded lane's register for one address, or the lane's own. -/
def loadPlaces (is : Issue) (g : Nat) (d : Dst) (e : EaSpec) (w : Nat) (signed : Bool) (l : LaneAcc) (off : Nat) : List LaneDst :=
  if d.isScalar then [⟨none, off, w, Dst.num d, signed⟩]
  else if e.uniform then (lanesOf (is.guarded g)).map fun x => ⟨some x, off, w, Dst.num d, signed⟩
  else [⟨some l.lane, off, w, Dst.num d, signed⟩]

/-- What of a request a statement names: its lane, address, bytes, operation and destinations. -/
def Req.sig (r : Req) : Nat × DWord × Target × Nat × Nat × Nat × MemOp × List LaneDst :=
  (r.lane, r.va, r.tgt, r.w, r.data, r.cmp, r.op, r.dsts)

/-- The request of one lane, as a statement names it. -/
def sigOf (l : LaneAcc) (t : Target) (w : Nat) (op : MemOp) (dsts : List LaneDst) :
    Nat × DWord × Target × Nat × Nat × Nat × MemOp × List LaneDst :=
  (l.lane, l.va, t, w, l.data, l.cmp, op, dsts)

/-- The state after a global access that translated to `s1` and went on: requests joined the accesses in flight (and what they do to
L1), every register reads as before, its lanes go on to the next word, and nothing else has changed, in this team or outside it. -/
def Entered (s s1 t : State) (is : Issue) (tm tm' : Team) : Prop :=
  t = { s1 with teams := t.teams, issue := t.issue, reqs := t.reqs, cores := t.cores, nextInstr := t.nextInstr } ∧
  (t.reqs.take s1.reqs.length).map Req.sig = s1.reqs.map Req.sig ∧
  (∀ id, id ≠ is.team → t.team? id = s.team? id) ∧ t.team? is.team = some tm' ∧
  tm' = { tm with threads := tm'.threads, groups := tm'.groups } ∧ (∀ j, j ≠ is.grp → tm'.group j = tm.group j) ∧
  (∀ r, tm'.readReg is.grp r = tm.readReg is.grp r) ∧ (∀ j, j / tm.w ≠ is.grp → tm'.thread j = tm.thread j) ∧
  ∀ l, l < tm.w → (tm'.thread (tm.tid is.grp l)).pc =
    if is.mask.getLsbD l && !(is.rep.any fun n => decide ((tm.group is.grp).repidx < n)) then is.pc + BitVec.ofNat 24 is.len
    else (tm.thread (tm.tid is.grp l)).pc

/-- A global access that returns values: where no earlier access holds the word (R106, R112, R114, R124, R126) and every lane translates
(R67), the state after translation gains its requests at the end of the accesses in flight, its destination registers are pending (R46),
the group's load counter counts the instruction once, and memory is as translation left it. -/
def EntersLoad (i : Instr) (s : State) (is : Issue) (tm : Team) (m : MemSpec) (sectors : Bool) (accs : List LaneAcc)
    (dst : LaneAcc → Nat → List LaneDst) : Prop :=
  let gr := tm.group is.grp
  ∀ good s1, s.memHold is tm gr m true accs = none → gr.partInstr = none →
    s.translateAll (tm.coreOf is.grp) (some gr.partition) tm.ctx m.op.kind accs (stop := !sectors) = .ok (good, [], s1) →
    ∃ t tm', exec i s = .next t ∧ Entered s s1 t is tm tm' ∧
      (t.reqs.drop s1.reqs.length).map Req.sig =
        (if sectors then (sectorLoads is tm m s.nextInstr dst good []).map Req.sig
          else good.map fun x => sigOf x.1 x.2 m.w (s1.laneOp gr tm.ctx m.op x.1.lane x.2) (dst x.1 0)) ∧
      (∀ l ∈ accs, ∀ d ∈ dst l 0, ∀ r ∈ d.regs, (tm'.group is.grp).pendReg r ≠ none) ∧
      (tm'.group is.grp).loads = gr.loads + (if good.isEmpty || !m.counts then 0 else 1)

/-- A global access without a result: where no earlier access holds the word, every lane translates and the side log is empty, that of a
tandem on both of its cores, its requests join the accesses in flight in lane order, and memory is as translation left
it: the store itself is performed at its home later (R114). -/
def EntersStore (i : Instr) (s : State) (is : Issue) (tm : Team) (m : MemSpec) (accs : List LaneAcc) : Prop :=
  let gr := tm.group is.grp
  let core := tm.coreOf is.grp
  ∀ good s1, s.memHold is tm gr m false accs = none →
    s.translateAll core (some gr.partition) tm.ctx m.op.kind accs = .ok (good, [], s1) → (s.core core).slog = [] →
    (tm.tandem = true → (s.core tm.core).slog = [] ∧ (s.core (tm.core + 1)).slog = []) →
    ∃ t tm', exec i s = .next t ∧ Entered s s1 t is tm tm' ∧ (tm'.group is.grp).loads = gr.loads ∧
      (t.reqs.drop s1.reqs.length).map Req.sig = good.map fun x => sigOf x.1 x.2 m.w (s1.laneOp gr tm.ctx m.op x.1.lane x.2) []

end Sys2Proof.Claims

/-! ### Bound limbs -/

/-- R276, Table 14.1: the carry-chain instructions, SR with the carry in and out in p3 and no overflow, LR with the predicates that c and
RM name. -/
def Obligations.CarryChains : Prop :=
  (∀ p ∈ ([(.laddSr, ruleAdd), (.ladcSr, ruleAdc), (.lsubSr, ruleSub), (.lsbcSr, ruleSbc), (.lcarrySr, ruleCarry)] :
      List ((BitVec 2 → BitVec 6 → BitVec 6 → BitVec 6 → Instr) × CarryRule)), ∀ g d a b,
    Limbs (p.1 g d a b) g.toNat [.v d.toNat, .v a.toNat, .v b.toNat] (fun _ => True)
      (carryWrites p.2 d.toNat a.toNat b.toNat 3 3 0)) ∧
  (∀ g d a, Limbs (.lnegSr g d a) g.toNat [.v d.toNat, .v a.toNat] (fun _ => True) (carryWrites ruleNeg d.toNat a.toNat 0 3 3 0)) ∧
  (∀ p ∈ ([(.laddL, ruleAdd), (.ladcL, ruleAdc), (.lsubL, ruleSub), (.lsbcL, ruleSbc), (.lcarryL, ruleCarry)] :
      List ((LR → Instr) × CarryRule)), ∀ o : LR,
    Limbs (p.1 o) o.g.toNat [.v o.d.toNat, .v o.a.toNat, .v o.b.toNat] (fun _ => True)
      (carryWrites p.2 o.d.toNat o.a.toNat o.b.toNat (o.c.toNat / 16 % 8) (o.c.toNat % 8) o.rm.toNat)) ∧
  ∀ o : LR, Limbs (.lnegL o) o.g.toNat [.v o.d.toNat, .v o.a.toNat] (fun _ => True)
    (carryWrites ruleNeg o.d.toNat o.a.toNat o.b.toNat (o.c.toNat / 16 % 8) (o.c.toNat % 8) o.rm.toNat)

/-- R277, R278, R279: shifts, compares and the multiply-add over segments. -/
def Obligations.LimbShiftsComparesAndMultiplyAdd : Prop :=
  (∀ p ∈ ([(.lshlSr, true), (.lshrSr, false)] : List ((BitVec 2 → BitVec 6 → BitVec 6 → BitVec 6 → Instr) × Bool)), ∀ g d a b,
    Limbs (p.1 g d a b) g.toNat [.v d.toNat, .v a.toNat, .v b.toNat] (fun _ => True)
      (shiftWrites p.2 false d.toNat a.toNat (fun is x => (is.snap.vec x.first b.toNat).toNat) none)) ∧
  (∀ p ∈ ([(.lshlSi, true), (.lshrSi, false)] : List ((BitVec 2 → BitVec 6 → BitVec 6 → BitVec 6 → Instr) × Bool)), ∀ g d a k,
    Limbs (p.1 g d a k) g.toNat [.v d.toNat, .v a.toNat] (fun _ => True)
      (shiftWrites p.2 false d.toNat a.toNat (fun _ _ => k.toNat) none)) ∧
  (∀ p ∈ ([(.lshlL, true), (.lshrL, false)] : List ((LR → Instr) × Bool)), ∀ o : LR,
    Limbs (p.1 o) o.g.toNat
      ([.v o.d.toNat, .v o.a.toNat, srcOf o.kb false o.b.toNat] ++ if o.x then [.v o.c.toNat] else []) (fun _ => True)
      (shiftWrites p.2 (o.t1 == 2) o.d.toNat o.a.toNat
        (fun is x => if o.kb then (is.snap.sca o.b.toNat).toNat else (is.snap.vec x.first o.b.toNat).toNat)
        (if o.x then some o.c.toNat else none))) ∧
  (∀ g t q w a b, Limbs (.lcmpSc g t q w a b) g.toNat [.v a.toNat, .v b.toNat] (fun _ => True)
    (limbCompare t.toNat (2 * q.toNat + w.toNat) (2 * q.toNat + 1 - w.toNat) a.toNat b.toNat 2 false)) ∧
  (∀ o : LR, Limbs (.lcmpL o) o.g.toNat [.v o.a.toNat, .v o.b.toNat] (fun _ => True)
    (limbCompare o.rm.toNat (o.d.toNat / 16 % 8) (o.d.toNat % 8) o.a.toNat o.b.toNat o.t2.toNat (o.t1 == 2))) ∧
  ∀ o : LR, let j := o.t2.toNat % 8 * 8 + o.rm.toNat
    Limbs (.lmadL o) o.g.toNat [.v o.d.toNat, .v o.a.toNat, srcOf o.kb false o.b.toNat, .v o.c.toNat]
      (fun n => j < n ∧ (o.kb = true → j = 0))
      fun is x on =>
        if !on then []
        else
          let m := if o.kb then (is.snap.sca o.b.toNat).toNat else (is.snap.vec (x.first + j) o.b.toNat).toNat
          let t := x.value is.snap o.d.toNat + x.value is.snap o.a.toNat * m
          x.writes o.d.toNat (t % 2 ^ (32 * x.n)) ++ x.writes o.c.toNat (t / 2 ^ (32 * x.n))

/-- R272, R273: `lbind` makes segments of n limbs, where the width is a multiple of n, no result of the group is in flight and none of
its registers is pending, every live lane is active and none stands at a meeting packet; `lfree` unbinds. Each holds its group while a
register is pending. -/
def Obligations.LimbsBindAndFree : Prop :=
  ∀ s is tm, Running s is tm → let gr := tm.group is.grp
    (gr.pend = [] → gr.loads = 0 → gr.pendRegs = [] →
      (∀ n : BitVec 3, let k := 2 * 2 ^ n.toNat
        k ≤ tm.w → tm.w % k = 0 → is.mask = tm.live is.grp → tm.lanesWhere is.grp (fun _ x => !x.exited && x.atMeet) = 0 →
        ∃ t, exec (.lbind n) s = .next t ∧ GroupStep s t is tm (fun gr => { gr with lcount := BitVec.ofNat 32 k }) fun _ => none) ∧
      ∃ t, exec .lfree s = .next t ∧ GroupStep s t is tm (fun gr => { gr with lcount := 0 }) fun _ => none) ∧
    (gr.hasPending = true → exec .lfree s = .next (s.holdIssue is .noPending) ∧
      ∀ n : BitVec 3, let k := 2 * 2 ^ n.toNat
        k ≤ tm.w → tm.w % k = 0 → exec (.lbind n) s = .next (s.holdIssue is .noPending))

/-! ### Memory -/

/-- R103 to R108, R111: global loads. One request for each 32-byte sector enters; the registers are written when it arrives. -/
def Obligations.GlobalLoadsEnter : Prop :=
  ∀ s is tm, Running s is tm →
    let ld := fun (i : Instr) (g : Nat) (d : Dst) (e : EaSpec) (w scope : Nat) (signed : Bool) =>
      d.inRange tm.nv tm.ns = true → e.inRange tm = true →
      let accs := accesses is e (fun _ => 0) (loadLanes is tm g d e)
      (∀ l ∈ accs, l.va.toNat % w = 0) →
      EntersLoad i s is tm
        { w := w, op := .read, scope := scope, acq := scope != 0, counts := true, guard := is.guarded g, one := d.isScalar || e.uniform }
        true accs (loadPlaces is g d e w signed)
    (∀ g d a i, ld (.ldSi g d a i) g.toNat (.v d.toNat) (eaSI a i 4 4) 4 0 false) ∧
    (∀ o : LI, ld (.ldL (.li o)) o.g.toNat (dstOf o.k false o.d.toNat) (eaLI o) 4 0 false) ∧
    ∀ o : LR, o.t2.getLsbD 3 = false → let w := 2 ^ (o.t1.toNat % 4)
      ld (.ldL (.lr o)) o.g.toNat (dstOf o.kd (w == 8) o.d.toNat) (eaLR o false w) w o.rm.toNat (decide (o.t1.toNat < 4))

/-- R103, R109, R114: global stores. One request for each lane enters in lane order; no byte of memory changes yet. -/
def Obligations.GlobalStoresEnter : Prop :=
  ∀ s is tm, Running s is tm →
    let st := fun (i : Instr) (g : Nat) (data : Src) (e : EaSpec) (w scope : Nat) =>
      data.inRange tm.nv tm.ns = true → e.inRange tm = true →
      let accs := accesses is e (fun l => (data.read is.snap l).toNat % 256 ^ w) (lanesOf ((tm.group is.grp).remaining (is.guarded g)))
      (∀ l ∈ accs, l.va.toNat % w = 0) →
      EntersStore i s is tm { w := w, op := .write, scope := scope, rel := scope != 0, guard := is.guarded g } accs
    (∀ g d a i, st (.stSi g d a i) g.toNat (.v d.toNat) (eaSI a i 4 4) 4 0) ∧
    (∀ o : LI, st (.stL (.li o)) o.g.toNat (srcOf o.k false o.d.toNat) (eaLI o) 4 0) ∧
    ∀ o : LR, o.t2.getLsbD 3 = false → let w := 2 ^ (o.t1.toNat % 4)
      st (.stL (.lr o)) o.g.toNat (srcOf o.kd (w == 8) o.d.toNat) (eaLR o false w) w o.rm.toNat

/-- R94, R100, R107, R111: a local load fixes its bytes at issue, unless it waits for full granules; its request carries them, little-endian.
Bits [22:0] of a local address are the offset into the reservation and bit 23 selects the tandem partner's memory, as R202 names it; the
first lane whose address has a bit of [63:24] set, whose bytes reach the reservation's size, or that selects a partner in a team without
one is a trap of class 0x03. -/
def Obligations.LocalLoadsReadAtIssue : Prop :=
  ∀ s is tm, Running s is tm → ∀ o : LR, o.t2.getLsbD 3 = true → (tm.group is.grp).partInstr = none →
    let w := 2 ^ (o.t1.toNat % 4)
    let d := dstOf o.kd (w == 8) o.d.toNat
    let e := eaLR o true w
    let accs := accesses is e (fun _ => 0) (loadLanes is tm o.g.toNat d e)
    let outside := fun (a : DWord) =>
      decide (2 ^ 24 ≤ a.toNat) || decide (tm.lmem < a.toNat % 2 ^ 23 + w) || (a.getLsbD 23 && !tm.tandem)
    let partner := fun (a : DWord) => if tm.coreOf is.grp = tm.core then a.getLsbD 23 else !a.getLsbD 23
    d.inRange tm.nv tm.ns = true → e.inRange tm = true → (∀ l ∈ accs, l.va.toNat % w = 0) →
    (∀ l, accs.find? (fun l => outside l.va) = some l →
      ∃ k, exec (.ldL (.lr o)) s =
        .next (s.trap is { cls := 0x03, kind := k, lane := l.lane, addr := l.va, lmask := is.guarded o.g.toNat })) ∧
    ((∀ l ∈ accs, outside l.va = false) → s.acquiring is.team is.grp = false → (tm.group is.grp).loads < 32 →
      ∃ t, exec (.ldL (.lr o)) s = .next t ∧ t.mem = s.mem ∧
        t.reqs.map (fun r => (Req.sig r, r.state)) = s.reqs.map (fun r => (Req.sig r, r.state)) ++ accs.map (fun l =>
          (sigOf l { ap := 1, pa := l.va.toNat % 2 ^ 23 } w .read (loadPlaces is o.g.toNat d e w (decide (o.t1.toNat < 4)) l 0),
            if o.t2.toNat % 8 = 0 then
              .done (Memory.read (if partner l.va then tm.lm1 else tm.lm0).bytes (l.va.toNat % 2 ^ 23) w)
            else .waitFull)) ∧
        ∃ tm', t.team? is.team = some tm' ∧
          (tm'.group is.grp).loads = (tm.group is.grp).loads + (if accs.isEmpty then 0 else 1))

/-- R93, R94, R109: a local store writes its lanes' bytes at issue, in increasing lane order, little-endian, and no other byte of local
memory, nor any of main memory. -/
def Obligations.LocalStoresWriteAtIssue : Prop :=
  ∀ s is tm, Running s is tm → ∀ o : LR, o.t2.getLsbD 3 = true → o.rm = 0 →
    let w := 2 ^ (o.t1.toNat % 4)
    let data := srcOf o.kd (w == 8) o.d.toNat
    let e := eaLR o true w
    let accs := accesses is e (fun l => (data.read is.snap l).toNat % 256 ^ w) (lanesOf ((tm.group is.grp).remaining (is.guarded o.g.toNat)))
    data.inRange tm.nv tm.ns = true → e.inRange tm = true → (∀ l ∈ accs, l.va.toNat % w = 0) → (∀ l ∈ accs, localOk tm w l.va = true) →
    s.acquiring is.team is.grp = false →
    ∃ t tm', exec (.stL (.lr o)) s = .next t ∧ t.team? is.team = some tm' ∧ t.mem = s.mem ∧ t.reqs = s.reqs ∧
      ∀ (second : Bool) (a : Nat), Memory.byte (if second then tm'.lm1 else tm'.lm0).bytes a =
        match accs.reverse.find? (fun l => onSecond tm is.grp l.va == second &&
            decide (l.va.toNat % 2 ^ 23 ≤ a) && decide (a < l.va.toNat % 2 ^ 23 + w)) with
        | some l => BitVec.ofNat 8 (l.data / 256 ^ (a - l.va.toNat % 2 ^ 23))
        | none => Memory.byte (if second then tm.lm1 else tm.lm0).bytes a

/-- R110: with its address registers inside the reservation and every lane's address a multiple of 4, a prefetch goes on to the next word
whatever its lanes' translations answer: no register, no access in flight and no other team changes, and of its group only the course of the
issue. R101, R378: a lane whose address is not a multiple of the width makes the whole word trap with class 0x02; the first such lane and
its address are reported, and nothing is performed. That the trap names the access's kind is the model's reading (log entry 34). -/
def Obligations.PrefetchAndMisalignedAccess : Prop :=
  (∀ s is tm, Running s is tm →
    let pf := fun (i : Instr) (g : Nat) (e : EaSpec) =>
      e.inRange tm = true → (∀ l ∈ accesses is e (fun _ => 0) (lanesOf (is.guarded g)), l.va.toNat % 4 = 0) →
      ∃ t tm', exec i s = .next t ∧ t.team? is.team = some tm' ∧ TeamStep tm tm' is id (fun _ => none) [] s.nextInstr [] (fun _ => True) ∧
        (∀ id, id ≠ is.team → t.team? id = s.team? id) ∧ t.reqs = s.reqs ∧ t.faultQ = s.faultQ
    (∀ g l a i, pf (.prefSi g l a i) g.toNat (eaSI a i 4 4)) ∧ (∀ o : LI, pf (.prefL (.li o)) o.g.toNat (eaLI o)) ∧
    ∀ o : LR, pf (.prefL (.lr o)) o.g.toNat (eaLR o false 4)) ∧
  (∀ s is tm, Running s is tm →
    (∀ g d a i : BitVec _, d.toNat < tm.nv → a.toNat + 1 < tm.nv → ∀ l,
      (accesses is (eaSI a i 4 4) (fun _ => 0) (lanesOf ((tm.group is.grp).remaining (is.guarded g.toNat)))).find?
        (fun l => l.va.toNat % 4 != 0) = some l →
      exec (.ldSi g d a i) s =
        .next (s.trap is { cls := 0x02, kind := 1, lane := l.lane, addr := l.va, lmask := is.guarded g.toNat })) ∧
    ∀ o : LR, ∀ w ∈ [(Instr.casL, 4), (.cas64L, 8), (.cas128L, 16)],
      (srcOf o.ka true o.a.toNat).inRange tm.nv tm.ns = true → o.b.toNat + w.2 / 4 ≤ (if o.kb then tm.ns else tm.nv) →
      o.d.toNat + w.2 / 4 ≤ tm.nv → ∀ l va,
      ((lanesOf ((tm.group is.grp).remaining (is.guarded o.g.toNat))).map fun l => (l, (srcOf o.ka true o.a.toNat).read is.snap l)).find?
        (fun x => x.2.toNat % w.2 != 0) = some (l, va) →
      exec (w.1 o) s = .next (s.trap is { cls := 0x02, kind := 3, lane := l, addr := va, lmask := is.guarded o.g.toNat }))

/-- R115 to R118: the atomic family: a lane's operand and compare value come from the registers at b and d, and one request for each lane
enters; with a result (`atom`, `cas`) the group counts it as a load, without (`red`, the BFP32 add) it does not. -/
def Obligations.AtomicsEnter : Prop :=
  ∀ s is tm, Running s is tm → ∀ o : LR,
    let accs := fun (w : Nat) (ret : Bool) => (lanesOf ((tm.group is.grp).remaining (is.guarded o.g.toNat))).map fun l =>
      ({ lane := l, va := (srcOf o.ka true o.a.toNat).read is.snap l,
         data := regRunVal is.snap l o.kb o.b.toNat (max 1 (w / 4)) % 256 ^ w,
         cmp := if ret then regRunVal is.snap l false o.d.toNat (max 1 (w / 4)) % 256 ^ w else 0 } : LaneAcc)
    let spec := fun (w : Nat) (op : MemOp) (ret : Bool) =>
      ({ w := w, op := op, scope := o.rm.toNat, acq := o.c.getLsbD 0, rel := o.c.getLsbD 1, counts := ret, closes := true,
         guard := is.guarded o.g.toNat } : MemSpec)
    let ok := fun (w : Nat) (ret : Bool) => (srcOf o.ka true o.a.toNat).inRange tm.nv tm.ns = true ∧
      o.b.toNat + max 1 (w / 4) ≤ (if o.kb then tm.ns else tm.nv) ∧ (ret = true → o.d.toNat + max 1 (w / 4) ≤ tm.nv) ∧
      ∀ l ∈ accs w ret, l.va.toNat % w = 0
    let place := fun (w : Nat) (l : LaneAcc) (off : Nat) => ([⟨some l.lane, off, w, o.d.toNat, false⟩] : List LaneDst)
    (∀ p : (LR → Instr) × Nat, p ∈ [(Instr.casL, 4), (.cas64L, 8), (.cas128L, 16)] → ok p.2 true →
      EntersLoad (p.1 o) s is tm (spec p.2 .cas true) false (accs p.2 true) (place p.2)) ∧
    (∀ w, w = atomWidth o.t1.toNat → ok w true →
      EntersLoad (.atomL o) s is tm (spec w (.atom o.t2.toNat o.t1.toNat o.x true) true) false (accs w true) (place w)) ∧
    (∀ w, w = atomWidth o.t1.toNat → o.x = false → ok w false →
      EntersStore (.redL o) s is tm (spec w (.atom o.t2.toNat o.t1.toNat false false) false) (accs w false)) ∧
    (o.x = true → ok 4 false → (∀ l ∈ accs 4 false, l.va.toNat % 128 / 4 ≠ 0) →
      EntersStore (.redL o) s is tm (spec 4 .bfp false) (accs 4 false))

/-- R131, R137, R138: the decay instructions carry their format and the odometer of their grid; a read counts as a load, an update enters as
a store. R133, R141: `odo.rd` reads the context's odometer; `odo.adv` adds n to it and answers 0, or leaves it and answers 1 where a sweep
range or a running grid would fall too far behind. -/
def Obligations.DecayAndOdometer : Prop :=
  (∀ s is tm, Running s is tm →
    let snap := fun (de64 : Bool) => ({ de64 := de64, step := ((s.gridOf tm).map (·.odo)).getD 0 } : DecaySnap)
    let rd := fun (i : Instr) (g : Nat) (d : Dst) (e : EaSpec) (de64 ws : Bool) (scope : Nat) (acq : Bool) =>
      d.inRange tm.nv tm.ns = true → e.inRange tm = true →
      let accs := accesses is e (fun _ => 0) (loadLanes is tm g d e)
      (∀ l ∈ accs, l.va.toNat % (if de64 then 8 else 4) = 0) →
      EntersLoad i s is tm
        { w := if de64 then 8 else 4, op := .decay .dld (snap de64), scope := scope, acq := acq, counts := true, guard := is.guarded g,
          one := d.isScalar || e.uniform } false accs (loadPlaces is g d e (if ws then 8 else 4) false)
    let up := fun (i : Instr) (g : Nat) (op : DecayOp) (data : Src) (e : EaSpec) (de64 : Bool) (scope : Nat) (rel closes : Bool) =>
      data.inRange tm.nv tm.ns = true → e.inRange tm = true →
      let accs := accesses is e (fun l => (data.read is.snap l).toNat) (lanesOf ((tm.group is.grp).remaining (is.guarded g)))
      (∀ l ∈ accs, l.va.toNat % (if de64 then 8 else 4) = 0) →
      EntersStore i s is tm
        { w := if de64 then 8 else 4, op := .decay op (snap de64), scope := scope, rel := rel, closes := closes, guard := is.guarded g }
        accs
    (∀ g d a i, rd (.dldSi g d a i) g.toNat (.v d.toNat) (eaSI a i 8 8) true false 0 false) ∧
    (∀ o : LR, rd (.dldL o) o.g.toNat (dstOf o.kd o.x o.d.toNat) (eaDecay o) (o.t2 == 1) o.x o.rm.toNat (o.c.getLsbD 0)) ∧
    (∀ g d a i, up (.dstSi g d a i) g.toNat .dst (.v d.toNat) (eaSI a i 8 8) true 0 false false) ∧
    (∀ o : LR, up (.dstL o) o.g.toNat .dst (srcOf o.kd false o.d.toNat) (eaDecay o) (o.t2 == 1) o.rm.toNat (o.c.getLsbD 1) false) ∧
    (∀ o : LR, up (.daddL o) o.g.toNat .dadd (srcOf o.kb false o.b.toNat) (eaDecay o) (o.t2 == 1) o.rm.toNat (o.c.getLsbD 1) true) ∧
    (∀ o : LR, up (.demaL o) o.g.toNat .dema (srcOf o.kb false o.b.toNat) (eaDecay o) (o.t2 == 1) o.rm.toNat (o.c.getLsbD 1) true) ∧
    ∀ o : LR, up (.dmrgL o) o.g.toNat .dmrg (srcOf o.kb (o.t2 == 1) o.b.toNat) (eaDecay o) (o.t2 == 1) o.rm.toNat (o.c.getLsbD 1) true) ∧
  ((∀ g d, Computes (.odoRd g d) (guardedBy g.toNat) true (.s d.toNat) []
    fun s _ tm _ _ => ((s.ctx tm.ctx).odometer.setWidth 64, [])) ∧
  ∀ s is tm g, Guarded s is tm g → ∀ (g' : BitVec 2) (d n : BitVec 6), g = g'.toNat → d.toNat < tm.ns →
    let new := (s.ctx tm.ctx).odometer + BitVec.ofNat 32 (n.toNat + 1)
    ∃ t tm', exec (.odoAdv g' d n) s = .next t ∧ t.team? is.team = some tm' ∧ t.mem = (if s.advanceRefused tm.ctx new then s.mem
        else ((s.updCtx tm.ctx fun c => { c with odometer := new }).jlStep tm.ctx).mem) ∧
      (t.ctx tm.ctx).odometer = (if s.advanceRefused tm.ctx new then (s.ctx tm.ctx).odometer else new) ∧
      (∀ r, tm'.readReg is.grp r = tm.readReg is.grp r) ∧
      (tm'.group is.grp).pend.map (·.writes) =
        (tm.group is.grp).pend.map (·.writes) ++ [[(.s d.toNat, if s.advanceRefused tm.ctx new then 1 else 0)]])

namespace Sys2Proof.Claims

/-! ### Words that move threads -/

/-- The state before and after a word that moves threads of its group and writes no register: an active lane is then at `pc l`; every
other thread, group, team and component is as before (R333). Where a `rep` has a repeat left, no lane moves (R53). -/
structure ThreadStep (s t : State) (is : Issue) (tm tm' : Team) (pc : Nat → BitVec 24) : Prop where
  rest : t = { s with teams := t.teams, issue := t.issue }
  teams : ∀ id, id ≠ is.team → t.team? id = s.team? id
  team : t.team? is.team = some tm'
  groups : ∀ j, j ≠ is.grp → tm'.group j = tm.group j
  group : (tm.group is.grp).SameButRegs (tm'.group is.grp) []
  pending : (tm'.group is.grp).pendRegs = (tm.group is.grp).pendRegs
  regs : ∀ r, tm'.readReg is.grp r = tm.readReg is.grp r
  threads : ∀ j, j / tm.w ≠ is.grp → tm'.thread j = tm.thread j
  pc : ∀ l, l < tm.w →
    (tm'.thread (tm.tid is.grp l)).pc =
      if is.mask.getLsbD l && !(is.rep.any fun n => decide ((tm.group is.grp).repidx < n)) then pc l
      else (tm.thread (tm.tid is.grp l)).pc

/-- Where a word that does not transfer goes on. -/
def after (is : Issue) : BitVec 24 := is.pc + BitVec.ofNat 24 is.len

/-- The packet at a displacement from the packet of the word (R334), and whether the segment has it. -/
def target (is : Issue) (disp : Int) : Int := ((is.pc.toNat / 12 : Nat) : Int) + disp
def reachable (is : Issue) (disp : Int) : Prop := 0 ≤ target is disp ∧ target is disp < 2 ^ 20

/-- The segment offset of a packet. -/
def offsetOf (p : Int) : BitVec 24 := BitVec.ofNat 24 (12 * p.toNat)

/-- A group in which a word does the same in every active lane, or which has no bound limbs (R271). -/
def together (is : Issue) (tm : Team) (g : Nat) : Prop :=
  (tm.group is.grp).lcount = 0 ∨ is.guarded g = 0 ∨ is.guarded g = is.mask

/-- The direct transfers and the meeting instruction in their two forms: the instruction, its guard and its displacement. -/
def forms (sb : BitVec 2 → BitVec 18 → Instr) (li : LI → Instr) (k : Instr → Nat → Int → Prop) : Prop :=
  (∀ g d, k (sb g d) g.toNat d.toInt) ∧ ∀ o : LI, k (li o) o.g.toNat o.imm.toInt

/-- TFINFO of a trap in the fields of Table 20.2. -/
def tfinfo (f : TrapInfo) (repidx : Nat) (inh : Bool) (pc : BitVec 24) : DWord :=
  BitVec.ofNat 64 (f.cls * 2 ^ 56 + f.detail % 256 * 2 ^ 48 + f.stage * 2 ^ 46 + f.kind * 2 ^ 42 + f.lane % 64 * 2 ^ 36
    + repidx % 64 * 2 ^ 30 + (if inh then 2 ^ 29 else 0) + pc.toNat)

/-- The fields of a barrier slot (Table 17.1). -/
def slotInit (v : Nat) : Nat := v / 2 ^ 44 % 2 ^ 12
def slotArrc (v : Nat) : Nat := v / 2 ^ 32 % 2 ^ 12
def slotPend (v : Nat) : Int :=
  if v / 2 ^ 64 % 2 ^ 36 < 2 ^ 35 then ((v / 2 ^ 64 % 2 ^ 36 : Nat) : Int) else ((v / 2 ^ 64 % 2 ^ 36 : Nat) : Int) - 2 ^ 36

/-- Local memory on the first core of a team, or on the partner of a tandem. -/
def localOf (tm : Team) (second : Bool) : List Host.Cell := (if second then tm.lm1 else tm.lm0).bytes

/-- Whether the reserved bits [127:100], [63:56] and [31:1] of a slot are 0 (Table 17.1, R7). -/
abbrev slotClean (v : Nat) : Prop := v / 2 ^ 100 % 2 ^ 28 = 0 ∧ v / 2 ^ 56 % 2 ^ 8 = 0 ∧ v / 2 % 2 ^ 31 = 0

/-- An instruction writes a value to a scalar register at once, in the state `s1` that its own work has come to, and goes on. -/
def GivesScalar (i : Instr) (s s1 : State) (is : Issue) (tm : Team) (d : Nat) (v : Word) : Prop :=
  s1.teams = s.teams ∧ ∃ t, exec i s = .next t ∧ RegStep s1 t is tm [(.s d, v)] [] []

/-- A step's end (R97): what the register blocks that it wrote back do to the cores' register files. -/
def closed (old : State) : Out → Out
  | .next t => .next (State.writeBacks old t)
  | o => o

/-- What a step from `old` answers where it has come to `s` without an instruction run. -/
noncomputable def runs (old s : State) : Out :=
  match s.plan with
  | .run i t => closed old (exec i t)
  | .done t => .next (State.writeBacks old t)

end Sys2Proof.Claims

/-! ### The step -/

/-- R42, R56, R53: with a word at issue, a step runs the instruction that the decoder reads in the context's table, its C and S bits taken,
and under an armed `rep` the stepped instruction; an illegal encoding is a trap of class 0x01 whose detail is the reason (R57, R378).
The trap's LMASK holds the lanes that the guard of the word selects, as far as its entry tells where the guard lies (R379).
After it, the register blocks written back take their places (R97). -/
def Obligations.StepRunsDecoded : Prop :=
  (∀ s, step s = runs s s) ∧
  ∀ old s is tm, s.issue = some is → s.team? is.team = some tm →
    let tbl := (s.ctx tm.ctx).decode.op (tm.ctx != 0)
    let ws := is.words.map (·.toNat)
    let slot := is.pc.toNat % 12 / 4
    (is.rep = none → ∀ d, decodeSlot tbl (tm.ctx == 0) ws slot = .ok d →
      runs old s = closed old (exec d.instr { s with issue := some { is with c := d.c, s := d.s, len := d.len } })) ∧
    (is.rep = none → ∀ r, decodeSlot tbl (tm.ctx == 0) ws slot = .error r →
      runs old s = .next (State.writeBacks old (s.trap { is with len := lenAt tbl ws slot }
        { cls := 0x01, detail := r, lmask := is.guarded (guardAt tbl ws slot) }))) ∧
    ∀ n, is.rep = some n →
      (∀ d, decodeRepeat tbl (tm.ctx == 0) ws slot (tm.group is.grp).repidx = .ok d →
        runs old s = closed old (exec d.instr { s with issue := some { is with c := d.c, s := d.s } })) ∧
      ∀ r, decodeRepeat tbl (tm.ctx == 0) ws slot (tm.group is.grp).repidx = .error r →
        runs old s = .next (State.writeBacks old (s.trap is
          { cls := 0x01, detail := r, lmask := is.guarded (guardAt tbl ws (slot + 1)) }))

/-- R41, R43, R46, R214, R352, R376: where no word is at issue and the schedule names a partition with a ready group, the group with the
largest wait count issues: a park that is over ends, its packet is fetched at its segment base, and the step is that of the state with
that word at issue. -/
def Obligations.IssueFetchesThenRuns : Prop :=
  ∀ s core part sub rest w hw team g tm m pc ws s2, s.issue = none → s.sched = .issue core part sub :: rest →
    s.fw.thermtrip = false → s.fw.powered = true →
    let s1 := { s with sched := rest }
    oldest (s1.readyGroups core part) = some (w, hw, team, g) →
    let s1 := (s1.countWaits core part team g).updGroup team g Group.unpark
    s1.team? team = some tm → (tm.subsets g)[sub % (tm.subsets g).length]? = some (m, pc) →
    (tm.group g).held = none → (tm.group g).numTraps = [] → (tm.group g).storeTraps = [] →
    s1.fetchPacket team g tm (((s1.gridOf tm).map (·.segbase)).getD 0) pc m = .words ws s2 →
    step s = runs s { s2.updGroup team g (fun gr => { gr with issues := gr.issues + 1, chain := [], chainFrom := s2.nextInstr }) with
      issue := some { team := team, grp := g, mask := m, pc := pc, wpc := pc, len := 4, words := ws, snap := tm.snap g } }

/-- The model's own promise (log entry 2): whatever words, events and schedule a state holds, a step answers a next state: no program,
module kernel, host or peer can make the machine stop. -/
def Obligations.NoStepStops : Prop := ∀ s, ∃ t, step s = .next t

/-- The model's own promise (log entry 1): every step keeps the byte stores in canonical form: one entry for each address that does not
read as 0, addresses rising. So memories that read alike are equal. -/
def Obligations.StepsKeepMemoryCanonical : Prop := ∀ s t, s.Canonical → step s = .next t → t.Canonical

/-- What the spec gives at reset, with the model's choices of log entry 4: nothing is at issue, no team, grid or command exists, the time
is 0, context 0's decode table holds the M3 map (R56), a byte that nothing has written reads 0 (log entry 1), every other context is
not created, and the memory is in canonical form. -/
def Obligations.ResetState : Prop :=
  State.reset.issue = none ∧ State.reset.teams = [] ∧ State.reset.grids = [] ∧ State.reset.copies = [] ∧ State.reset.mats = [] ∧
    State.reset.time = 0 ∧ State.reset.faultQ = [] ∧ (∀ a, Memory.byte State.reset.mem a = 0) ∧ State.reset.Canonical ∧
    (∀ c, c ≠ 0 → (State.reset.ctx c).created = false) ∧
    (∀ op, (State.reset.ctx 0).decode.op false op = m3Op op) ∧ ∀ p ∈ State.reset.ports, p.lmap = 0x688

/-! ### Traps -/

/-- R348, R377, R379, R380, R382, R384: a trap of a program-level class, where the launch record names a handler and INH is 0: the frame is
written (TFINFO, TFADDR, TFLMASK) and INH set, the lanes of the trapping issue go to the handler's packet and the group's others are
held, in no active set; registers, predicates, return stacks and %lcount are as before, %meet too unless R217 releases the thread where it now
stands, and every live thread's restart point is where it now stands. With INH = 1, whatever the class, without a handler, and for a class that is not program level, the frame describes
this trap and goes to the module kernel as a record that holds the group; threads that are held stay so. `trap` and `brk` take such a
trap. -/
def Obligations.TrapsEnterTheHandlerOrReport : Prop :=
  ∀ s is tm, Running s is tm →
    let gr := tm.group is.grp
    (∀ (f : TrapInfo) gd, 1 ≤ f.cls → f.cls ≤ 0x10 → s.gridOf tm = some gd → gd.thv = true →
      gr.inh = false → ∃ t tm', t = s.trap is f ∧ t = { s with teams := t.teams, issue := none } ∧ t.team? is.team = some tm' ∧
        (∀ id, id ≠ is.team → t.team? id = s.team? id) ∧ (∀ j, j ≠ is.grp → tm'.group j = tm.group j) ∧
        (tm'.group is.grp).frame = ⟨tfinfo f gr.repidx false is.pc, f.addr, f.lmask⟩ ∧
        (tm'.group is.grp).inh = true ∧ (tm'.group is.grp).repidx = 0 ∧ (tm'.group is.grp).skipLen = is.len ∧
        (tm'.group is.grp).lcount = gr.lcount ∧ (∀ r, tm'.readReg is.grp r = tm.readReg is.grp r) ∧
        (∀ a ∈ tm'.subsets is.grp, ∀ l, a.1.getLsbD l = true → is.mask.getLsbD l = true) ∧
        ∀ l, l < tm.w → tm.tid is.grp l < tm.threads.length →
          let x := tm.thread (tm.tid is.grp l)
          let y := tm'.thread (tm.tid is.grp l)
          (y.meet = x.meet ∨ y.meet = 0xFFFFFFFF#32 ∧ y.pc.toNat = 12 * x.meet.toNat) ∧ y.stack = x.stack ∧ y.depth = x.depth ∧ y.exited = x.exited ∧
            (is.mask.getLsbD l = true → y.pc = BitVec.ofNat 24 (12 * gd.thandler)) ∧
            (is.mask.getLsbD l = false → y.held = true ∧ y.pc = x.pc) ∧
            (x.exited = false → y.restart = y.pc ∧ y.restartMeet = y.meet)) ∧
    (∀ f : TrapInfo, gr.inh = true ∨ f.cls = 0 ∨ 0x10 < f.cls ∨ s.gridOf tm = none ∨ (∃ gd, s.gridOf tm = some gd ∧ gd.thv = false) →
      ∃ t tm' rec, t = s.trap is f ∧ t.faultQ = s.faultQ ++ [(s.nextId, rec)] ∧ t.mem = s.mem ∧ t.team? is.team = some tm' ∧
        rec.team = is.team ∧ rec.grp = is.grp ∧ rec.ctx = tm.ctx ∧ rec.addr = f.addr ∧ rec.mask = f.lmask ∧
        rec.info = tfinfo f gr.repidx gr.inh is.pc ∧
        rec.what = (if f.cls = 0x0E ∨ f.cls = 0x11 then .skip else .retry) ∧
        (tm'.group is.grp).frame = ⟨tfinfo f gr.repidx false is.pc, f.addr, f.lmask⟩ ∧
        (tm'.group is.grp).inh = gr.inh ∧ (tm'.group is.grp).faults = gr.faults ++ [s.nextId] ∧
        t.ready is.team tm' is.grp = false ∧ (∀ r, tm'.readReg is.grp r = tm.readReg is.grp r) ∧
        ∀ j, (tm'.thread j).pc = (tm.thread j).pc ∧ (tm'.thread j).held = (tm.thread j).held) ∧
    ∀ (g : BitVec 2) (n : BitVec 8), is.guarded g.toNat ≠ 0 → ∀ p ∈ [(Instr.trap, 0x0E), (.brk, 0x11)],
      exec (p.1 g n) s = .next (s.trap is
        { cls := p.2, detail := n.toNat, lane := lowLane (is.guarded g.toNat), lmask := is.guarded g.toNat })

/-! ### Control transfers -/

/-- R333, R334, R335: `bra` takes every guarded lane to the packet at its displacement, `brx` each to the segment offset in its register;
the other lanes go on. A target outside the segment, or no multiple of 12, is a trap of class 0x07 that names the first such lane; lanes
of a bound group that do not all do the same are a trap of class 0x06 (R220). -/
def Obligations.BranchesGoToTheirTargets : Prop :=
  ∀ s is tm, Running s is tm →
    forms .braSb .braLi (fun i g disp =>
      (reachable is disp → together is tm g →
        ∃ t, exec i s = .next t ∧
          GroupStep s t is tm id fun l => if (is.guarded g).getLsbD l then some (offsetOf (target is disp)) else none) ∧
      (¬ reachable is disp → (tm.group is.grp).lcount = 0 → is.guarded g ≠ 0 →
        exec i s = .next (s.trap is { cls := 0x07, lane := lowLane (is.guarded g), lmask := is.guarded g })) ∧
      (¬ together is tm g → exec i s = .next (s.trap is { cls := 0x06, lmask := is.guarded g }))) ∧
    let brx := fun (i : Instr) (g : Nat) (a : Src) =>
      a.inRange tm.nv tm.ns = true → (tm.group is.grp).lcount = 0 →
      let off := fun l => (a.read is.snap l).toNat % 2 ^ 32
      let ok := fun l => off l % 12 = 0 ∧ off l < 12 * 2 ^ 20
      ((∀ l ∈ lanesOf (is.guarded g), ok l) → ∃ t, exec i s = .next t ∧
        GroupStep s t is tm id fun l => if (is.guarded g).getLsbD l then some (BitVec.ofNat 24 (off l)) else none) ∧
      ∀ l, (lanesOf (is.guarded g)).find? (fun l => off l % 12 != 0 || decide (12 * 2 ^ 20 ≤ off l)) = some l →
        exec i s = .next (s.trap is { cls := 0x07, lane := l, lmask := is.guarded g })
    (∀ g a, brx (.brxSf g a) g.toNat (.v a.toNat)) ∧ ∀ o : LR, brx (.brxL o) o.g.toNat (srcOf o.ka false o.a.toNat)

/-- R203, R204, R336: `call` pushes the packet after its own and %meet, clears %meet, and goes to its target, where no lane has 16 + D
calls open; `ret` pops them, and its stack is refilled from the spill area. A call deeper than 16 + D and a return from an empty stack are
traps of class 0x08 that name the first such lane; a return packet that no segment has is a trap of class 0x07 (R333), which goes before
that of class 0x08 in any lane (R378). -/
def Obligations.CallsAndReturns : Prop :=
  ∀ s is tm, Running s is tm →
    let x := fun (l : Nat) => tm.thread (tm.tid is.grp l)
    forms .callSb .callLi (fun i g disp => reachable is disp →
      let on := fun l => (is.guarded g).getLsbD l
      (together is tm g → (∀ l, on l = true → (x l).depth ≠ 16 + tm.d) → ∃ t tm', exec i s = .next t ∧
        ThreadStep s t is tm tm' (fun l => if on l then offsetOf (target is disp) else after is) ∧
        ((∀ l, on l = true → (x l).stack.length < 16) → tm'.lm0 = tm.lm0) ∧ tm'.lm1 = tm.lm1 ∧
        ∀ l, on l = true → let y := tm'.thread (tm.tid is.grp l)
          y.stack = ⟨BitVec.ofNat 32 (is.pc.toNat / 12 + 1), (x l).meet⟩ :: (x l).stack.take 15 ∧ y.depth = (x l).depth + 1 ∧
            y.meet = 0xFFFFFFFF#32) ∧
      ((tm.group is.grp).lcount = 0 → ∀ l, (lanesOf (is.guarded g)).find? (fun l => (x l).depth == 16 + tm.d) = some l →
        exec i s = .next (s.trap is { cls := 0x08, lane := l, lmask := is.guarded g }))) ∧
    ∀ g : BitVec 2, let on := fun l => (is.guarded g.toNat).getLsbD l
      let good := fun l => (x l).stack.head?.any fun e => decide (e.packet.toNat < 2 ^ 20)
      let top := fun l => (x l).stack.head?.map RetEntry.packet
      (together is tm g.toNat → ((tm.group is.grp).lcount = 0 ∨ ∀ l k, on l = true → on k = true → top l = top k) →
        (∀ l, on l = true → good l = true) → ∃ t tm', exec (.ret g) s = .next t ∧
        ThreadStep s t is tm tm' (fun l =>
          if on l then BitVec.ofNat 24 (12 * ((top l).getD 0).toNat) else after is) ∧
        ∀ l, on l = true → let y := tm'.thread (tm.tid is.grp l)
          let v := Memory.read tm.lm0.bytes (tm.lmem - 8 * tm.d * tm.t + 8 * tm.d * tm.tid is.grp l + 8 * ((x l).depth - 17)) 8
          ((x l).depth ≤ 16 → y.stack = (x l).stack.tail) ∧
            (16 < (x l).depth → y.stack = (x l).stack.tail ++ [⟨BitVec.ofNat 32 v, BitVec.ofNat 32 (v / 2 ^ 32)⟩]) ∧
            y.depth = (x l).depth - 1 ∧ (some y.meet = (x l).stack.head?.map RetEntry.meet ∨ y.meet = 0xFFFFFFFF#32)) ∧
      ((tm.group is.grp).lcount = 0 → let lanes := lanesOf (is.guarded g.toNat)
        (∀ l, lanes.find? (fun l => !(x l).stack.isEmpty && !good l) = some l →
          exec (.ret g) s = .next (s.trap is { cls := 0x07, lane := l, lmask := is.guarded g.toNat })) ∧
        ∀ l, (∀ k ∈ lanes, (x k).stack ≠ [] → good k = true) → lanes.find? (fun l => (x l).stack.isEmpty) = some l →
          exec (.ret g) s = .next (s.trap is { cls := 0x08, detail := 1, lane := l, lmask := is.guarded g.toNat }))

/-- R217, R218, R337 to R340, R53, R387: `meet` sets or clears %meet; `exit` ends threads; at a `regroup` the guarded threads wait, with
the width asked for, and the others go on; `rgn` takes the region-entry snapshot; `yield` clears the wait count; `nop` goes on; `rep`
arms the repeats. -/
def Obligations.IssueOrderInstructions : Prop :=
  ∀ s is tm, Running s is tm →
    let x := fun (l : Nat) => tm.thread (tm.tid is.grp l)
    (forms .meetSb .meetLi fun i g disp => (disp = 0 ∨ reachable is disp) → together is tm g →
      let v : Word := if disp = 0 then 0xFFFFFFFF else BitVec.ofNat 32 (target is disp).toNat
      ∃ t tm', exec i s = .next t ∧ ThreadStep s t is tm tm' (fun _ => after is) ∧
        ∀ l, (is.guarded g).getLsbD l = true → let y := tm'.thread (tm.tid is.grp l)
          y.meet = v ∨ (y.meet = 0xFFFFFFFF#32 ∧ y.pc.toNat = 12 * v.toNat)) ∧
    (∀ g : BitVec 2, together is tm g.toNat →
      let on := fun l => (is.guarded g.toNat).getLsbD l
      ∃ t tm', exec (.exit g) s = .next t ∧ ThreadStep s t is tm tm' (fun l => if on l then is.pc else after is) ∧
        ∀ l, l < tm.w → (tm'.thread (tm.tid is.grp l)).exited = ((x l).exited || on l)) ∧
    (∀ g w : BitVec 2, is.guarded g.toNat ≠ 0 → (tm.group is.grp).inh = false → (tm.group is.grp).lcount = 0 →
      tm.wmin ≤ 8 * 2 ^ w.toNat → (∀ c, tm.waitingCode = some c → c = w) → tm.rolesKept (8 * 2 ^ w.toNat) = true →
      let on := fun l => (is.guarded g.toNat).getLsbD l
      ∃ t tm', exec (.regroup g w) s = .next t ∧ ThreadStep s t is tm tm' (fun l => if on l then (x l).pc else after is) ∧
        ∀ l, l < tm.w → (tm'.thread (tm.tid is.grp l)).waiting = if on l then some w else (x l).waiting) ∧
    (∀ g : BitVec 2, ∃ t tm', exec (.rgn g) s = .next t ∧ GroupStep s t is tm id (fun _ => none) ∧ t.team? is.team = some tm' ∧
      (is.guarded g.toNat ≠ 0 → is.closed = false → ∀ l, is.mask.getLsbD l = true → (x l).exited = false →
        (tm'.thread (tm.tid is.grp l)).restart = (x l).pc)) ∧
    (∀ g : BitVec 2, ∃ t, exec (.yield g) s = .next t ∧
      GroupStep s t is tm (fun gr => if is.guarded g.toNat = 0 then gr else { gr with wait := 0 }) fun _ => none) ∧
    (∀ g, ∃ t, exec (.nop g) s = .next t ∧ GroupStep s t is tm id fun _ => none) ∧
    ∀ n e k f j h m, exec (.rep n e k f j h m) s = .next { s with issue := some { is with rep := some n.toNat, wpc := is.pc + 4 } }

/-! ### Barriers, fences and tokens -/

/-- R341 to R345: `bar.arrive` and `bar.exp` take one slot step: PEND and ARRC change as said, and when both come to 0 the phase bit flips
and ARRC is INIT again; no other byte of local memory and no register changes. A step that R342 does not allow, or on a slot whose reserved
bits are set (R7), is a trap of class 0x0B. `bar.wait` goes on where the phase it waited for has ended or the phase bit differs from its
operand, and holds its group otherwise. -/
def Obligations.BarriersStepTheirSlot : Prop :=
  ∀ s is tm, Running s is tm →
    let lane := fun g => lowLane (is.guarded g)
    let slot := fun (g sl : Nat) (k : DWord → Bool → Nat → Nat → Prop) =>
      sl < tm.ns → is.guarded g ≠ 0 →
      let a := (is.snap.sca sl).setWidth 64
      a.toNat % 16 = 0 → localOk tm 16 a = true →
      k a (onSecond tm is.grp a) (a.toNat % 2 ^ 23) (Memory.read (localOf tm (onSecond tm is.grp a)) (a.toNat % 2 ^ 23) 16)
    let arrive := fun (i : Instr) (g sl da : Nat) (dp : Int) => slot g sl fun a second off v =>
      s.covered tm is.team is.grp 2 = false → s.storesAtScope tm is.team is.grp 2 = true → s.loadsWaiting is.team is.grp = false →
      let ok := slotInit v ≠ 0 ∧ slotClean v ∧ da ≤ slotArrc v ∧ -(2 ^ 35) ≤ slotPend v + dp ∧ slotPend v + dp < 2 ^ 35
      (ok → ∃ t tm', exec i s = .next t ∧ t = { s with teams := t.teams, issue := t.issue } ∧ t.team? is.team = some tm' ∧
        (∀ id, id ≠ is.team → t.team? id = s.team? id) ∧
        (let u := Memory.read (localOf tm' second) off 16
          let ends := slotArrc v = da ∧ slotPend v + dp = 0
          slotInit u = slotInit v ∧ slotPend u = slotPend v + dp ∧ slotArrc u = (if ends then slotInit v else slotArrc v - da) ∧
            u % 2 = if ends then 1 - v % 2 else v % 2) ∧
        (∀ b, b < off ∨ off + 16 ≤ b → Memory.byte (localOf tm' second) b = Memory.byte (localOf tm second) b) ∧
        localOf tm' (!second) = localOf tm (!second) ∧ ∀ j r, tm'.readReg j r = tm.readReg j r) ∧
      (¬ ok → exec i s = .next (s.trap is { cls := 0x0B, addr := a, lane := lane g, lmask := is.guarded g }))
    let wait := fun (i : Instr) (g sl : Nat) (ph : Bool) => slot g sl fun a second off v =>
      ((tm.group is.grp).hold = some (.answered 0) → ∃ t, exec i s = .next t ∧ GroupStep s t is tm id fun _ => none) ∧
      ((tm.group is.grp).hold ≠ some (.answered 0) →
      (slotInit v = 0 ∨ ¬ slotClean v → exec i s = .next (s.trap is { cls := 0x0B, addr := a, lane := lane g, lmask := is.guarded g })) ∧
      (slotInit v ≠ 0 → slotClean v → (v % 2 == 1) ≠ ph → ∃ t, exec i s = .next t ∧ GroupStep s t is tm id fun _ => none) ∧
      (slotInit v ≠ 0 → slotClean v → (v % 2 == 1) = ph → exec i s = .next (s.holdIssue is (.barrier second off ph))))
    (∀ g l n, arrive (.barArriveSf g l n) g.toNat l.toNat (n.toNat + 1) 0) ∧
    (∀ o : LR, o.b.toNat < tm.ns → let n := (is.snap.sca o.b.toNat).toNat
      1 ≤ n → n ≤ 4095 → arrive (.barArriveL o) o.g.toNat o.a.toNat n 0) ∧
    (∀ g l b v, b.toNat < tm.ns → arrive (.barExpSf g l b v) g.toNat l.toNat v.toNat (is.snap.sca b.toNat).toNat) ∧
    (∀ o : LR, o.b.toNat < tm.ns →
      arrive (.barExpL o) o.g.toNat o.a.toNat (if o.x then 1 else 0) (is.snap.sca o.b.toNat).toNat) ∧
    (∀ g l h, wait (.barWaitSf g l h) g.toNat l.toNat (h == 1)) ∧
    ∀ o : LR, o.b.toNat < tm.ns → wait (.barWaitL o) o.g.toNat o.a.toNat ((is.snap.sca o.b.toNat).getLsbD 0)

/-- R46, R346, R357: `fence` goes on once its group's results, the stores of its scope and the side-log entries are in, with no register
pending any longer, at scopes `.dev` and wider with the core's L1 emptied, and holds its group until then. R347: `tok.acq` and `tok.rel`
answer 4 where the address is not cached under token, `tok.acq` 0 where the token is held, and `tok.rel` 5 where it is not; the home's
answer is written when it comes. A token granted, or found held (the model's reading, log entry 62), empties the core's L1. -/
def Obligations.FencesAndTokens : Prop :=
  ∀ s is tm, Running s is tm →
    let core := tm.coreOf is.grp
    let part := some (tm.group is.grp).partition
    (∀ (g : BitVec 2) (e : BitVec 3), is.guarded g.toNat ≠ 0 →
      (s.fenceMet tm is.team is.grp e.toNat = true → let u := if e.toNat < 3 then s else s.flushFor is.team core
        (3 ≤ e.toNat → (u.core core).l1 = []) ∧
        ∃ t, exec (.fence g e) s = .next t ∧ GroupStep u t is tm (fun gr => { gr with pendRegs := [] }) fun _ => none) ∧
      (s.fenceMet tm is.team is.grp e.toNat = false → exec (.fence g e) s = .next (s.holdIssue is (.fence e.toNat)))) ∧
    let tok := fun (rel : Bool) (i : Instr) (g d a : Nat) =>
      is.guarded g ≠ 0 → d < tm.ns → a + 1 < tm.ns →
      let va := (Src.sp a).read is.snap 0
      ((∀ v, (tm.group is.grp).hold ≠ some (.answered v)) → (tm.group is.grp).hold ≠ some .token →
        s.acquiring is.team is.grp = false →
        (∀ x s1, s.translate core part tm.ctx .load va = .ok (x, s1) →
          (x.c = false → GivesScalar i s s1 is tm d 4) ∧ (x.c = true → rel = false → GivesScalar i s (s1.flushFor is.team core) is tm d 0)) ∧
        (∀ f e s1, s.translate core part tm.ctx .load va = .error (.fault f) → f.cause = 0x0A →
          s.lookup core part tm.ctx .load va = .ok (e, s1) → rel = true → GivesScalar i s s1 is tm d 5)) ∧
      ((tm.group is.grp).hold = some .token → exec i s = .next (s.holdIssue is .token)) ∧
      ∀ v, (tm.group is.grp).hold = some (.answered v) →
        GivesScalar i s (if v = 0 ∧ rel = false then s.flushFor is.team core else s) is tm d (BitVec.ofNat 32 v)
    (∀ g d a, tok false (.tokAcqSf g d a) g.toNat d.toNat a.toNat) ∧ (∀ o : LR, tok false (.tokAcqL o) o.g.toNat o.d.toNat o.a.toNat) ∧
    (∀ g d a, tok true (.tokRelSf g d a) g.toNat d.toNat a.toNat) ∧ ∀ o : LR, tok true (.tokRelL o) o.g.toNat o.d.toNat o.a.toNat

/-! ### System registers, time and launch -/

/-- R349, R381: `sys.rd` puts the value of a tenant register in flight. -/
def Obligations.SystemRegisterReads : Prop :=
  ∀ s is tm, Running s is tm →
    let gr := tm.group is.grp
    let c := s.ctx tm.ctx
    let rd := fun (i : Instr) (g d n : Nat) => is.guarded g ≠ 0 →
      let narrow := fun (v : DWord) => d < tm.ns → ∃ t, exec i s = .next t ∧ RegStep s t is tm [] [[(.s d, v.setWidth 32)]] []
      let pair := fun (v : DWord) => d % 2 = 0 → d + 1 < tm.ns →
        ∃ t, exec i s = .next t ∧ RegStep s t is tm [] [[(.s d, v.setWidth 32), (.s (d + 1), (v >>> 32).setWidth 32)]] []
      (n = 0x000 → narrow (BitVec.ofNat 64 tm.ctx)) ∧ (n = 0x001 → narrow (if c.decode.base = 2 then 1 else 0)) ∧
      (n = 0x002 → pair (((s.gridOf tm).map (·.segbase)).getD 0)) ∧ (n = 0x003 → pair (((s.gridOf tm).map (·.lrec)).getD 0)) ∧
      (n = 0x004 → narrow (BitVec.ofNat 64 c.sideLimit)) ∧ (n = 0x005 → narrow (c.flowDl.setWidth 64)) ∧
      (n = 0x040 → pair (if gr.inh then gr.frame.info ||| BitVec.ofNat 64 (2 ^ 29) else gr.frame.info)) ∧
      (n = 0x041 → pair gr.frame.addr) ∧ (n = 0x042 → pair gr.frame.mask) ∧
      (0x20 ≤ n → n ≤ 0x3F → narrow ((Sparse.get 0 c.mbox (n - 0x20)).setWidth 64))
    (∀ g d n, rd (.sysRdSf g d n) g.toNat d.toNat n.toNat) ∧
    ∀ o : LR, o.a.toNat < tm.ns → rd (.sysRdL o) o.g.toNat o.d.toNat (is.snap.sca o.a.toNat).toNat

namespace Sys2Proof.Claims

/-- A mailbox word of the word's context written (R349). -/
def MailboxWritten (s t : State) (is : Issue) (tm : Team) (k : Nat) (v : Word) : Prop :=
  ∃ u, u = { s with ctxs := u.ctxs } ∧ GroupStep u t is tm id (fun _ => none) ∧
    (∀ j, Sparse.get 0 (u.ctx tm.ctx).mbox j = if j = k then v else Sparse.get 0 (s.ctx tm.ctx).mbox j) ∧ ∀ c, c ≠ tm.ctx → u.ctx c = s.ctx c

/-- A doorbell to the host on its way behind the earlier stores of its group (R349). -/
def HostBellQueued (s t : State) (is : Issue) (tm : Team) (v : Word) : Prop :=
  ∃ u h, u = { s with hostdbs := s.hostdbs ++ [h], nextInstr := s.nextInstr + 1 } ∧ GroupStep u t is tm id (fun _ => none) ∧
    h.ctx = tm.ctx ∧ h.team = is.team ∧ h.grp = is.grp ∧ h.instr = s.nextInstr ∧ h.value = v

/-- The handler of a group ended as the value written asks: RETRY, SKIP or END (R381). -/
def HandlerEnded (t : State) (is : Issue) (tm : Team) (v : Word) : Prop :=
  t.issue = none ∧ t.team? is.team = some ((tm.endHandler is.grp (if v = 0 then .retry else if v = 1 then .skip else .end_)).updGroup is.grp
    fun gr => { gr with parked := is.s })

/-- A kernel register put in flight to a scalar pair (R349). -/
def PairGiven (s t : State) (is : Issue) (tm : Team) (d : Nat) (x : DWord) : Prop :=
  RegStep s t is tm [] [[(.s d, x.setWidth 32), (.s (d + 1), (x >>> 32).setWidth 32)]] []

end Sys2Proof.Claims

/-- R349, R381: `sys.wr` writes a mailbox word, puts a doorbell to the host on its way, or ends the handler; the kernel's `sys.rd.k` gives
the register that its number has, and `sys.wr.k` writes INVLEN and SAVEAREA, the latter with a BASE in main memory alone (Table 20.4); an
access to a number without a register is logged, reads 0 and writes nothing. -/
def Obligations.SystemRegisterWritesAndKernelSpace : Prop :=
  ∀ s is tm, Running s is tm →
    let gr := tm.group is.grp
    (∀ g d n, is.guarded g.toNat ≠ 0 → d.toNat < tm.ns →
      let v := is.snap.sca d.toNat
      (0x20 ≤ n.toNat → n.toNat ≤ 0x3F → ∃ t, exec (.sysWrSf g d n) s = .next t ∧ MailboxWritten s t is tm (n.toNat - 0x20) v) ∧
      (n.toNat = 0x10 → ∃ t, exec (.sysWrSf g d n) s = .next t ∧ HostBellQueued s t is tm v) ∧
      (n.toNat = 0x43 → gr.inh = true → v.toNat < 3 → ∃ t, exec (.sysWrSf g d n) s = .next t ∧ HandlerEnded t is tm v)) ∧
    ∀ o : LR, is.guarded o.g.toNat ≠ 0 → o.a.toNat < tm.ns →
      let n := (is.snap.sca o.a.toNat).toNat
      (o.d.toNat < tm.ns → let v := is.snap.sca o.d.toNat
        (0x20 ≤ n → n ≤ 0x3F → ∃ t, exec (.sysWrL o) s = .next t ∧ MailboxWritten s t is tm (n - 0x20) v) ∧
        (n = 0x10 → ∃ t, exec (.sysWrL o) s = .next t ∧ HostBellQueued s t is tm v) ∧
        (n = 0x43 → gr.inh = true → v.toNat < 3 → ∃ t, exec (.sysWrL o) s = .next t ∧ HandlerEnded t is tm v)) ∧
      (o.d.toNat + 1 < tm.ns →
        let v := (Src.sp o.d.toNat).read is.snap 0
        (∀ x, s.kernelReg n = some x → n < 0x10900 → ∃ t, exec (.sysRdK o) s = .next t ∧ PairGiven s t is tm o.d.toNat x) ∧
        (n = 0x200 → ∃ t, exec (.sysRdK o) s = .next t ∧ PairGiven s t is tm o.d.toNat (if s.inv = none then BitVec.ofNat 64 (2 ^ 63) else 0)) ∧
        (n = 0x201 → ∃ t, exec (.sysRdK o) s = .next t ∧ PairGiven s t is tm o.d.toNat s.invlen) ∧
        (∀ c, 0 < c → c < 64 → n = 0x440 + c → ∃ t, exec (.sysRdK o) s = .next t ∧ PairGiven s t is tm o.d.toNat (s.ctx c).savearea) ∧
        (n = 0x201 → s.inv = none → ∃ t, exec (.sysWrK o) s = .next t ∧ t.invlen = BitVec.ofNat 64 (v.toNat % 2 ^ 46) ∧ t.mem = s.mem ∧ t.ctxs = s.ctxs) ∧
        (∀ c, 0 < c → c < 64 → n = 0x440 + c → ∃ t, exec (.sysWrK o) s = .next t ∧ t.mem = s.mem ∧ (∀ d, d ≠ c → t.ctx d = s.ctx d) ∧ t.ctx c =
          if v.toNat / 2 ^ 34 * 2 ^ 21 < 0x17800000000 then { s.ctx c with savearea := BitVec.ofNat 64 (v.toNat / 2 ^ 18 * 2 ^ 18) } else s.ctx c) ∧
        (n < 0x200 → ∃ t u, exec (.sysRdK o) s = .next t ∧ exec (.sysWrK o) s = .next u ∧
          PairGiven (s.log (.noRegister n false)) t is tm o.d.toNat 0 ∧ u.errLog = s.errLog ++ [.noRegister n true] ∧ u.ctxs = s.ctxs))

/-- R350 to R352: `launch` submits its record to the queue that the record names once everything before it is performed; `tstamp` puts the
time in flight once every earlier result of its group is written; `cnt.rd` puts a counter in flight. -/
def Obligations.LaunchTimeAndCounters : Prop :=
  ∀ s is tm, Running s is tm →
    let launch := fun (i : Instr) (g a : Nat) => is.guarded g ≠ 0 → a + 1 < tm.ns →
      let va := (Src.sp a).read is.snap 0
      (va.toNat % 128 ≠ 0 →
        exec i s = .next (s.trap is { cls := 0x02, addr := va, lane := lowLane (is.guarded g), lmask := is.guarded g })) ∧
      (va.toNat % 128 = 0 → s.logHas (tm.coreOf is.grp) is.team (some is.grp) = false → s.resultsIn is.team is.grp = true →
        s.storesAtScope tm is.team is.grp 3 = true → ∀ v s1,
        s.engLoad { kind := 8, id := is.team, part := is.grp } hubCore tm.ctx (va + 24) 8 = .ok (v, s1) →
        let q := v / 2 ^ 42 % 16
        let u := s1.forget { kind := 8, id := is.team, part := is.grp }
        s1.queueRoom tm.ctx q = true → exec i s = .next ((u.submit tm.ctx q va none).retire is true) ∧
          (((u.ctx tm.ctx).queue q).en = true → (((u.submit tm.ctx q va none).ctx tm.ctx).queue q).recs =
            ((u.ctx tm.ctx).queue q).recs ++ [{ addr := va }]))
    (∀ g a, launch (.launchSf g a) g.toNat a.toNat) ∧ (∀ o : LR, launch (.launchL o) o.g.toNat o.a.toNat) ∧
    (∀ g d : BitVec _, is.guarded g.toNat ≠ 0 → d.toNat + 1 < tm.ns →
      (s.resultsIn is.team is.grp = true → ∃ t, exec (.tstamp g d) s = .next t ∧
        RegStep s t is tm [] [[(.s d.toNat, s.time.setWidth 32), (.s (d.toNat + 1), (s.time >>> 32).setWidth 32)]] []) ∧
      (s.resultsIn is.team is.grp = false → exec (.tstamp g d) s = .next (s.holdIssue is .results))) ∧
    let cnt := fun (i : Instr) (g d n : Nat) => is.guarded g ≠ 0 → d + 1 < tm.ns → ∀ v, s.counter tm is.grp n = some v →
      ∃ t, exec i s = .next t ∧ RegStep s t is tm [] [[(.s d, v.setWidth 32), (.s (d + 1), (v >>> 32).setWidth 32)]] []
    (∀ g d n, cnt (.cntRdSf g d n) g.toNat d.toNat n.toNat) ∧
    ∀ o : LR, o.a.toNat < tm.ns → cnt (.cntRdL o) o.g.toNat o.d.toNat (is.snap.sca o.a.toNat).toNat

namespace Sys2Proof.Claims

/-! ### Words that hand work to an engine -/

/-- What a word of group `is.grp` of the team `tm` does before its group goes on: accumulators of that team alone, which makes it `tm1`,
with the records of commands whose tiles they touch and the counter of free values. -/
structure AccStep (s u : State) (is : Issue) (tm tm1 : Team) : Prop where
  rest : u = { s with teams := u.teams, mats := u.mats, fresh := u.fresh }
  teams : ∀ id, id ≠ is.team → u.team? id = s.team? id
  team : u.team? is.team = some tm1
  acc : tm1 = { tm with acc0 := { tm.acc0 with elems := tm1.acc0.elems }, acc1 := { tm.acc1 with elems := tm1.acc1.elems } }

/-- A word that goes on in the state it found: registers, memory and its group's counters are as before. -/
def GoesOn (i : Instr) (s : State) (is : Issue) (tm : Team) : Prop :=
  ∃ t, exec i s = .next t ∧ GroupStep s t is tm id fun _ => none

/-- A pair of scalar registers written with a doubleword. -/
def pairOf (d : Nat) (v : DWord) : List (RegRef × Word) := [(.s d, v.setWidth 32), (.s (d + 1), (v >>> 32).setWidth 32)]

/-- The accumulator element of a team's core at a row and a column (R96). -/
def elementOf (tm : Team) (second : Bool) (row col : Nat) : Word := (if second then tm.acc1 else tm.acc0).get row col

end Sys2Proof.Claims

/-! ### Matrix instructions -/

/-- R289 to R297: an `mma` or an `mma.drain` whose block, tile and registers pass the checks of Table 15.4 joins its array's queue with the
block as it stands, and the group's counter counts it; a block that fails is a trap of class 0x0A with its reason. `mma.wait` goes on at
its count, and the commands that it covers leave the record; `ofence` goes on once the group's results are written, and with it no register
of the group is pending and no later command reads an older value. -/
def Obligations.MatrixCommandsEnter : Prop :=
  ∀ s is tm, Running s is tm →
    let gr := tm.group is.grp
    let mat := fun (i : Instr) (drain : Bool) (g q : Nat) (loc : Bool) =>
      is.guarded g ≠ 0 → tm.role is.grp = .matrix → (if loc then q < tm.ns else q + 15 < tm.ns) →
      (loc = true → (is.snap.sca q).toNat % 64 = 0 ∧ localOk tm 64 ((is.snap.sca q).setWidth 64) = true) →
      let d := parBlock is tm q loc
      let bad := if drain then Par.drainReason d tm else Par.mmaReason d
      let acc := tm.acc (tm.onSecondCore is.grp)
      let arr := acc.blocks.getD (Par.row d / 64) 0
      (∀ r, bad = some r →
        exec i s = .next (s.trap is { cls := 0x0A, detail := r, lane := lowLane (is.guarded g), lmask := is.guarded g })) ∧
      (bad = none → Par.tileOk d acc.blocks.length = true →
        (if drain then (Par.dsp d = 0 → Par.dreg d + Par.n d * Par.ow d / 32 - 1 < tm.nv) ∧ 0 < tm.nv else Par.mmaTop d < tm.nv) →
        (drain = true → s.logHas (tm.coreOf is.grp) is.team (some is.grp) = false) → gr.mmaCnt < 8 →
        (s.matQueue (tm.coreOf is.grp) arr).length < 8 →
        ∃ t c, exec i s = .next t ∧ c.dws = d ∧ c.drain = drain ∧ c.team = is.team ∧ c.grp = is.grp ∧ c.core = tm.coreOf is.grp ∧
          c.arr = arr ∧ c.reads = (if drain then [] else Par.reads d) ∧ c.dests = (if drain then Par.dests d else []) ∧
          c.atIssue = (tm.snap is.grp).lanes ∧ c.olds = gr.olds ∧ c.ended = false ∧ c.unmarked = c ∧
          GroupStep { s with mats := s.mats ++ [(s.nextId, c)], nextId := s.nextId + 1 } t is tm
            (fun gr => { gr with mmaCnt := gr.mmaCnt + 1 }) fun _ => none)
    (∀ g q l, mat (.mma g q l) false g.toNat q.toNat (l == 1)) ∧ (∀ g q l, mat (.mmaDrainSf g q l) true g.toNat q.toNat (l == 1)) ∧
    (∀ o : LR, mat (.mmaDrainL o) true o.g.toNat o.a.toNat o.x) ∧
    (∀ g n : BitVec _, is.guarded g.toNat ≠ 0 →
      (gr.mmaCnt ≤ n.toNat → ∃ t u tm1, exec (.mmaWait g n) s = .next t ∧ AccStep s u is tm tm1 ∧
        ((∀ c ∈ s.mats, c.2.team = is.team → c.2.lost = false) → tm1 = tm) ∧
        (let mine := (s.mats.filter fun c => c.2.team == is.team && c.2.grp == is.grp).map (·.1)
        let covered := mine.take (mine.length - n.toNat)
        u.mats.map (·.1) = (s.mats.map (·.1)).filter fun id => !covered.contains id) ∧ GroupStep u t is tm1 id fun _ => none) ∧
      (n.toNat < gr.mmaCnt → exec (.mmaWait g n) s = .next (s.holdIssue is (.mmaAtMost n.toNat)))) ∧
    ∀ g : BitVec 2, is.guarded g.toNat ≠ 0 →
      (s.resultsIn is.team is.grp = true → ∃ t tm', exec (.ofence g) s = .next t ∧ t.team? is.team = some tm' ∧
        (∀ r, (tm'.group is.grp).pendReg r = none) ∧ (tm'.group is.grp).olds = [] ∧
        GroupStep s t is tm (fun gr => { gr with olds := [], pendRegs := [] }) fun _ => none) ∧
      (s.resultsIn is.team is.grp = false → exec (.ofence g) s = .next (s.holdIssue is .results))

/-- R287, R296, R301 to R303: `acc.clr` sets the 64 × n elements of its tile to 0 and writes no other, `acc.st` writes each guarded lane's
registers to its row, `acc.ld` puts the elements in flight for them; an element in the tile of a command that no `mma.wait` has covered
is the one exception, its value is undefined (R296) and nothing is said of it. `acc.grow` adds blocks, on both cores of a tandem team or
on neither, and answers the first new row, or 0xFFFF_FFFF. -/
def Obligations.AccumulatorImmediates : Prop :=
  ∀ s is tm, Running s is tm → tm.role is.grp = .matrix →
    let second := tm.onSecondCore is.grp
    let blocks := (tm.acc second).blocks.length
    let idle := fun (row col : Nat) => s.inFlight is.team (tm.coreOf is.grp) row col = false
    let writes := fun (i : Instr) (inside : Nat → Nat → Prop) (val : Nat → Nat → Word) =>
      ∃ t u tm1, exec i s = .next t ∧ AccStep s u is tm tm1 ∧ GroupStep u t is tm1 id (fun _ => none) ∧
        u.mats.map (fun c => (c.1, { c.2 with smash := [] })) = s.mats.map (fun c => (c.1, { c.2 with smash := [] })) ∧
        (∀ r c, c < 256 → (inside r c → idle r c → elementOf tm1 second r c = val r c) ∧
          (¬ inside r c → elementOf tm1 second r c = elementOf tm second r c)) ∧
        ∀ r c, elementOf tm1 (!second) r c = elementOf tm (!second) r c
    let clr := fun (i : Instr) (g k : Nat) => is.guarded g ≠ 0 → k < tm.ns →
      let x := (is.snap.sca k).toNat
      let n := 64 * 2 ^ (x / 2 ^ 28 % 4)
      let row := x / 2 ^ 16 % 2 ^ 10
      let col := x % 2 ^ 8
      x / 2 ^ 28 < 3 → x / 2 ^ 26 % 4 = 0 → x / 2 ^ 8 % 2 ^ 8 = 0 → row % 64 = 0 → row < 64 * blocks → col % 64 = 0 → col + n ≤ 256 →
      writes i (fun r c => row ≤ r ∧ r < row + 64 ∧ col ≤ c ∧ c < col + n) fun _ _ => 0
    let rows := fun (o : LR) (k : Nat → Nat → Nat → Prop) =>
      (o.ka = true → o.a.toNat < tm.ns) → (o.kb = true → o.b.toNat < tm.ns) →
      let n := o.c.toNat + 1
      let rb := if o.ka then (is.snap.sca o.a.toNat).toNat else 64 * o.a.toNat
      let cb := if o.kb then (is.snap.sca o.b.toNat).toNat else o.b.toNat
      o.d.toNat + n ≤ tm.nv → rb % 64 = 0 → rb + 64 ≤ 64 * blocks → cb + n ≤ 256 → k n rb cb
    (∀ g k, clr (.accClrSf g k) g.toNat k.toNat) ∧ (∀ o : LR, clr (.accClrL o) o.g.toNat o.a.toNat) ∧
    (∀ o : LR, rows o fun n rb cb => ∃ t, ∃ v : Nat → Nat → Word, exec (.accLd o) s = .next t ∧
      (∀ l k, k < n → idle (rb + l) (cb + k) → v l k = elementOf tm second (rb + l) (cb + k)) ∧
      RegStep s t is tm []
        ((lanesOf (is.guarded o.g.toNat)).map fun l => (List.range n).map fun k => (.v l (o.d.toNat + k), v l k)) []) ∧
    (∀ o : LR, rows o fun n rb cb => writes (.accSt o)
      (fun r c => rb ≤ r ∧ r < rb + 64 ∧ (is.guarded o.g.toNat).getLsbD (r - rb) = true ∧ cb ≤ c ∧ c < cb + n)
      fun r c => is.snap.vec (r - rb) (o.d.toNat + (c - cb))) ∧
    ∀ g d k : BitVec _, is.guarded g.toNat ≠ 0 → d.toNat < tm.ns →
      let b := tm.acc0.blocks.length
      let n := k.toNat + 1
      let ok := b + n ≤ 16 ∧ (s.accUsed tm.core).length + n ≤ 16 ∧ (tm.tandem = true → (s.accUsed (tm.core + 1)).length + n ≤ 16)
      ∃ t u tm1, exec (.accGrow g d k) s = .next t ∧ u = { s with teams := u.teams, fresh := u.fresh } ∧
        (∀ id, id ≠ is.team → u.team? id = s.team? id) ∧ u.team? is.team = some tm1 ∧
        (ok → ∃ bs cs, bs.length = n ∧ cs.length = (if tm.tandem then n else 0) ∧ tm1 = { tm with
          acc0 := { tm.acc0 with blocks := tm.acc0.blocks ++ bs }, acc1 := { tm.acc1 with blocks := tm.acc1.blocks ++ cs } }) ∧
        (¬ ok → tm1 = tm) ∧
        WordStep u t is tm1 id (fun _ => none) [] [[(.s d.toNat, if ok then BitVec.ofNat 32 (64 * b) else 0xFFFFFFFF#32)]] [] true

/-! ### The copy engine -/

/-- R152, R154, R162, R163: the copy instructions put a command with the record's address, and in the LR form with X = 1 with the source and
the destination that replace the record's, at the end of their core's queue, and count it; `cpy.wait` goes on at its count; `cpy.poll`
puts status and count in flight and clears the status. -/
def Obligations.CopyCommandsEnter : Prop :=
  ∀ s is tm, Running s is tm →
    let gr := tm.group is.grp
    let cpy := fun (i : Instr) (kind g a : Nat) (ov : Option (Nat × Nat)) =>
      is.guarded g ≠ 0 → a + 1 < tm.ns → (∀ p, ov = some p → p.1 + 1 < tm.ns ∧ p.2 + 1 < tm.ns) →
      let rec_ := (Src.sp a).read is.snap 0
      (tm.role is.grp ≠ .copy → exec i s = .next (s.trap is { cls := 0x05, lmask := is.guarded g })) ∧
      (tm.role is.grp = .copy → rec_.toNat % 128 = 0 → s.logHas (tm.coreOf is.grp) is.team (some is.grp) = false →
        gr.copyCnt < 16 → s.copyQueue (tm.coreOf is.grp) < 64 →
        ∃ t c, exec i s = .next t ∧ c.kind = kind ∧ c.recAddr = rec_ ∧ c.ctx = tm.ctx ∧ c.core = tm.coreOf is.grp ∧
          c.team = is.team ∧ c.grp = is.grp ∧ c.started = false ∧ c.src = ov.map (fun p => (Src.sp p.1).read is.snap 0) ∧
          c.dst = ov.map (fun p => (Src.sp p.2).read is.snap 0) ∧
          GroupStep { s with copies := s.copies ++ [(s.nextId, c)], nextId := s.nextId + 1 } t is tm
            (fun gr => { gr with copyCnt := gr.copyCnt + 1 }) fun _ => none)
    (∀ p ∈ [(Instr.cpySf, 0), (.cpyQSf, 1), (.cpyMcSf, 2)], ∀ g a, cpy (p.1 g a) p.2 g.toNat a.toNat none) ∧
    (∀ p ∈ [(Instr.cpyL, 0), (.cpyQL, 1), (.cpyMcL, 2)], ∀ o : LR,
      cpy (p.1 o) p.2 o.g.toNat o.a.toNat (if o.x then some (o.b.toNat, o.d.toNat) else none)) ∧
    (∀ g n : BitVec _, is.guarded g.toNat ≠ 0 → (gr.copyCnt ≤ n.toNat → GoesOn (.cpyWait g n) s is tm) ∧
      (n.toNat < gr.copyCnt → exec (.cpyWait g n) s = .next (s.holdIssue is (.copyAtMost n.toNat)))) ∧
    ∀ g d : BitVec _, is.guarded g.toNat ≠ 0 → d.toNat < tm.ns → ∃ t, exec (.cpyPoll g d) s = .next t ∧
      WordStep s t is tm (fun gr => { gr with copyStatus := 0 }) (fun _ => none) []
        [[(.s d.toNat, BitVec.ofNat 32 (gr.copyStatus.toNat * 256 + gr.copyCnt))]] [] true

/-! ### Flows, collectives and triggers -/

/-- R198 to R200: `flow.send` and `flow.mcast` queue a transfer at their flow end; an end that is not valid, of the wrong kind, or too small
is a trap of class 0x0C. `flow.wait` goes on where the generation is reached, an acquire at a receive end, and where a send end has nothing left to send; else
its group is held. `flow.stat` puts a value in flight. -/
def Obligations.FlowInstructions : Prop :=
  ∀ s is tm, Running s is tm →
    let send := fun (i : Instr) (mc key : Bool) (g f a l : Nat) =>
      is.guarded g ≠ 0 → f < tm.ns → a + 1 < tm.ns → l < tm.ns →
      let fl := is.snap.sca f
      let src := (Src.sp a).read is.snap 0
      let len := (is.snap.sca l).toNat
      let e := s.flow (1024 * tm.ctx + fl.toNat)
      let ref := fl.toNat < 1024 ∧ e.v = true ∧ e.dir = false ∧ e.mc = mc ∧ len ≤ e.maxlen ∧ len % 2 ^ e.ew = 0
      (¬ ref → exec i s = .next (s.trap is { cls := 0x0C, lmask := is.guarded g })) ∧
      (ref → src.toNat % 2 ^ e.ew = 0 → s.logHas (tm.coreOf is.grp) is.team (some is.grp) = false →
        e.queue.length + (if e.run.isSome then 1 else 0) < 4 → ∃ t, exec i s = .next t ∧
          GroupStep (s.setFlow (1024 * tm.ctx + fl.toNat) { e with queue := e.queue ++ [{ src := src, len := len, key := key, by_ := some (s.issuer is tm) }] })
            t is tm id fun _ => none)
    let wait := fun (i : Instr) (g f e : Nat) => is.guarded g ≠ 0 → f < tm.ns → e < tm.ns →
      let fl := is.snap.sca f
      let x := s.flow (1024 * tm.ctx + fl.toNat)
      let reached := (x.gen - is.snap.sca e).toNat < 2 ^ 31
      (∀ v, (tm.group is.grp).hold = some (.answered v) → ∃ t, exec i s = .next t ∧
        GroupStep (if v = 1 ∧ (s.flowEnd tm.ctx fl).elim true (·.dir) = true then s.flushFor is.team (tm.coreOf is.grp) else s) t is tm id
          fun _ => none) ∧
      ((∀ v, (tm.group is.grp).hold ≠ some (.answered v)) →
        (¬ (fl.toNat < 1024 ∧ x.v = true) → exec i s = .next (s.trap is { cls := 0x0C, lmask := is.guarded g })) ∧
        (fl.toNat < 1024 → x.v = true →
          (reached → ∃ t, exec i s = .next t ∧
            GroupStep (if x.dir then s.flushFor is.team (tm.coreOf is.grp) else s) t is tm id fun _ => none) ∧
          (¬ reached → x.dir = false → x.run = none → x.queue = [] → GoesOn i s is tm) ∧
          (¬ reached → (x.dir = true ∨ x.run.isSome = true ∨ x.queue ≠ []) →
            exec i s = .next (s.holdIssue is (.flow fl.toNat (is.snap.sca e))))))
    let stat := fun (i : Instr) (g d f sel : Nat) => is.guarded g ≠ 0 → d + 1 < tm.ns → f < tm.ns →
      let fl := is.snap.sca f
      let x := s.flow (1024 * tm.ctx + fl.toNat)
      fl.toNat < 1024 → x.v = true → ∃ t, exec i s = .next t ∧
        RegStep s t is tm [] [pairOf d (if sel = 0 then x.gen.setWidth 64 else s.flowValue x sel)] []
    (∀ g f a l, send (.flowSendSf g f a l) false false g.toNat f.toNat a.toNat l.toNat) ∧
    (∀ g f a l, send (.flowMcastSf g f a l) true false g.toNat f.toNat a.toNat l.toNat) ∧
    (∀ o : LR, send (.flowSendL o) false o.x o.g.toNat o.d.toNat o.a.toNat o.b.toNat) ∧
    (∀ o : LR, send (.flowMcastL o) true o.x o.g.toNat o.d.toNat o.a.toNat o.b.toNat) ∧
    (∀ g f e, wait (.flowWaitSf g f e) g.toNat f.toNat e.toNat) ∧ (∀ o : LR, wait (.flowWaitL o) o.g.toNat o.d.toNat o.a.toNat) ∧
    (∀ g d f e, stat (.flowStatSf g d f e) g.toNat d.toNat f.toNat e.toNat) ∧
    ∀ o : LR, stat (.flowStatL o) o.g.toNat o.d.toNat o.a.toNat o.c.toNat

/-- R322, R323: `coll.start` puts the collective of its descriptor on the engine and counts it, or traps with class 0x0D where the context
has no such peloton; `coll.wait` goes on at its count; `coll.stat` puts a value in flight. -/
def Obligations.CollectiveInstructions : Prop :=
  ∀ s is tm, Running s is tm →
    let gr := tm.group is.grp
    let start := fun (i : Instr) (g a : Nat) => is.guarded g ≠ 0 → a + 1 < tm.ns →
      let va := (Src.sp a).read is.snap 0
      let me : Who := { kind := 8, id := is.team, part := is.grp }
      va.toNat % 128 = 0 → ∀ v s1, s.engLoad me hubCore tm.ctx (va + 24) 8 = .ok (v, s1) →
        let own := s1.pelotons.any fun p => p.2.v && p.2.ctx == tm.ctx && p.2.pnum == v / 2 ^ 36 % 16
        (own = false → exec i s = .next ((s1.forget me).trap is { cls := 0x0D, lmask := is.guarded g })) ∧
        (own = true → s1.logHas (tm.coreOf is.grp) is.team (some is.grp) = false → gr.collCnt < 8 →
          exec i s = .next ((({ (s1.updGroup is.team is.grp fun gr => { gr with collCnt := gr.collCnt + 1 }) with
            nextInstr := s1.nextInstr + 1 } : State).forget me).retire is true |>.newColl
              { ctx := tm.ctx, src := some (is.team, is.grp), by_ := some (s1.issuer is tm), desc := va, pnum := some (v / 2 ^ 36 % 16),
                since := s1.time }))
    let wait := fun (i : Instr) (g n : Nat) => is.guarded g ≠ 0 →
      (gr.collCnt ≤ n → ∃ t, exec i s = .next t ∧ GroupStep (s.flushFor is.team (tm.coreOf is.grp)) t is tm id fun _ => none) ∧
      (n < gr.collCnt → exec i s = .next (s.holdIssue is (.collAtMost n)))
    let stat := fun (i : Instr) (g d p sel : Nat) => is.guarded g ≠ 0 → d + 1 < tm.ns → p < tm.ns →
      (sel = 0 → ∃ t, exec i s = .next t ∧
        RegStep s t is tm [] [pairOf d (BitVec.ofNat 64 (gr.collCnt + gr.collStatus.toNat * 2 ^ 8))] []) ∧
      ∀ k x, s.peloton tm.ctx (is.snap.sca p).toNat = some (k, x) →
        (sel = 1 → ∃ t, exec i s = .next t ∧ RegStep s t is tm [] [pairOf d (x.epoch.setWidth 64)] []) ∧
        (sel = 2 → ∃ t, exec i s = .next t ∧ RegStep s t is tm [] [pairOf d (BitVec.ofNat 64 (membersOf x.members).length)] []) ∧
        (∀ j, j < 4 → sel = 3 + j → ∃ t, exec i s = .next t ∧
          RegStep s t is tm [] [pairOf d ((x.members >>> (64 * j)).setWidth 64)] []) ∧
        (sel = 7 → ∃ t, exec i s = .next t ∧ RegStep s t is tm [] [pairOf d x.bytes] [])
    (∀ g a, start (.collStartSf g a) g.toNat a.toNat) ∧ (∀ o : LR, start (.collStartL o) o.g.toNat o.a.toNat) ∧
    (∀ g n, wait (.collWaitSf g n) g.toNat n.toNat) ∧ (∀ o : LR, wait (.collWaitL o) o.g.toNat (o.c.toNat % 8)) ∧
    (∀ g d p e, stat (.collStatSf g d p e) g.toNat d.toNat p.toNat e.toNat) ∧
    ∀ o : LR, stat (.collStatL o) o.g.toNat o.d.toNat o.a.toNat o.c.toNat

/-- R325: `trig.at` and `trig.on` read their 32-byte record and arm a trigger; a record with a reserved field, an unknown kind or a
misaligned address leaves status 1 in the group, and a context's 65th trigger status 8. -/
def Obligations.TriggersAreArmed : Prop :=
  ∀ s is tm, Running s is tm →
    let trig := fun (i : Instr) (g r : Nat) (ok : Prop) (time : Option DWord) (watch : Option (DWord × Word)) =>
      is.guarded g ≠ 0 → r + 1 < tm.ns → ok →
      let va := (Src.sp r).read is.snap 0
      va.toNat % 32 = 0 → (∀ w, watch = some w → w.1.toNat % 128 = 0) →
      s.logHas (tm.coreOf is.grp) is.team (some is.grp) = false →
      let me : Who := { kind := 8, id := is.team, part := is.grp }
      ∀ d0 d1 d2 d3 s1 s3, s.engLoadDws me hubCore tm.ctx va 4 = .ok ([d0, d1, d2, d3], s1) →
        (match watch with
          | some w => ∃ v, s1.engLoad me hubCore tm.ctx w.1 8 = .ok (v, s3)
          | none => s3 = s1) →
        let s2 := s3.forget me
        let good := d0.toNat < 2 ^ 63 ∧ d0.toNat % 2 ^ 62 = 0 ∧ d2 = 0 ∧ d3 = 0 ∧ d1.toNat % 128 = 0
        let status := fun (c : Nat) => (s2.updGroup is.team is.grp fun gr => { gr with collStatus := BitVec.ofNat 8 c }).retire is true
        let mine := (s2.trigs.filter fun t => t.2.ctx == tm.ctx).length
        (¬ good → exec i s = .next (status 1)) ∧ (good → 64 ≤ mine → exec i s = .next (status 8)) ∧
        (good → mine < 64 → exec i s = .next ((({ s2 with
          trigs := s2.trigs ++ [(s2.nextId,
            { ctx := tm.ctx, collective := d0.toNat / 2 ^ 62 == 1, addr := d1, by_ := some (s2.issuer is tm), at_ := time,
              watch := watch })],
          nextId := s2.nextId + 1, nextInstr := s2.nextInstr + 1 } : State).retire is true).trigFire s2.nextId))
    let sp := fun (n : Nat) => (Src.sp n).read is.snap 0
    (∀ g r t, trig (.trigAtSf g r t) g.toNat r.toNat (t.toNat + 1 < tm.ns) (some (sp t.toNat)) none) ∧
    (∀ o : LR, trig (.trigAtL o) o.g.toNat o.d.toNat (o.a.toNat + 1 < tm.ns) (some (sp o.a.toNat)) none) ∧
    (∀ g r w v, trig (.trigOnSf g r w v) g.toNat r.toNat (w.toNat + 1 < tm.ns ∧ v.toNat < tm.ns) none
      (some (sp w.toNat, is.snap.sca v.toNat))) ∧
    ∀ o : LR, trig (.trigOnL o) o.g.toNat o.d.toNat (o.a.toNat + 1 < tm.ns ∧ o.b.toNat < tm.ns) none
      (some (sp o.a.toNat, is.snap.sca o.b.toNat))

namespace Sys2Proof.Claims

/-! ### Steps that are no words -/

/-- A request as a side-log entry names it: lane, address, value and operation (R121), and whether it has performed a part. -/
def laneOf (r : Req) : SideLane := ⟨r.lane, r.va, r.data, r.op, r.whole⟩

/-- An access that its home slice may perform now, in plain main memory: its turn has come, its context is running, and no token,
migration, KV block or poison stands in its way (R79, R82, R86, R88). -/
structure AtHome (s : State) (i : Nat) (r : Req) : Prop where
  req : s.reqs[i]? = some r
  turn : s.mayPerform i r = true
  runs : (s.ctx r.ctx).res = .running
  plain : r.tgt.ap = 0 ∧ r.tgt.c = false ∧ r.tgt.kv = none ∧ r.tgt.pa < Config.memBytes
  clear : s.tokenDir = [] ∧ s.migrations = [] ∧ s.poison = []
  acq : r.acq = false

/-- Requests, but for whether their bytes may still fill L1. -/
def noFills (l : List Req) : List Req := l.map fun a => { a with noFill := false }

/-- The request of an access performed with a value, memory as said, and nothing else of memory or of the teams changed; an access that
only reads leaves its sector in no L1 of its core, which could be older (R356). -/
def Performs (s t : State) (i : Nat) (r : Req) (v : Nat) (mem : List Host.Cell) : Prop :=
  noFills t.reqs = noFills (setAt s.reqs i { r with state := .done v }) ∧ t.mem = mem ∧ t.teams = s.teams ∧ t.ctxs = s.ctxs ∧
  (r.readOnly = true → look (t.core r.core).l1 (sectorKey r.tgt.ap r.tgt.pa) = none)

/-- Every core's translation buffers without the entries that a test names, and its walk cache without a context's (64: without any); the
command takes a number, and DONE reads 0 for it. -/
def TlbWithout (s t : State) (ctx : Nat) (gone : TlbEntry → Bool) : Prop :=
  t = { s with cores := t.cores, inv := some (s.nextInstr + 1, ctx), nextInstr := s.nextInstr + 1 } ∧
    t.cores = s.cores.map fun c => (c.1, { c.2 with
      tlb := c.2.tlb.filter fun e => !gone e, utlb := c.2.utlb.filter fun e => !gone e.2,
      walks := c.2.walks.filter fun w => !(ctx == 64 || w.ctx == ctx) })

/-- A late result of instruction `n` reaches register `r` of a group for certain: the register is not pending, or no other value has been
written into it since it became so, and no later slot of the instruction's chain determines it (R43, R46). -/
def Reaches (tm : Team) (g n : Nat) (r : RegRef) : Prop :=
  ∀ e, (tm.group g).pendReg r = some e → e.touched = false ∧ ¬ (e.cut.1 ≤ n ∧ n < e.cut.2)

/-- A record on the module kernel's queue that holds a group of a context that runs. -/
structure Held (s : State) (rid : Nat) (r : FaultRec) (tm : Team) : Prop where
  rec_ : look s.faultQ rid = some r
  runs : (s.ctx r.ctx).res = .running
  team : s.team? r.team = some tm
  holds : (tm.group r.grp).faults.contains rid = true
  group : r.grp < tm.groups.length

end Sys2Proof.Claims

/-! ### Handler endings, records and losses -/

/-- R381, R383, R384: the three endings of a handler, a pending numeric or store trap taken before the next issue, and the module kernel's
answers to a record: RESOLVE frees the group, and passes over a `trap` or `brk`; END and REPORT end the team, and REPORT tells the
tenant's host driver; ABANDON drops the trigger that its record holds. R393: an answer given while the record's context is not running
waits for its resume, and the first one stands. -/
def Obligations.HandlerEndingsAndKernelAnswers : Prop :=
  (∀ s team grp tm, s.team? team = some tm → (tm.group grp).inh = true → grp < tm.groups.length →
    let gr := tm.group grp
    let ends := fun (i : Instr) (pc : BitVec 24 → BitVec 24) (dies : Bool) => ∃ t tm', exec i s = .next t ∧
      t = { s with teams := t.teams } ∧ t.team? team = some tm' ∧ (tm'.group grp).inh = false ∧ (tm'.group grp).held = none ∧
      (∀ r, tm'.readReg grp r = tm.readReg grp r) ∧
      ∀ l, l < tm.w → tm.tid grp l < tm.threads.length →
        let x := tm.thread (tm.tid grp l)
        let y := tm'.thread (tm.tid grp l)
        y.held = false ∧ y.pc = (if x.held || x.exited then x.pc else pc x.pc) ∧ y.exited = (x.exited || (!x.held && dies))
    ends (.handlerRetry team grp) (fun _ => gr.frame.info.setWidth 24) false ∧
    ends (.handlerSkip team grp) (fun _ => gr.frame.info.setWidth 24 + BitVec.ofNat 24 gr.skipLen) false ∧
    ends (.handlerEnd team grp) (fun pc => pc) true) ∧
  (∀ s team grp tm m pc rest, s.team? team = some tm → s.ready team tm grp = true → tm.subsets grp = (m, pc) :: rest →
    (tm.group grp).held = none →
    (∀ c r, (tm.group grp).numTraps = c :: r → exec (.pendingTrapTaken team grp) s =
      .next ((s.updGroup team grp fun gr => { gr.unpark with numTraps := r }).trapAt team grp m pc (s.skipBytes team grp tm pc)
        { cls := 0x0F, detail := c, lane := lowLane m, lmask := m })) ∧
    ∀ a r, (tm.group grp).numTraps = [] → (tm.group grp).storeTraps = a :: r → exec (.pendingTrapTaken team grp) s =
      .next ((s.updGroup team grp fun gr => { gr.unpark with storeTraps := r }).trapAt team grp m pc (s.skipBytes team grp tm pc)
        { cls := 0x10, addr := a, lane := lowLane m, lmask := m })) ∧
  (∀ s rid r tm, Held s rid r tm →
    (r.what = .retry → ∃ t tm', exec (.faultResolve rid) s = .next t ∧ t.faultQ = del s.faultQ rid ∧ t.mem = s.mem ∧
      t.team? r.team = some tm' ∧ (tm'.group r.grp).faults = (tm.group r.grp).faults.erase rid ∧ tm'.threads = tm.threads) ∧
    (r.what = .skip → ∃ t tm', exec (.faultResolve rid) s = .next t ∧ t.faultQ = del s.faultQ rid ∧ t.team? r.team = some tm' ∧
      (tm'.group r.grp).faults = (tm.group r.grp).faults.erase rid ∧
      ∀ l, l < tm.w → l < 64 → let x := tm.thread (tm.tid r.grp l)
        let epc := (tm.group r.grp).frame.info.setWidth 24
        x.exited = false → x.held = false → x.atMeet = false → x.pc = epc →
          (tm'.thread (tm.tid r.grp l)).pc = epc + BitVec.ofNat 24 (tm.group r.grp).skipLen) ∧
    (r.what = .retry ∨ r.what = .skip → ∃ t tm', exec (.faultEnd rid) s = .next t ∧
      t.team? r.team = some tm' ∧ tm'.killed = true ∧ ∀ x ∈ tm'.threads, x.exited = true) ∧
    (r.what = .retry ∨ r.what = .skip → ∃ t tm', exec (.faultReport rid) s = .next t ∧
      t.team? r.team = some tm' ∧ tm'.killed = true ∧ (∀ x ∈ tm'.threads, x.exited = true) ∧
      (t.ctx r.ctx).frinfo = r.info ∧ (t.ctx r.ctx).fraddr = r.addr ∧ (t.ctx r.ctx).frmask = r.mask ∧ (t.ctx r.ctx).intstat.getLsbD 2 = true)) ∧
  (∀ s rid r id tr, look s.faultQ rid = some r → (s.ctx r.ctx).res = .running → r.what = .engine 7 id → look s.trigs id = some tr →
    tr.fault = some rid → ∃ t, exec (.engineAbandon rid) s = .next t ∧
      t.faultQ = del s.faultQ rid ∧ look t.trigs id = none ∧ t.mem = s.mem ∧ t.teams = s.teams) ∧
  (∀ s rid r, look s.faultQ rid = some r → (s.ctx r.ctx).res ≠ .running →
    ∀ p ∈ [(Instr.faultResolve rid, 0), (.faultEnd rid, 1), (.faultReport rid, 2), (.engineAbandon rid, 3)],
      exec p.1 s = .next (if ∃ a ∈ s.answers, a.1 = rid then s else { s with answers := s.answers ++ [(rid, p.2)] })) ∧
  ∀ s ctx info addr mask, ∃ t, exec (.lossReport ctx info addr mask) s = .next t ∧ (t.ctx ctx).frinfo = info ∧
    (t.ctx ctx).fraddr = addr ∧ (t.ctx ctx).frmask = mask ∧ (t.ctx ctx).intstat.getLsbD 2 = true ∧ t.mem = s.mem ∧ t.teams = s.teams

/-- R46, R125, R238 to R240, R349: an increment reaches its counter, saturating, and fires the class's action once where the level passes
the threshold; a window's start and CLR clear a counter; a late result is written where no other value has reached its registers; a
doorbell reaches the virtual function; the side log is replayed or discarded. -/
def Obligations.CountersLateResultsAndSideLog : Prop :=
  (∀ s e r, s.excQ = e :: r → e.cls < (s.ctx e.ctx).exc.length →
    let c := (s.ctx e.ctx).exc.getD e.cls {}
    let total := min (c.total.toNat + e.count) 0xFFFFFFFF
    let wcnt := min (c.wcnt.toNat + e.count) 0xFFFFFF
    let fires := c.thresh ≠ 0 ∧ c.thresh.toNat < (if c.window = 0 then total else wcnt) ∧ c.fired = false ∧ c.act ≠ 0
    (c.en = false → exec .excIncrement s = .next { s with excQ := r }) ∧
    (c.en = true → ∃ t, exec .excIncrement s = .next t ∧ t.excQ = r ∧ t.mem = s.mem ∧
      (∀ d, d = (t.ctx e.ctx).exc.getD e.cls {} →
        d.total = BitVec.ofNat 32 total ∧ d.wcnt = BitVec.ofNat 24 wcnt ∧ (d.fired = true ↔ c.fired = true ∨ fires)) ∧
      (¬ fires → t.teams = s.teams ∧ t.outbox = s.outbox) ∧
      (fires → c.act ≠ 1 → (t.ctx e.ctx).intstat.getLsbD 1 = true) ∧
      ∀ team g tm, fires → c.act = 1 → e.src = some (team, g) → s.team? team = some tm → tm.live g ≠ 0 → g < tm.groups.length →
        ∃ tm', t.team? team = some tm' ∧ (tm'.group g).numTraps = (tm.group g).numTraps ++ [e.cls])) ∧
  (∀ s ctx cls, cls < (s.ctx ctx).exc.length →
    let c := (s.ctx ctx).exc.getD cls {}
    (c.window ≠ 0 → s.time.toNat % (1000 * c.window.toNat) = 0 → ∃ t, exec (.excWindowStart ctx cls) s = .next t ∧
      (t.ctx ctx).exc.getD cls {} = { c with wcnt := 0, fired := false }) ∧
    (∃ t, exec (.excClear ctx cls) s = .next t ∧ (t.ctx ctx).exc.getD cls {} = { c with total := 0, wcnt := 0, fired := false }) ∧
    ∀ v : DWord, ctx < 64 → v.toNat / 2 ^ 2 % 4 ≠ 3 → v.toNat / 2 ^ 4 % 2 ^ 4 = 0 → v.getLsbD 1 = false →
      ∃ t, exec (.excControlWrite ctx cls v) s = .next t ∧ (t.ctx ctx).exc.getD cls {} = { c with
        thresh := BitVec.ofNat 32 (v.toNat / 2 ^ 32), window := BitVec.ofNat 24 (v.toNat / 2 ^ 8 % 2 ^ 24),
        act := BitVec.ofNat 2 (v.toNat / 2 ^ 2), en := v.getLsbD 0 }) ∧
  (∀ s team g i tm p, s.team? team = some tm → g < tm.groups.length → (tm.group g).pend[i]? = some p →
    (∀ w ∈ p.writes, ∀ l n, w.1 = .v l n ∨ w.1 = .p l n → l < tm.w ∧ tm.tid g l < tm.threads.length) →
    ∃ t tm', exec (.longResultWritten team g i) s = .next t ∧ t.team? team = some tm' ∧
      t = { s with teams := t.teams, fresh := t.fresh, mats := t.mats } ∧ (tm'.group g).pend = (tm.group g).pend.eraseIdx i ∧
      (tm.role g ≠ .matrix → (p.writes.map (·.1)).Nodup → ∀ l n, l < tm.w → Reaches tm g p.instr (.v l n) →
        tm'.readReg g (.v l n) = afterWrites p.writes (tm.readReg g (.v l n)) (.v l n))) ∧
  (∀ s h r, s.hostdbs = h :: r → s.storesBefore h.core h.instr = false → s.earlierDone h.core h.team h.grp h.instr = true →
    (∀ tm, s.team? h.team = some tm → s.covered tm h.team h.grp 5 = false) →
    (s.team? h.team = none → s.logHas h.core h.team none = false) → ∃ t, exec .hostdbWrite s = .next t ∧ t.hostdbs = r ∧
      (t.ctx h.ctx).hostdbVal = h.value ∧ (t.ctx h.ctx).intstat.getLsbD 0 = true ∧ t.mem = s.mem) ∧
  (∀ s core ctx, ∃ t, exec (.sideLogDiscard core ctx) s = .next t ∧
    (t.core core).slog = (s.core core).slog.filter (fun e => e.ctx != ctx) ∧ t.mem = s.mem ∧ t.reqs = s.reqs) ∧
  ∀ s core ctx, ((∀ e ∈ (s.core core).slog, e.ctx ≠ ctx) → exec (.sideLogReplay core ctx) s =
      .next (s.updCore core fun c => { c with replays := c.replays.filter (· != ctx) })) ∧
    ∀ e ls s1, (s.core core).slog = [e] → e.ctx = ctx → e.doubt = none → s.translateLanes core ctx e.lanes = .ok (ls, s1) →
      (s1.core core).slog = [e] → ∃ t, exec (.sideLogReplay core ctx) s = .next t ∧ (t.core core).slog = [] ∧ t.mem = s1.mem ∧
        let new := ls.map fun l => (l.1.lane, l.1.va, l.2, e.w, l.1.data, 0, l.1.op, ([] : List LaneDst))
        (t.reqs.map Req.sig).Perm (s1.reqs.map Req.sig ++ new) ∧
        ((∀ a ∈ s1.reqs, a.core = core → a.instr ≤ e.instr) → t.reqs.map Req.sig = s1.reqs.map Req.sig ++ new)

/-! ### The memory system -/

/-- R88, R111, R113, R114, R116, R118, R355: an access performed at its home slice: a read takes the 32 bytes of its sector, a write puts
its bytes, `cas` puts its bytes where the old ones equal the compare value, an integer `atom` or `red` add puts the sum; then its
result reaches its registers, or it is acknowledged and leaves the buffer. A refused store goes to the side log. -/
def Obligations.AccessesArePerformedAtHome : Prop :=
  (∀ s i r, AtHome s i r →
    let old := Memory.read s.mem r.tgt.pa r.w
    (r.op = .read → ∃ t, exec (.sliceOperation i 0) s = .next t ∧ Performs s t i r (Memory.read s.mem r.tgt.pa 32) s.mem) ∧
    (r.op = .write → ∃ t, exec (.sliceOperation i 0) s = .next t ∧
      Performs s t i r 0 (Memory.write s.mem r.tgt.pa r.w r.data)) ∧
    (r.op = .cas → ∃ t, exec (.sliceOperation i 0) s = .next t ∧
      Performs s t i r old (if old = r.cmp then Memory.write s.mem r.tgt.pa r.w r.data else s.mem)) ∧
    ∀ ty ∈ [2, 6], ∀ new ret, r.op = .atom 0 ty new ret → r.w = 4 → ∃ t, exec (.sliceOperation i 0) s = .next t ∧
      Performs s t i r (if new then (old + r.data) % 2 ^ 32 else old) (Memory.write s.mem r.tgt.pa 4 ((old + r.data) % 2 ^ 32))) ∧
  (∀ s i r tm v, s.reqs[i]? = some r → r.state = .done v → r.seg = 0 → r.isStore = false → s.behind r = false → r.overlay = [] →
    s.team? r.team = some tm → (∀ d ∈ r.dsts, ∀ l, d.lane = some l → l < tm.w ∧ tm.tid r.grp l < tm.threads.length) →
    r.grp < tm.groups.length → ∃ t tm', exec (.loadSectorArrival i) s = .next t ∧ t.team? r.team = some tm' ∧ t.mem = s.mem ∧
      t.reqs.map Req.sig = (s.reqs.filter fun a => a != r).map Req.sig ∧
      (tm.role r.grp ≠ .matrix → ((r.dsts.flatMap fun d => d.writes v).map (·.1)).Nodup →
        (∀ l n, l < tm.w → Reaches tm r.grp r.instr (.v l n) → tm'.readReg r.grp (.v l n) =
          afterWrites (r.dsts.flatMap fun d => d.writes v) (tm.readReg r.grp (.v l n)) (.v l n)) ∧
        ∀ n, Reaches tm r.grp r.instr (.s n) →
          tm'.readReg r.grp (.s n) = afterWrites (r.dsts.flatMap fun d => d.writes v) (tm.readReg r.grp (.s n)) (.s n))) ∧
  (∀ s i r, s.reqs[i]? = some r → r.isStore = true → r.performed = true → s.ackBehind i r = false →
    ∃ t, exec (.storeAck i) s = .next t ∧
      t.reqs.map Req.sig = (s.reqs.eraseIdx i).map Req.sig ∧ t.mem = s.mem ∧ t.teams = s.teams) ∧
  ∀ s r rs cause tm, s.reqs = rs ++ [r] → r ∉ rs → r.isStore = true → r.state = .refused cause → 0 < s.logRoom r.ctx (s.core r.core).logCtxs →
    (0x100 ≤ r.tgt.ap → ∀ a ∈ rs, a.isStore = true → a.core = r.core → a.tgt.ap = r.tgt.ap → a.tgt.pa / 128 ≠ r.tgt.pa / 128) →
    s.team? r.team = some tm → ∃ t e, exec (.storeRefused rs.length) s = .next t ∧ t.reqs = rs ∧ t.mem = s.mem ∧
      (t.core r.core).slog = (s.core r.core).slog ++ [e] ∧ e.ctx = r.ctx ∧ e.team = r.team ∧ e.grp = r.grp ∧ e.instr = r.instr ∧ e.w = r.w ∧
      e.lanes = [laneOf r] ∧ e.cause = cause ∧ t.faultQ.length = s.faultQ.length + 1

/-- R73, R74: an invalidation command drops the entries that it names from every translation buffer, and DONE reads 0 until no access
translated before it, an engine's or one that waits for a route among them, is still to be performed; a command written meanwhile is
ignored. -/
def Obligations.InvalidationDropsTranslations : Prop :=
  (∀ s ctx vpn, s.inv = none → ∃ t, exec (.invOnePage ctx vpn) s = .next t ∧
    TlbWithout s t ctx fun e => e.ctx == ctx && decide (vpn * 2 ^ 12 % 2 ^ 57 / 2 ^ e.bits = e.va / 2 ^ e.bits)) ∧
  (∀ s ctx vpn len, s.inv = none → 0 < len → vpn + len ≤ 2 ^ 45 → ∃ t, exec (.invVirtualRange ctx vpn len) s = .next t ∧
    TlbWithout s t ctx fun e => e.ctx == ctx && decide (e.va < (vpn + len) * 2 ^ 12) && decide (vpn * 2 ^ 12 < e.va + 2 ^ e.bits)) ∧
  (∀ s ctx, s.inv = none → ∃ t, exec (.invWholeContext ctx) s = .next t ∧ TlbWithout s t ctx fun e => e.ctx == ctx) ∧
  (∀ s ctx i, s.inv = none → ∃ t, exec (.invRangeEntry ctx i) s = .next t ∧
    TlbWithout s t ctx fun e => e.ctx == ctx && e.range.map (·.1) == some i) ∧
  (∀ s, s.inv = none → ∃ t, exec .invEveryContext s = .next t ∧ TlbWithout s t 64 fun _ => true) ∧
  (∀ s c vpn len i, s.inv.isSome = true →
    ∀ k ∈ [Instr.invOnePage c vpn, .invVirtualRange c vpn len, .invWholeContext c, .invRangeEntry c i, .invEveryContext],
      exec k s = .next s) ∧
  ∀ s n c, s.inv = some (n, c) →
    let old := fun (instr ctx : Nat) => instr < n ∧ (c = 64 ∨ ctx = c)
    let open_ := fun (r : Req) => old r.instr r.ctx ∧
      (r.state = .waiting ∨ r.state = .sent ∨ r.isStore = true ∧ ∃ k, r.state = .refused k)
    let late := fun (m : Msg) (born : Nat) => m.translated = true ∧ old born m.ctx
    ((∀ r ∈ s.reqs, ¬ open_ r) → (∀ o ∈ s.outst, ¬ late o.msg o.born) → (∀ w ∈ s.waitQ, ¬ late w.msg w.born) →
      exec .invComplete s = .next { s with inv := none }) ∧
    ((∃ r ∈ s.reqs, open_ r) ∨ (∃ o ∈ s.outst, late o.msg o.born) ∨ (∃ w ∈ s.waitQ, late w.msg w.born) →
      exec .invComplete s = .next s)

/-- R82, R83, R143, R144: a migration begins, sends its lines to their new home and closes; a sweep pass starts at its pace and visits each element once. -/
def Obligations.MigrationsAndSweeps : Prop :=
  (∀ s page size mod pa i, (size = 2 ^ 12 ∨ size = 2 ^ 21 ∨ size = 2 ^ 30) → page % size = 0 → pa % size = 0 →
    page + size ≤ Config.memBytes → mod ≠ s.modId.toNat → s.inPod mod = true →
    (∀ m ∈ s.migrations, m.2.page + m.2.size ≤ page ∨ page + size ≤ m.2.page) → s.freeMigration = some i → s.tokenDir = [] →
    exec (.migrationStart page size mod pa) s =
      .next { s with migrations := put s.migrations i { page := page, size := size, dstMod := mod, dstPa := pa } }) ∧
  (∀ s entry line m, look s.migrations entry = some m → 128 * line < m.size → m.copied.contains line = false → m.locked.contains line = false →
    s.poisoned (m.page + 128 * line) 128 = false → s.routes m.dstMod ≠ [] → s.tokenDir = [] →
    exec (.migrationLineCopy entry line) s =
      .next (({ s with migrations := put s.migrations entry { m with locked := line :: m.locked } } : State).send
        (.lineCopy m.dstMod (m.dstPa + 128 * line) entry line (Memory.read s.mem (m.page + 128 * line) 128)))) ∧
  (∀ s entry m, look s.migrations entry = some m → m.size ≤ m.copied.length * 128 → ∃ t, exec (.migrationClose entry) s = .next t ∧
    look t.migrations entry = none ∧ t.mem = s.mem ∧
    ∀ g ∈ t.grants, g.base + g.len ≤ m.page / 2 ^ 21 ∨ m.page / 2 ^ 21 + max 1 (m.size / 2 ^ 21) ≤ g.base) ∧
  (∀ s i, let e := s.sweep i
    let odo := (s.ctx (swCtx e)).odometer
    e.getLsbD 0 = true → e.getLsbD 1 = false → swPace e ≤ (odo - swPstep e).toNat → 0 < swCount e →
    ∃ t, exec (.sweepPassStart i) s = .next t ∧ look t.passes i = some (odo, []) ∧ (t.sweep i).getLsbD 1 = true ∧ t.mem = s.mem) ∧
  ∀ s i k p seen, let e := s.sweep i
    let pa := swBase e + k * swElem e
    let ctx := s.ctx (swCtx e)
    let r := sweepElem (({ de64 := swDe64 e, step := ctx.odometer } : DecaySnap).take (Sparse.get (0 : BitVec 128) ctx.classes (swCls e)))
      (Memory.read s.mem pa (swElem e))
    look s.passes i = some (p, seen) → e.getLsbD 0 = true → k < swCount e → seen.contains k = false → seen.length + 1 < swCount e →
    s.tokenDir = [] → s.migrations = [] → s.poison = [] →
    ∃ t, exec (.sweepVisit i k) s = .next t ∧ look t.passes i = some (p, k :: seen) ∧ t.teams = s.teams ∧
      t.mem = match r.1 with
        | none => s.mem
        | some n => Memory.write s.mem pa (swElem e) n

namespace Sys2Proof.Claims

/-! ### Tables and the fabric -/

/-- A context replaced, and nothing else. -/
def CtxIs (s t : State) (c : Nat) (x : Ctx) : Prop :=
  t = { s with ctxs := t.ctxs } ∧ t.ctx c = x ∧ ∀ d, d ≠ c → t.ctx d = s.ctx d

/-- A step that answers a state in which one context has become what `p` says, all else being as before. -/
def CtxStep (i : Instr) (s : State) (c : Nat) (p : Ctx → Prop) : Prop :=
  ∃ t x, exec i s = .next t ∧ CtxIs s t c x ∧ p x

/-- A request of a peer that is new and whose tag this module admits (R171, R172). -/
def Heard (s : State) (src tid tag : Nat) : Prop := s.answeredTo src tid = none ∧ s.tagOk tag = true

/-- A port without what the sending of a packet changes in it: flit numbers, the replay buffer and credits (R166, R168), and the lane
maps and how far an agreed swap has come (R176). -/
def unsent (x : Port) : Port := { x with seq := 0, buf := [], credits := [], lmap := 0, rmap := 0, shift := none }

/-- What leaves the module changes, from `b` to `t`: the ports it is sent on, the free choice of a route, and what waits at the source. -/
def SentFrom (b t : State) : Prop :=
  t = { b with answered := t.answered, inbox := t.inbox, outbox := t.outbox, ports := t.ports, fresh := t.fresh, waitQ := t.waitQ } ∧
    t.ports.map unsent = b.ports.map unsent

/-- A request of a peer answered, which makes `b` into `t`: it waits at its home no longer, the answer is kept in the record, and where a route to the peer has room it
leaves at once, as the last of what has left (R168, R171). -/
structure Answers (b t : State) (src tid status : Nat) (data : List Byte) : Prop where
  rest : SentFrom b t
  waits : t.inbox = b.inbox.filter fun i => homeAsk i ≠ some (src, tid)
  kept : (t.answeredTo src tid).map (fun a => (a.status, a.data)) = some (status, data)
  sent : b.openRoutes src (.response src tid status data) ≠ [] →
    t.waitQ = b.waitQ ∧ ∃ p, t.outbox = b.outbox ++ [p] ∧ p.msg = .response src tid status data

/-- A message has left, the last of what has. -/
def Sends (s t : State) (m : Msg) : Prop := ∃ p, t.outbox = s.outbox ++ [p] ∧ p.msg = m

/-- Bytes of memory from an address. -/
def bytesFrom (m : List Host.Cell) (a n : Nat) : List Byte := (List.range n).map fun k => Memory.byte m (a + k)

/-- A line of this module that no token, migration or poison holds. -/
def AtRest (s : State) (pa : Nat) : Prop := pa < Config.memBytes ∧ s.tokenDir = [] ∧ s.migrations = [] ∧ s.poison = []

/-- A port of the module, in a state. -/
def PortAt (s : State) (p : Nat) (x : Port) : Prop := s.ports[p]? = some x

/-- One port replaced, and what else has left the module: control flits and kernel events. -/
def PortStep (i : Instr) (s : State) (p : Nat) (x : Port) (ms : List Msg) (es : List KEvent) : Prop :=
  ∃ t, exec i s = .next t ∧ t = { s with ports := setAt s.ports p x, outbox := t.outbox, kevents := s.kevents ++ es, fresh := t.fresh } ∧
    t.outbox.map (·.msg) = s.outbox.map (·.msg) ++ ms

/-- Whether the replay buffer of a port has room for one flit more (R166). -/
def Roomy (x : Port) : Prop := (x.seq + 2 ^ 32 - x.acked) % 2 ^ 32 < 4096

/-- One port replaced by `x`, which then sends one control flit: it takes a flit number and a place in the replay buffer (R166). -/
def FlitStep (i : Instr) (s : State) (p : Nat) (x : Port) (m : Msg) : Prop :=
  x.up = true → Roomy x → ∃ t y, exec i s = .next t ∧ t = { s with ports := setAt s.ports p y, outbox := t.outbox } ∧
    y = { x.sends 1 with buf := y.buf } ∧ t.outbox.map (·.msg) = s.outbox.map (·.msg) ++ [m]

/-- A module in which no engine and no replay waits for a message. -/
def Still (s : State) : Prop := s.colls = [] ∧ s.doneJobs = [] ∧ ∀ c ∈ s.cores, c.2.replays = []

/-- A module with no request outstanding or waiting, no flow end, and nothing that waits for a message. -/
def Idle (s : State) : Prop := s.outst = [] ∧ s.waitQ = [] ∧ s.flows = [] ∧ Still s

/-- A port that carries traffic leaves service: its state is DOWN, the far end gets a DOWN flit, the module kernel is told, the link is
known to be out, and the other modules of the pod are told (R173, R174). `x`: the port as it was counted last. -/
def Leaves (i : Instr) (s : State) (p : Nat) (x : Port) : Prop :=
  ∃ t y, exec i s = .next t ∧ PortAt t p y ∧
    unsent y = unsent { x with st := 0, since := s.time, replay := (0, 0), acked := y.acked } ∧ y.shift = none ∧ y.buf = [] ∧ y.acked = y.seq ∧
    (∀ q, q ≠ p → (t.ports[q]?).map unsent = (s.ports[q]?).map unsent) ∧
    t.kevents = s.kevents ++ [.port p 0] ∧ t.mem = s.mem ∧ t.teams = s.teams ∧ (Roomy x → ∃ q ∈ t.outbox, q.msg = .flit p 1 0 0) ∧
    (∀ l ∈ s.badLinks, l ∈ t.badLinks) ∧ let self := s.modId.toNat
      let peer := portPeer self p
      (s.linkOk self peer = true → (self, peer) ∈ t.badLinks) ∧ ∀ m, m < 256 → m ≠ self → s.inPod m = true →
        (∃ q ∈ t.outbox, q.msg = .routeChange m self peer) ∨ ∃ w ∈ t.waitQ, w.dst = m ∧ w.msg = .routeChange m self peer

/-- A lane that is weak now (R175): its error ratio stood above the bound in two windows in a row, or its margin is below 15 percent. -/
def Weak (x : Port) (l : Nat) : Prop := 2 ≤ x.win.getD l 0 ∨ ∃ m, x.margins.getD l none = some m ∧ m < 15

/-- The first active lane of a port that is weak. -/
def FirstWeak (x : Port) (l : Nat) : Prop := ∃ pre post, x.active = pre ++ l :: post ∧ Weak x l ∧ ∀ k ∈ pre, ¬ Weak x k

end Sys2Proof.Claims

/-! ### Tables -/

/-- R55, R56, R68, R69, R74, R130, R143, R160, R164, R173, R320, R390, R370: what the module kernel's writes put into its tables, and that
a refused one leaves them as they were. A sweep in progress goes on while V stays 1 (the model's reading, log entry 46). The numbers under which registers are written are the model's own (log entry 20). -/
def Obligations.TableWrites : Prop :=
  (∀ s ctx opc v op, ctx < 64 → opc < 1024 → (ctx = 0 ∨ isPriv op = false) →
    CtxStep (.decodeEntryWrite ctx opc v op) s ctx fun x => x = { s.ctx ctx with decode := x.decode } ∧ ∀ tenant o,
      x.decode.op tenant o = if o = opc then (if v = true ∧ op < 1024 then m3Op op else none) else (s.ctx ctx).decode.op tenant o) ∧
  (∀ s ctx opc op, ctx < 64 → opc < 1024 → (ctx = 0 ∨ isPriv op = false) → op < 1024 → m3Op op = some op →
    ∃ t, exec (.decodeEntryWrite ctx opc false op) s = .next t ∧ t.decodeEntry ctx opc % 1024 = op) ∧
  (∀ s ctx opc v op, ctx ≠ 0 → isPriv op = true → exec (.decodeEntryWrite ctx opc v op) s = .next s) ∧
  (∀ s ctx map, ctx < 64 → map < 2 →
    ((∀ t ∈ s.teams, t.2.ctx = ctx → t.2.saved = true) → CtxStep (.decodeTableLoad ctx map) s ctx fun x =>
      x = { s.ctx ctx with decode := x.decode } ∧ ∀ tenant o, x.decode.op tenant o =
        (if map = 0 then m3Op o else m2Op o).filter fun op => !(tenant && isPriv op)) ∧
    ∀ t ∈ s.teams, t.2.ctx = ctx → t.2.saved = false → exec (.decodeTableLoad ctx map) s = .next s) ∧
  (∀ s ctx i v, 0 < ctx → ctx < 64 → i < 48 →
    let e := v &&& 0x0FFFFFFFFFFFFFFF0007FFFFFFE3FFFF#128
    (s.rangeOk ctx i e = true → CtxStep (.rangeEntryWrite ctx i v) s ctx fun x => x = { s.ctx ctx with ranges := x.ranges } ∧
      ∀ j, Sparse.get 0 x.ranges j = if j = i then e else Sparse.get 0 (s.ctx ctx).ranges j) ∧
    (s.rangeOk ctx i e = false → exec (.rangeEntryWrite ctx i v) s = .next s)) ∧
  (∀ s ctx i v, 0 < ctx → ctx < 64 → i < 16 →
    let e := v &&& 0xFFFFFFFFFFFFFFFFFFFFFFFF00000003#128
    (0 < i → v.getLsbD 0 = false ∨ classOk v = true → CtxStep (.decayClassWrite ctx i v) s ctx fun x =>
      x = { s.ctx ctx with classes := x.classes } ∧ ∀ j, Sparse.get 0 x.classes j = if j = i then e else Sparse.get 0 (s.ctx ctx).classes j) ∧
    (i = 0 ∨ v.getLsbD 0 = true ∧ classOk v = false → exec (.decayClassWrite ctx i v) s = .next s)) ∧
  (∀ s i v, i < 256 →
    let e := v &&& 0xFFFFFFFFFFFFFFFFFFFD#128
    (v.getLsbD 0 = false ∨ s.sweepOk i e = true → ∃ t, exec (.sweepRangeWrite i v) s = .next t ∧
      t = { s with sweeps := t.sweeps, passes := t.passes } ∧
      (∀ j, j ≠ i → look t.passes j = look s.passes j ∧ t.sweep j = s.sweep j) ∧
      (look t.passes i).map (·.1) = (if v.getLsbD 0 then (look s.passes i).map (·.1) else none) ∧
      t.sweep i = swSetBusy (swSetPstep e (if v.getLsbD 0 = true ∧ swV (s.sweep i) = false then (s.ctx (swCtx e)).odometer
        else swPstep (s.sweep i))) (v.getLsbD 0 && (look s.passes i).isSome)) ∧
    (v.getLsbD 0 = true → s.sweepOk i e = false → exec (.sweepRangeWrite i v) s = .next s)) ∧
  (∀ s ctx i v, 0 < ctx → ctx < 64 → i < 64 →
    (v.getLsbD 0 = false ∨ s.pannierOk v = true → CtxStep (.pannierWrite ctx i v) s ctx fun x =>
      x = { s.ctx ctx with panniers := x.panniers } ∧ ∀ j, look x.panniers j =
        if j = i then some (v &&& 0xFFFFFFFFFFFFFFFFFFFFFFFFFFFFFFFFFFFFFFFFFF0000000000000000000001#256) else look (s.ctx ctx).panniers j) ∧
    (v.getLsbD 0 = true → s.pannierOk v = false → exec (.pannierWrite ctx i v) s = .next s)) ∧
  (∀ s ctx i v, ctx < 64 → i < 64 → s.colls = [] →
    let bad := v.toNat / 2 ^ 8 % 2 ^ 12 = 0 ∨ v.toNat / 2 ^ 64 % 128 ≠ 0 ∨ v.toNat / 2 ^ 128 % 128 ≠ 0
    (¬bad → CtxStep (.launchCounterWrite ctx i v) s ctx fun x => x = { s.ctx ctx with lctrs := x.lctrs } ∧
      (∀ j, j ≠ i → Sparse.get 0 x.lctrs j = Sparse.get 0 (s.ctx ctx).lctrs j) ∧
      let y := Sparse.get 0 x.lctrs i
      let old := Sparse.get 0 (s.ctx ctx).lctrs i
      y.getLsbD 0 = v.getLsbD 0 ∧ bits y 19 8 = bits v 19 8 ∧ bits y 191 64 = bits v 191 64 ∧ bits y 63 32 = bits old 63 32 ∧
      bits y 31 20 = if v.getLsbD 0 then bits v 19 8 else bits old 31 20) ∧
    (bad → exec (.launchCounterWrite ctx i v) s = .next (s.raise (.refused 3 i)))) ∧
  (∀ s ctx q v, ctx < 64 → q < 16 → CtxStep (.queueControlWrite ctx q v) s ctx fun x => x = { s.ctx ctx with queues := x.queues } ∧
    ∀ r, x.queue r = if r = q then { (s.ctx ctx).queue q with prio := v.extractLsb' 1 3, en := v.getLsbD 0 } else (s.ctx ctx).queue r) ∧
  (∀ s v, s.inv = none → exec (.registerWrite 0x201 v) s = .next { s with invlen := v &&& 0x3FFFFFFFFFFF }) ∧
  (∀ s c v, 0 < c → c < 64 →
    (v.toNat / 2 ^ 18 * 2 ^ 18 < 0x17800000000 → CtxStep (.registerWrite (0x440 + c) v) s c fun x =>
      x = { s.ctx c with savearea := v >>> 18 <<< 18 }) ∧
    (0x17800000000 ≤ v.toNat / 2 ^ 18 * 2 ^ 18 → exec (.registerWrite (0x440 + c) v) s = .next s)) ∧
  ∀ s rows cols row col, row < 16 → col < 16 →
    (0 < rows → rows ≤ 16 → 0 < cols → cols ≤ 16 → s.ports.length = 30 → (∀ p ∈ s.ports, p.up = false) →
      ∃ t, exec (.podWrite rows cols row col) s = .next t ∧
        t = { s with podRows := rows, podCols := cols, modId := BitVec.ofNat 8 (16 * row + col), ports := t.ports, kevents := t.kevents } ∧
        ∀ p, p < 30 →
          let peer := portPeer (16 * row + col) p
          (t.port p).st = if peer / 16 < rows ∧ peer % 16 < cols then (if (s.port p).st = 4 then 0 else (s.port p).st) else 4) ∧
    (rows = 0 ∨ 16 < rows ∨ cols = 0 ∨ 16 < cols → exec (.podWrite rows cols row col) s = .next s)

/-! ### What arrives over the fabric -/

/-- R75 to R79, R86, R88, R170 to R172, R324, R357, R359: accesses of peers at the home of a line, answered and kept in the record, an acquire
or a release once the promotion of the line's tag has been made; a repeated request
answered from the record; what the domain check and the grant filter refuse; the answer to an access of this module; tokens at their home
and at their holder; grants given, recalled and taken back; and what arrives for the module kernel. -/
def Obligations.FabricEvents : Prop :=
  (∀ s src tid tag how pa n, Heard s src tid tag → AtRest s pa → how.token = false →
    (s.granted src pa &&& 1 = 1 → src ∉ s.denies →
      (s.peerPromoted how pa = true → ∃ t, exec (.fabricRead src tid tag how pa n) s = .next t ∧
        Answers (s.peerRelease src how pa) t src tid 0 (bytesFrom s.mem pa n)) ∧
      (s.peerPromoted how pa = false → exec (.fabricRead src tid tag how pa n) s = .next s)) ∧
    (s.granted src pa &&& 1 = 0 ∨ src ∈ s.denies → ∃ t, exec (.fabricRead src tid tag how pa n) s = .next t ∧
      Answers s t src tid 0x0B [])) ∧
  (∀ s src tid tag how pa n, s.answeredTo src tid = none → s.tagOk tag = false → ∃ t, exec (.fabricRead src tid tag how pa n) s = .next t ∧
    Answers { s with domainDrop := s.domainDrop + 1 } t src tid 0x0B []) ∧
  (∀ s src tid tag how pa bs a, s.answeredTo src tid = some a → ∃ t, exec (.fabricWrite src tid tag how pa bs) s = .next t ∧
    SentFrom s t ∧ t.answered.map (fun a => (a.src, a.tid, a.status, a.data)) = s.answered.map (fun a => (a.src, a.tid, a.status, a.data)) ∧
    (s.openRoutes src (.response src tid a.status a.data) ≠ [] → Sends s t (.response src tid a.status a.data))) ∧
  (∀ s src tid tag how pa bs, Heard s src tid tag → AtRest s pa → how.token = false → s.peerPromoted how pa = true →
    s.granted src pa &&& 2 = 2 → src ∉ s.denies → ∃ t, exec (.fabricWrite src tid tag how pa bs) s = .next t ∧
      Answers { s.peerRelease src how pa with mem := bs.foldl (fun m b => Memory.setByte m (pa + b.1) b.2) s.mem } t src tid 0 []) ∧
  (∀ s src tid tag how pa data cmp ret, Heard s src tid tag → AtRest s pa → how.token = false → s.peerPromoted how pa = true →
    s.granted src pa &&& 7 = 7 → src ∉ s.denies → ∀ ty ∈ [2, 6],
    let old := Memory.read s.mem pa 4
    ∃ t, exec (.fabricAtomic src tid tag pa 4 (.atom 0 ty false ret, how) data cmp) s = .next t ∧
      Answers { s.peerRelease src how pa with mem := Memory.write s.mem pa 4 ((old + data) % 2 ^ 32) } t src tid 0
        (if ret then bytesFrom s.mem pa 4 else [])) ∧
  (∀ s src tid data o i r ap pa a, s.outst.find? (fun o => o.dst == src && o.tid == tid) = some o → o.msg = .request ap pa a →
    s.reqs.findIdx? (fun r => o.isFor r) = some i → s.reqs[i]? = some r → r.acq = false → r.rel = false → s.waitQ = [] → Still s → src < 256 →
    (∀ x ∈ s.outst, x.dst = 256 ∨ x.port ≠ none) → data.length = r.answerBytes → ∃ t, exec (.fabricResponse src tid 0 data) s = .next t ∧ t.outst = s.outst.erase o ∧
      noFills t.reqs = noFills (setAt s.reqs i { r with state := .done (leNat data) }) ∧ t.mem = s.mem ∧ t.teams = s.teams ∧
      (r.ctx ≠ 0 → (t.ctx r.ctx).fabRx = (s.ctx r.ctx).fabRx + BitVec.ofNat 64 data.length)) ∧
  (∀ s src tid status data, (∀ o ∈ s.outst, o.dst ≠ src ∨ o.tid ≠ tid) → exec (.fabricResponse src tid status data) s = .next s) ∧
  (∀ s src tid tag region, Heard s src tid tag → (src, tid, region) ∉ s.tokenWait → region * 2 ^ 21 < Config.memBytes →
    let c := s.granted src (region * 2 ^ 21) &&& 8 = 8 ∧ src ∉ s.denies
    (src ∈ s.denies → ∃ t, exec (.tokenAcquire src tid tag region) s = .next t ∧ Answers s t src tid 0x0B []) ∧
    (¬c → src ∉ s.denies → ∃ t, exec (.tokenAcquire src tid tag region) s = .next t ∧ Answers s t src tid 0 [3]) ∧
    (c → look s.tokenDir region = none → s.tokenDir.length < 16384 → ∃ t, exec (.tokenAcquire src tid tag region) s = .next t ∧
      Answers { s with tokenDir := put s.tokenDir region src } t src tid 0 [0]) ∧
    (c → look s.tokenDir region = none → 16384 ≤ s.tokenDir.length → ∃ t, exec (.tokenAcquire src tid tag region) s = .next t ∧
      Answers s t src tid 0 [1]) ∧
    (c → ∀ h, look s.tokenDir region = some h → h ≠ src → s.outst = [] → s.waitQ = [] → ∃ t,
      exec (.tokenAcquire src tid tag region) s = .next t ∧ t.tokenDir = s.tokenDir ∧ t.tokenWait = s.tokenWait ++ [(src, tid, region)] ∧
      t.answered = s.answered ∧ (s.mayLeave h (.tokenRecall h region) = true → Sends s t (.tokenRecall h region)))) ∧
  (∀ s src tid tag region, Heard s src tid tag → s.granted src (region * 2 ^ 21) &&& 8 = 8 → src ∉ s.denies → Still s →
    look s.tokenDir region = some src → (∀ w ∈ s.tokenWait, w.2.2 ≠ region) → (∀ r ∈ s.recalls, 2 ≤ r.2.2) →
    ∃ t, exec (.tokenRelease src tid tag region) s = .next t ∧
      Answers { s with tokenDir := del s.tokenDir region } t src tid 0 [0]) ∧
  (∀ s src tid tag region, Heard s src tid tag → s.peerLines = [] → s.peerMem = [] → s.relPend = [] → s.outst = [] → s.waitQ = [] →
    s.cores = [] → s.reqs = [] → ∃ t, exec (.tokenRecall src tid tag region) s = .next t ∧
      Answers { s with heldTokens := del s.heldTokens (regionKey src region) } t src tid 0 []) ∧
  (∀ s peer id base len perm,
    let kept := s.grants.filter fun g => !(g.id == id && g.mod == peer)
    (kept.length < 4096 → ∃ t, exec (.grant none peer id base len perm) s = .next t ∧
      t.grants = kept ++ [⟨id, peer, base, len, BitVec.ofNat 4 perm⟩] ∧ t.mem = s.mem ∧
      (s.mayLeave peer (.grant peer id base len perm) = true → Sends s t (.grant peer id base len perm))) ∧
    (4096 ≤ kept.length → exec (.grant none peer id base len perm) s = .next (s.raise (.grantRefused id)))) ∧
  (∀ s peer id, ∃ t u, exec (.grantAck none peer id) s = .next t ∧ t.grants = s.grants ∧
    (s.mayLeave peer (.grantAck peer id) = true → Sends s t (.grantAck peer id)) ∧
    exec (.recallAck none peer id) s = .next u ∧ u.grants = s.grants ∧
    (s.mayLeave peer (.recallAck peer id) = true → Sends s u (.recallAck peer id))) ∧
  (∀ s peer id g deadline, s.grants.find? (fun g => g.id == id && g.mod == peer) = some g → 1000 ≤ deadline → deadline ≤ 10000000 →
    (∀ r ∈ s.recalls, r.1 ≠ id ∨ r.2.1 ≠ peer) → s.tokenDir = [] → ∃ t, exec (.recallGrant none peer id deadline) s = .next t ∧
      t.recalls = s.recalls ++ [(id, peer, s.time.toNat + 1000 * deadline)] ∧ t.grants = s.grants ∧
      (s.mayLeave peer (.recall peer id deadline) = true → Sends s t (.recall peer id deadline))) ∧
  (∀ s peer id d, s.recalls = [(id, peer, d)] → 2 ≤ d → s.outst = [] → s.waitQ = [] → (∀ w ∈ s.tokenWait, w.1 ≠ peer) →
    let left := s.grants.filter fun g => !(g.id == id && g.mod == peer)
    (∀ tid, s.answeredTo peer tid = none → ∃ t, exec (.recallAck (some tid) peer id) s = .next t ∧ Answers
      { s with grants := left, recalls := [], kevents := s.kevents ++ [.message 3 peer id 0 0 0 0, .framesFree id] } t peer tid 0 []) ∧
    (s.time.toNat < d → exec (.recallDeadline id) s = .next s) ∧
    (d ≤ s.time.toNat → ∃ t, exec (.recallDeadline id) s = .next t ∧ t.grants = left ∧ peer ∈ t.denies ∧ t.recalls = [] ∧
      t.kevents = s.kevents ++ [.framesFree id] ∧ (s.mayLeave peer (.deny peer) = true → Sends s t (.deny peer)))) ∧
  (∀ s peer id base len perm deadline tid, ∀ x ∈ [(Instr.grant (some tid) peer id base len perm, KEvent.message 0 peer id base len perm 0),
      (.grantAck (some tid) peer id, .message 1 peer id 0 0 0 0), (.recallGrant (some tid) peer id deadline, .message 2 peer id 0 0 0 deadline),
      (.deny (peer, tid), .message 4 peer 0 0 0 0 0)],
    (s.answeredTo peer tid = none → ∃ t, exec x.1 s = .next t ∧ Answers (s.raise x.2) t peer tid 0 []) ∧
    ((s.answeredTo peer tid).isSome = true → ∃ t, exec x.1 s = .next t ∧ SentFrom s t)) ∧
  (∀ s port, let mine := s.ptp.port = some port
    exec (.ptpMessage port .delayReq) s = .next (s.send (.ptp port (.delayResp s.time))) ∧
    (mine → exec (.ptpMessage port .sync) s = .next { s with ptp := { s.ptp with t1 := none, t2 := some s.time, t3 := none } }) ∧
    (mine → s.ptp.t2.isSome = true → ∀ t1, exec (.ptpMessage port (.followUp t1)) s =
      .next (({ s with ptp := { s.ptp with t1 := some t1, t3 := some s.time } } : State).send (.ptp port .delayReq))) ∧
    (mine → ∀ t1 t2 t3 t4, s.ptp.t1 = some t1 → s.ptp.t2 = some t2 → s.ptp.t3 = some t3 → exec (.ptpMessage port (.delayResp t4)) s =
      .next { s with ptp := { s.ptp with t1 := none, t2 := none, t3 := none, offset := ((t4 - t3).toInt - (t2 - t1).toInt) / 2 } }) ∧
    (¬ mine → ∀ x, exec (.ptpMessage port .sync) s = .next s ∧ exec (.ptpMessage port (.followUp x)) s = .next s ∧
      exec (.ptpMessage port (.delayResp x)) s = .next s)) ∧
  ∀ s t, (t.toNat ≤ s.time.toNat → exec (.timeStep t) s = .next s) ∧
    (s.time.toNat < t.toNat → s.trigs = [] → ∃ u, exec (.timeStep t) s = .next u ∧ u = { s with
      time := t, ctxs := u.ctxs, ptp := { s.ptp with t1 := none, t2 := none, t3 := none, offset := s.ptp.offset - (t - s.time).toInt } })

/-! ### Links -/

/-- R166, R173 to R176, R326: the states of a port, flits asked for again, routes out of service and back, the swap of a weak lane for
the spare, each direction at its agreed flit, heartbeats on every live route, and a packet that comes with the flit that is next in
sequence. The number of the flit at which a swap is made is the implementation's. -/
def Obligations.LinkEvents : Prop :=
  (∀ s p x, PortAt s p x → x.up = true → Idle s →
    Leaves (.portDown p) s p x ∧ Leaves (.downFlit p) s p x ∧
    (10000 ≤ (s.time - x.heard).toNat → Leaves (.linkSilence p) s p x) ∧
    ((s.time - x.heard).toNat < 10000 → exec (.linkSilence p) s = .next s) ∧
    ∀ seq, let n := if x.replay.1 = seq then x.replay.2 + 1 else 1
      let x' := { x with replay := (seq, n), retry := min (x.retry + 1) 0xFFFF }
      (n ≤ 16 → PortStep (.flitReplayRequest p seq) s p x' ((x.buf.filter fun b => !reached seq (bufEnd b)).map (·.2.msg)) []) ∧
      (17 ≤ n → Leaves (.flitReplayRequest p seq) s p x')) ∧
  (∀ s p x, PortAt s p x → x.up = false → ∀ i ∈ [Instr.portDown p, .downFlit p, .linkSilence p], Still s → exec i s = .next s) ∧
  (∀ s p x, PortAt s p x → x.st = 0 → p < 30 → (100000000 ≤ (s.time - x.since).toNat →
      PortStep (.retrainTimer p) s p { x with st := 1, since := s.time } [.flit p 4 0 0] [.port p 1]) ∧
    ((s.time - x.since).toNat < 100000000 → exec (.retrainTimer p) s = .next s)) ∧
  (∀ s p x good, PortAt s p x → x.st = 1 → Idle s →
    let ls := (List.range 5).filter fun l => good.contains l
    (ls.length < 3 → PortStep (.trainingComplete p good) s p { x with st := 0, since := s.time } [] [.port p 0]) ∧
    (3 ≤ ls.length → ∃ t y, exec (.trainingComplete p good) s = .next t ∧ PortAt t p y ∧
      y.st = (if ls.length = 3 then 3 else 2) ∧ y.active = ls.take 4 ∧ y.since = s.time ∧
      y.seq = 0 ∧ y.rseq = 0 ∧ y.buf = [] ∧ y.credits = List.replicate 4 Config.credits ∧
      t.kevents = s.kevents ++ [.port p y.st] ∧
      (s.modId.toNat, portPeer s.modId.toNat p) ∉ t.badLinks ∧ t.mem = s.mem)) ∧
  (∀ s src tid a b, s.linkOk a b = true → s.answered = [] → s.waitQ = [] → s.flows = [] → Still s →
    let s' := { s with badLinks := s.badLinks ++ [(a, b)] }
    (s.outst = [] → ∃ t, exec (.routeChangeBroadcast src tid a b) s = .next t ∧ Answers s' t src tid 0 []) ∧
    ∀ o p, s.outst = [o] → o.dst ≠ 256 → o.doubt = false → s.untagged o.msg = false → o.port = some p → (p, o.via) ∉ s'.routes o.dst →
      (∀ r, s'.openRoutes o.dst o.msg = [r] → ∃ t q, exec (.routeChangeBroadcast src tid a b) s = .next t ∧
        t.outst = [{ o with port := some r.1, via := r.2 }] ∧ q ∈ t.outbox ∧ q.tid = some o.tid ∧ q.port = some r.1 ∧ q.msg = o.msg) ∧
      (s'.routes o.dst = [] → o.msg.fails = false → ∃ t, exec (.routeChangeBroadcast src tid a b) s = .next t ∧
        t.outst = [{ o with port := none, via := none, doubt := true }])) ∧
  (∀ s a b, s.waitQ = [] → Still s →
    let s' := { s with badLinks := s.badLinks.filter fun l => l ≠ (a, b) ∧ l ≠ (b, a) }
    (s.outst = [] → exec (.routeRestored a b) s = .next s') ∧
    ∀ o r, s.outst = [o] → o.dst ≠ 256 → o.doubt = true → s.untagged o.msg = false → o.port = none → s'.openRoutes o.dst o.msg = [r] →
      ∃ t q, exec (.routeRestored a b) s = .next t ∧
      t.outst = [{ o with port := some r.1, via := r.2, doubt := false }] ∧ t.outbox = s.outbox ++ [q] ∧ q.tid = some o.tid ∧
      q.port = some r.1 ∧ q.msg = o.msg) ∧
  (∀ s p x lane eye high margin, PortAt s p x → lane < 5 → Idle s →
    let x' : Port := if eye then { x with margins := setAt x.margins lane (some (margin % 256)) }
      else { x with ratio := setAt x.ratio lane high, win := setAt x.win lane (if 10000 < high then x.win.getD lane 0 + 1 else 0) }
    (x.up = false ∨ x.shift ≠ none ∨ (∀ l ∈ x'.active, ¬ Weak x' l) → PortStep (.laneSample p lane eye high margin) s p x' [] []) ∧
    ∀ l, x.shift = none → FirstWeak x' l →
      let n := (x.seq + 256) % 2 ^ 32
      (x.st = 2 → (∀ q, x'.spare = some q → ¬ Weak x' q) → FlitStep (.laneSample p lane eye high margin) s p
        { x' with shift := some { lane := l, to_ := x'.takes, n := n, tries := 1, at_ := s.time } } (.flit p 2 l n)) ∧
      (x.st = 3 → Leaves (.laneSample p lane eye high margin) s p x')) ∧
  (∀ s p x lane n, PortAt s p x → (x.shift = none ∨ (x.shift.any fun z => z.n'.isSome) = false ∧ portPeer s.modId.toNat p ≤ s.modId.toNat) →
    let n' := (x.seq + 256) % 2 ^ 32
    FlitStep (.shift p lane n) s p { x with shift := some { lane := lane, to_ := x.takes, n := n, n' := some n', tries := 0, at_ := s.time } }
      (.flit p 3 n n')) ∧
  (∀ s p x z, PortAt s p x → x.shift = some z → (z.n'.isSome = true ∨ 1 ≤ z.tries ∧ s.modId.toNat < portPeer s.modId.toNat p) →
    ∀ l n, exec (.shift p l n) s = .next s) ∧
  (∀ s p x z, PortAt s p x → x.shift = some z → z.n' = none →
    (∀ m, PortStep (.shiftAck p z.n m) s p (Port.turn { x with shift := some { z with n' := some m } }) [] []) ∧
    ((s.time - z.at_).toNat < 100000 → exec (.shiftAckTimeout p) s = .next s) ∧
    (100000 ≤ (s.time - z.at_).toNat → z.tries < 3 → FlitStep (.shiftAckTimeout p) s p
      { x with shift := some { z with tries := z.tries + 1, at_ := s.time } } (.flit p 2 z.lane z.n)) ∧
    (100000 ≤ (s.time - z.at_).toNat → 3 ≤ z.tries → x.up = true → Idle s → Leaves (.shiftAckTimeout p) s p x)) ∧
  (∀ (x : Port) (z : Shift) m, x.shift = some z → z.n' = some m → z.sent = false →
    let mine := if z.tries = 0 then m else z.n
    (x.sends 1).lmap = if reached ((x.seq + 1) % 2 ^ 32) mine then laneMap ((mapLanes x.lmap).map fun y => if y = z.lane then z.to_ else y)
      else x.lmap) ∧
  (∀ s p x z, PortAt s p x → x.up = true → x.shift = some z → Idle s →
    (z.sent = false ∨ z.taken = false → exec (.laneMapSwitch p) s = .next s) ∧
    (z.sent = true → z.taken = true → let y := { x with shift := none, bad := z.lane :: x.bad }
      (z.to_ ≠ 7 → (∀ b ∈ x.active, ¬ Weak x b) → PortStep (.laneMapSwitch p) s p { y with spareUsed := true } [] []) ∧
      (z.to_ = 7 → x.st = 2 → (∀ b ∈ x.active, ¬ Weak x b) →
        PortStep (.laneMapSwitch p) s p { y with st := 3, since := s.time } [] [.port p 3]))) ∧
  (∀ s m, s.partners = [m] → (∀ r ∈ s.routes m, s.mayLeave m (.heartbeat m) (some r) = true) →
    s.outstanding m + (s.routes m).length ≤ 512 → ∃ t ps, exec .heartbeatTimer s = .next t ∧ t.pelotons = s.pelotons ∧
      t.outbox = s.outbox ++ ps ∧ ps.map (fun q => (q.port, q.via, q.msg)) = (s.routes m).map fun r => (some r.1, r.2, .heartbeat m)) ∧
  (∀ s p seq i rest, s.issue = none → s.sched = .flitIn p seq true (.event i) :: rest → arrives i = true →
    (overPort i).all (· == p) = true → (s.port p).up = true → s.fw.powered = true →
    let s1 : State := { s with sched := rest }
    (seq = (s.port p).rseq → step s = closed s (exec i ((s1.flitIn p seq true).keep i)) ∧ ((s1.flitIn p seq true).port p).rseq = (seq + 1) % 2 ^ 32) ∧
    (seq ≠ (s.port p).rseq → ∃ t, step s = .next t ∧ t.outbox = s.outbox ∧ t.mem = s.mem)) ∧
  -- a request that its home keeps waiting stays there until it is answered
  (∀ (s : State) i, s.keep i = if (homeAsk i).isSome = true ∧ (∀ j ∈ s.inbox, homeAsk j ≠ homeAsk i) then { s with inbox := s.inbox ++ [i] } else s) ∧
  (∀ s k i rest, s.issue = none → s.sched = .arrived k :: rest → s.inbox[k]? = some i → s.fw.powered = true →
    step s = closed s (exec i { s with sched := rest })) ∧
  (∀ s src tid, s.answeredTo src tid = none → ∃ t, exec (.heartbeat src tid) s = .next t ∧
    Answers { s with pelotons := t.pelotons } t src tid 0 [] ∧
    ∀ i p, (i, p) ∈ s.pelotons → p.v = true → p.members.getLsbD src = true →
      (i, { p with beats := (src, s.time) :: p.beats.filter fun b => b.1 != src }) ∈ t.pelotons) ∧
  ∀ s m, m ≠ s.modId.toNat → m ∈ s.partners →
    (s.routes m = [] → exec (.memberFail m) s = .next (s.raise (.memberFail m))) ∧
    (∀ i p at_, (i, p) ∈ s.pelotons → p.v = true → p.members.getLsbD m = true → p.beats.find? (fun b => b.1 == m) = some (m, at_) →
      1500000 ≤ (s.time - at_).toNat → exec (.memberFail m) s = .next (s.raise (.memberFail m)))

namespace Sys2Proof.Claims

/-! ### Flows and collectives -/

/-- The header word of a flow message (R189): TYPE, the slot of the end that it goes to, BASE and CNT less one. -/
def header (kind slot base cnt : Nat) : DWord :=
  BitVec.ofNat 64 (kind * 2 ^ 60 + slot % 2 ^ 14 * 2 ^ 46 + base % 2 ^ 24 * 2 ^ 22 + (cnt - 1) % 64 * 2 ^ 16)

/-- No token is out, no line is on its way to another module, and none of its own memory is uncorrectable. -/
def Home (s : State) : Prop := s.tokenDir = [] ∧ s.migrations = [] ∧ s.poison = []

/-- A new flow message for slot `slot` reaches the end that it names, entry `k`, whose context has the tag; no collective is on the engine
(R171, R172, R420). -/
structure Reaching (s : State) (src tid tag slot : Nat) (k : Nat) (e : FlowEnd) : Prop where
  new : s.answeredTo src tid = none
  ends : s.flows.find? (fun x => x.2.v && x.2.slot == slot) = some (k, e)
  entry : look s.flows k = some e
  slot_ : slot < 2 ^ 14
  tagged : (s.ctx (k / 1024)).dtag = tag ∧ tag ≠ 0
  free : s.colls = [] ∧ Home s

/-- What a flow message does at its end: the entry, but for its counters, and the answer (R171, R191). -/
def Takes (i : Instr) (s : State) (src tid k : Nat) (e : FlowEnd) (p : State → Prop) : Prop :=
  ∃ t, exec i s = .next t ∧ t.flow k = { e with stats := (t.flow k).stats } ∧
    (t.answeredTo src tid).map (fun a => (a.status, a.data)) = some (0, []) ∧ p t

/-- An entry before a transfer and in the course of one. -/
def idleRx (e : FlowEnd) : FlowEnd := { e with rx := none, busy := false }

/-- A flow message of an end to its peer has left. -/
def Tells (s t : State) (k : Nat) (e : FlowEnd) (kind : Nat) (body : List Byte) : Prop :=
  let m := Msg.flow (k / 1024) e.peer (header kind e.pflow 0 1) body none
  s.mayLeave e.peer m = true → ∃ q ∈ t.outbox, q.msg = m

/-- A receive end in the course of a transfer of `len` bytes from `src`, header taken up, with no block that is still to be checked. -/
structure Receiving (e : FlowEnd) (rx : FlowRx) (src b : Nat) : Prop where
  dir : e.dir = true ∧ e.zeroing = false ∧ e.peer = src ∧ e.run = none ∧ e.wq = []
  in_ : e.rx = some rx
  src_ : rx.src = src ∧ rx.refused = false ∧ rx.fault = none ∧ rx.todo = []
  index : b < blocksOf rx.len ∧ look rx.applied b = none

/-- The prediction of `n` elements at an offset, from the bytes of the histories (R183, R184). -/
def predicted (s : State) (e : FlowEnd) (g : Word) (off n : Nat) : Nat :=
  let h := fun i => Memory.read s.mem (e.hist i + off) (2 ^ e.ew * n)
  if e.pred = 3 then predOf 3 (2 ^ e.ew) n (h (g.toNat % 2)) (h ((g.toNat + 1) % 2)) else predOf e.pred (2 ^ e.ew) n (h 0) 0

/-- A send end in the course of a unicast transfer of no collective, to one receiver that has neither acknowledged nor been excluded. -/
structure Sending (e : FlowEnd) (r : FlowRun) (y : FlowRecv) : Prop where
  dir : e.dir = false ∧ e.mc = false ∧ e.rx = none ∧ e.wq = []
  run : e.run = some r ∧ r.fault = none
  recv : r.recvs = [y] ∧ y.acked = false ∧ y.excl = 0
  plain : r.x.chunk = none

/-- A transfer that has ended at its send end (R190 step 5). -/
def ended_ (e : FlowEnd) (r : FlowRun) (err : Nat) (ackgen : Word) : FlowEnd :=
  { e with gen := r.g + 1, err := err, busy := false, run := none, ackgen := ackgen }

/-- One collective on the engine, started by a group, open, without a completion record. -/
structure OneColl (s : State) (id : Nat) (c : Coll) (team grp : Nat) (tm : Team) : Prop where
  colls : s.colls = [(id, c)]
  src : c.src = some (team, grp)
  team_ : s.team? team = some tm ∧ grp < tm.groups.length
  runs : (s.ctx c.ctx).res = .running
  open_ : c.dws.isEmpty = false ∧ c.fault = none ∧ c.retry = false ∧ c.ended = none ∧ c.ending = false ∧ c.status = 0
  quiet : c.stalled = [] ∧ c.wq = [] ∧ c.evs = []
  plain : Cd.ck c.dws = false ∧ c.redo = false ∧ s.engAns = [] ∧ s.outst = [] ∧ s.waitQ = []

/-- It has ended with a status, which its group has with its count. -/
def EndsWith (i : Instr) (s : State) (team grp : Nat) (tm : Team) (status : Nat) : Prop :=
  ∃ t tm', exec i s = .next t ∧ t.colls = [] ∧ t.team? team = some tm' ∧
    tm'.group grp = { tm.group grp with collCnt := (tm.group grp).collCnt - 1, collStatus := BitVec.ofNat 8 status }

/-- The trigger is gone. -/
def disarmed (s : State) (id : Nat) : State := { s with trigs := s.trigs.filter fun x => x.1 ≠ id }

end Sys2Proof.Claims

/-- R179 to R196, R420: a send end begins its next transfer with THDR, sends a source block that it has read, resends a range as KEY, and
ends the transfer on the last ACK or at the deadline; a receive end takes THDR, applies each block once after its check, asks for what is
missing and completes; ABORT leaves its generation; a message whose header is not of its type is discarded; and what the module kernel's writes of flow and multicast entries do. -/
def Obligations.FlowEvents : Prop :=
  (∀ s ctx flow e x q, let k := 1024 * ctx + flow
    look s.flows k = some e → flow < 1024 → e.queue = x :: q → e.v = true → e.zeroing = false → e.dir = false → e.mc = false → e.run = none →
    (s.ctx ctx).res = .running → (s.ctx ctx).dtag ≠ 0 → s.routes e.peer ≠ [] → 0 < x.len → x.chunk = none → s.issuerDone x.by_ = true →
    ∃ t, exec (.flowTransferStart ctx flow) s = .next t ∧
      t.flow k = { e with queue := q, busy := true, stats := (t.flow k).stats, run := some { x := x, g := e.gen, recvs :=
        [{ idx := 0, mod := e.peer, slot := e.pflow, keys := x.key || e.ackgen != e.gen, excl := 0 }] } } ∧
      Tells s t k e 1 (leBytes (e.gen.toNat + x.len * 2 ^ 32 + e.pred * 2 ^ 64 + e.ew * 2 ^ 66
        + (if x.key || e.ackgen != e.gen then 2 ^ 68 else 0) + if e.pred = 3 then 2 ^ 69 else 0) 12) ∧ t.mem = s.mem) ∧
  (∀ s ctx flow e r y data bytes s1, let k := 1024 * ctx + flow
    look s.flows k = some e → flow < 1024 → Sending e r y → r.next + 1 < blocksOf r.x.len → y.cnt = 0 → y.buf = [] →
    (s.ctx ctx).res = .running →
    s.engLoadSpan (flowWho k) hubCore ctx 4 (r.x.src + BitVec.ofNat 64 (256 * r.next)) 256 = .ok (bytes, s1) →
    look s1.flows k = some e → Home s1 →
    let p := predicted s1 e r.g (256 * r.next) (256 / 2 ^ e.ew)
    let coded := codedOrder (2 ^ e.ew) (256 / 2 ^ e.ew) (resOf e.pred (2 ^ e.ew) (256 / 2 ^ e.ew) (leNat bytes) p)
    let crc := crc16 ((leBytes p 256).map (·.toNat))
    let kind := if y.keys then 3 else if nnz coded = 0 then 0 else if 36 + nnz coded < 4 + coded.length then 1 else 2
    ∃ t, exec (.flowSourceBlockRead ctx flow data) s = .next t ∧ t.mem = s1.mem ∧
      t.flow k = { e.queueBlockData r.g (e.pred == 3 && y.keys) (256 * r.next) 256 (leNat bytes) with stats := (t.flow k).stats, run := some { r with next := r.next + 1, crcs := r.crcs ++ [crc], recvs :=
        [{ y with base := r.next, cnt := 1, gotKey := y.gotKey || kind == 3,
                  buf := leBytes (kind * 2 ^ 30 + r.g.toNat % 256 * 2 ^ 16 + crc) 4 ++
                    (match kind with | 0 => [] | 1 => codedBody coded | _ => leBytes (leNat bytes) 256) }] } }) ∧
  (∀ s src tid tag slot k e r y, Reaching s src tid tag slot k e → Sending e r y → y.mod = src →
    (r.tailAt.isSome = true → Takes (.ack src tid tag (header 4 slot 0 1) (leBytes (r.g + 1).toNat 4)) s src tid k (ended_ e r 0 (r.g + 1)) fun _ => True) ∧
    (r.tailAt = none → Takes (.ack src tid tag (header 4 slot 0 1) (leBytes (r.g + 1).toNat 4)) s src tid k
      { e with run := some { r with recvs := [{ y with acked := true }] } } fun _ => True) ∧
    (r.resync = [] → ∀ first cnt, first < 2 ^ 32 → cnt < 2 ^ 32 - 1 →
      let body := leBytes (r.g.toNat + first * 2 ^ 32 + cnt * 2 ^ 64) 12
      ((s.ctx (k / 1024)).res = .saved → Takes (.resync src tid tag (header 3 slot 0 1) body) s src tid k
        { e with run := some { r with resync := [(y.idx, first, cnt)] } } fun _ => True) ∧
      ((s.ctx (k / 1024)).res = .saved → Takes (.resync src tid tag (header 3 slot 0 1) (leBytes (r.g.toNat + first * 2 ^ 32 + 0xFFFFFFFF * 2 ^ 64) 12)) s src tid k
        { e with run := some { r with recvs := [{ y with keys := true }], resync := [(y.idx, 0, r.next)] } } fun _ => True) ∧
      ((s.ctx (k / 1024)).res = .running → cnt = 1 → first < r.next →
        ∃ t, exec (.resync src tid tag (header 3 slot 0 1) body) s = .next t ∧
          let m := Msg.flow (k / 1024) src (header 0 y.slot first 1)
            (leBytes (3 * 2 ^ 30 + r.g.toNat % 256 * 2 ^ 16 + r.crcs.getD first 0) 4 ++
              leBytes (Memory.read s.mem (e.hist (e.target r.g) + 256 * first) (blockLen r.x.len first)) (blockLen r.x.len first)) none
          s.mayLeave src m = true → ∃ q ∈ t.outbox, q.msg = m))) ∧
  (∀ s ctx flow e r y at_, let k := 1024 * ctx + flow
    look s.flows k = some e → flow < 1024 → Sending e r y → r.tailAt = some at_ → (s.ctx ctx).res = .running → s.colls = [] →
    let due := 1000 * (s.ctx ctx).flowDl.toNat
    ((s.time - at_).toNat < due → exec (.flowDeadline ctx flow) s = .next s) ∧
    (due ≤ (s.time - at_).toNat → ∃ t, exec (.flowDeadline ctx flow) s = .next t ∧ t.flow k = ended_ e r 3 e.ackgen)) ∧
  (∀ s src tid tag slot k e, Reaching s src tid tag slot k e → e.dir = true → e.zeroing = false → e.peer = src → e.early = [] →
    ∀ (g : Word) len pred ew keyall kboth chunk, len < 2 ^ 32 → pred < 4 → ew < 4 →
      let i := Instr.thdr src tid tag (header 1 slot 0 1) (leBytes (g.toNat + len * 2 ^ 32 + pred * 2 ^ 64 + ew * 2 ^ 66
        + (if keyall then 2 ^ 68 else 0) + if kboth then 2 ^ 69 else 0) 12) chunk
      let good := pred = e.pred ∧ ew = e.ew ∧ len ≤ e.maxlen
      let rx : FlowRx := { g := g, len := len, src := src, lag := g != e.gen, kboth := kboth, chunk := chunk }
      (good → Takes i s src tid k { e with busy := true, rx := some rx } fun t => t.mem = s.mem ∧
        (g ≠ e.gen → keyall = false → Tells s t k e 3 (leBytes (g.toNat + 0xFFFFFFFF * 2 ^ 64) 12))) ∧
      (¬good → Takes i s src tid k { e with busy := false, rx := some { rx with refused := true } } fun t => t.mem = s.mem)) ∧
  (∀ s src tid tag slot k e rx b, Reaching s src tid tag slot k e → Receiving e rx src b → b < 2 ^ 24 → rx.chunk = none →
    let len := blockLen rx.len b
    let key := fun (crc : Nat) (bytes : List Byte) =>
      Instr.blocks src tid tag slot b 0 (leBytes (3 * 2 ^ 30 + rx.g.toNat % 256 * 2 ^ 16 + crc) 4 ++ bytes)
    let zero := fun (crc : Nat) => Instr.blocks src tid tag slot b 0 (leBytes (rx.g.toNat % 256 * 2 ^ 16 + crc) 4)
    let p := predicted s e rx.g (256 * b) (len / 2 ^ e.ew)
    let right := crc16 ((leBytes p len).map (·.toNat))
    let goes := fun (both : Bool) (x : Nat) =>
      { e.queueBlockData rx.g both (256 * b) len x with rx := some { rx with applied := (b, 0) :: rx.applied } }
    (∀ crc bytes, crc < 2 ^ 16 → bytes.length = len →
      Takes (key crc bytes) s src tid k (goes (e.pred == 3 && rx.kboth) (leNat bytes)) fun t => t.mem = s.mem) ∧
    (rx.lag = false → Takes (zero right) s src tid k (goes false p) fun t => t.mem = s.mem) ∧
    (rx.lag = false → rx.applied.length < blocksOf rx.len → ∀ crc, crc < 2 ^ 16 → crc ≠ right → Takes (zero crc) s src tid k e fun t =>
      t.mem = s.mem ∧ Tells s t k e 3 (leBytes (rx.g.toNat + b * 2 ^ 32 + 2 ^ 64) 12)) ∧
    (rx.lag = true → rx.applied.length < blocksOf rx.len → Takes (zero right) s src tid k e fun t => t.mem = s.mem) ∧
    (rx.applied = [] → rx.len < 2 ^ 32 → Takes (.tail src tid tag (header 2 slot 0 1) (leBytes rx.g.toNat 4 ++ leBytes (blocksOf rx.len) 4)) s src tid k e
      fun t => Tells s t k e 3 (leBytes (rx.g.toNat + blocksOf rx.len * 2 ^ 64) 12)) ∧
    Takes (.abort src tid tag (header 5 slot 0 1) (leBytes rx.g.toNat 4)) s src tid k (idleRx e) fun t => t.mem = s.mem) ∧
  (∀ s k e rx pa n v, look s.flows k = some e → e.run = none → e.wq = [{ parts := [(pa, n, v)] }] → e.rx = some rx → rx.refused = false →
    rx.fault = none → rx.todo = [] → rx.chunk = none → rx.len ≠ 0 → Home s → (s.ctx (k / 1024)).dtag ≠ 0 → s.sent (histWrites k) = .nothing →
    let t := s.flowGo k
    t.mem = Memory.write s.mem pa n v ∧
      (rx.applied.length < blocksOf rx.len → t.flow k = { e with wq := [] }) ∧
      (rx.applied.length = blocksOf rx.len → Tells s t k e 4 (leBytes (rx.g + 1).toNat 4) ∧
        t.flow k = { e with wq := [], rx := none, busy := false, gen := rx.g + 1, stats := (t.flow k).stats })) ∧
  (∀ s src tid tag slot k e rx, Reaching s src tid tag slot k e → e.dir = true → e.zeroing = false → e.peer = src → e.rx = some rx → rx.src = src →
    rx.refused = false → rx.len = 0 → rx.chunk = none →
    Takes (.tail src tid tag (header 2 slot 0 1) (leBytes rx.g.toNat 4 ++ leBytes 0 4)) s src tid k { e with rx := none, busy := false, gen := rx.g + 1 }
      fun t => t.mem = s.mem ∧ Tells s t k e 4 (leBytes (rx.g + 1).toNat 4)) ∧
  (∀ s src tid tag slot k e kind body, Reaching s src tid tag slot k e → 0 < kind → kind < 16 →
    Takes (.blocks src tid tag (kind * 2 ^ 14 + slot) 0 0 body) s src tid k e fun t => t.mem = s.mem) ∧
  (∀ s src tid tag slot body, s.answeredTo src tid = none → s.colls = [] → slot < 2 ^ 14 →
    ((∀ x ∈ s.flows, x.2.v = false ∨ x.2.slot ≠ slot) → ∃ t, exec (.tail src tid tag (header 2 slot 0 1) body) s = .next t ∧ Answers s t src tid 0x0B []) ∧
    ∀ k e, s.flows.find? (fun x => x.2.v && x.2.slot == slot) = some (k, e) → (s.ctx (k / 1024)).dtag ≠ tag → ∃ t,
      exec (.tail src tid tag (header 2 slot 0 1) body) s = .next t ∧ Answers { s with domainDrop := s.domainDrop + 1 } t src tid 0x0B []) ∧
  (∀ s ctx flow slot v, ctx < 64 → flow < 1024 → v.getLsbD 0 = true →
    let k := 1024 * ctx + flow
    let e := (s.flow k).write slot v
    (s.flowRefused k v e = true → exec (.flowEndCreate ctx flow slot v) s = .next (s.raise (.refused 0 k))) ∧
    (s.flowRefused k v e = false → (s.flow k).v = false → ∃ t, exec (.flowEndCreate ctx flow slot v) s = .next t ∧
      t = { s with flows := t.flows } ∧ (∀ j, j ≠ k → t.flow j = s.flow j) ∧ (t.flow k).v = true ∧ (t.flow k).gen = 0 ∧
      (t.flow k).ackgen = 0 ∧ (t.flow k).busy = true ∧ (t.flow k).zeroing = true ∧ (t.flow k).slot = slot ∧
      (t.flow k).maxlen = bits v 223 192 ∧ (t.flow k).pred = bits v 5 4 ∧ (t.flow k).ew = bits v 7 6 ∧ (t.flow k).dir = v.getLsbD 2)) ∧
  (∀ s ctx flow e, let k := 1024 * ctx + flow
    look s.flows k = some e → e.v = true → e.zeroing = true → s.tokenDir = [] → s.migrations = [] → s.sent (histWrites k) = .nothing →
    ∃ t, exec (.historyZeroingDone ctx flow) s = .next t ∧
      t.flow k = { e with zeroing := false, busy := false } ∧ ∀ a, Memory.byte t.mem a =
        if (e.hist 0 ≤ a ∧ a < e.hist 0 + e.maxlen) ∨ (e.pred = 3 ∧ e.hist 1 ≤ a ∧ a < e.hist 1 + e.maxlen) then 0 else Memory.byte s.mem a) ∧
  (∀ s ctx flow v e, let k := 1024 * ctx + flow
    look s.flows k = some e → ctx < 64 → flow < 1024 → v.getLsbD 0 = false → e.v = false →
      exec (.flowEndDestroy ctx flow v) s = .next (s.setFlow k (e.write e.slot v))) ∧
  (∀ s ctx flow v e, let k := 1024 * ctx + flow
    look s.flows k = some e → ctx < 64 → flow < 1024 → e.v = true → v.getLsbD 0 = false → ∃ t, exec (.flowEndDestroy ctx flow v) s = .next t ∧
      (t.flow k).v = false ∧ (t.flow k).busy = false ∧ (t.flow k).queue = [] ∧ (t.flow k).run = none ∧ (t.flow k).rx = none ∧ t.mem = s.mem ∧
      (t.flow k).maxlen = bits v 223 192 ∧ (t.flow k).pred = bits v 5 4 ∧ (t.flow k).ew = bits v 7 6 ∧ (t.flow k).slot = e.slot ∧
      ∀ j, j ≠ k → t.flow j = s.flow j) ∧
  ∀ s grp i v, grp < 1024 → i < 64 →
    let busy := ∃ x ∈ s.flows, x.2.v = true ∧ x.2.mc = true ∧ x.2.mgrp = grp ∧ x.2.busy = true
    let old := (look s.mcast (64 * grp + i)).getD {}
    let m := { old with pflow := v.toNat / 2 ^ 16 % 2 ^ 14, mod := v.toNat / 2 ^ 8 % 2 ^ 8, v := v.getLsbD 0 }
    (busy → exec (.mcastSlotWrite grp i v) s = .next s) ∧
    (¬busy → exec (.mcastSlotWrite grp i v) s = .next { s with
      mcast := put s.mcast (64 * grp + i) (if v.getLsbD 0 then { m with ackgen := 0xFFFFFFFF, lag := true, kmark := false } else m) })

/-- R305, R307, R316, R323, R325, R328, R332: peloton entries as they are written (of a valid one MEMBERS stays as it is), shrunk and grown; a collective run again, aborted, or past
the flow deadline, which ends in its group with the status of Table 16.6; and triggers that fire at their time or on their record. -/
def Obligations.CollectiveAndTriggerEvents : Prop :=
  (∀ s i v, i < 256 →
    let old := (look s.pelotons i).getD {}
    let p := { old with members := if old.v && v.getLsbD 0 then old.members else v.extractLsb' 256 256, jlbase := bits v 223 194 * 2 ^ 21, jllen := bits v 193 182, ctx := bits v 181 176,
                        pnum := bits v 175 172, topo := v.getLsbD 171, v := v.getLsbD 0 }
    let bad := p.members.getLsbD s.modId.toNat = false ∨ (∃ m, m < 256 ∧ p.members.getLsbD m = true ∧ s.inPod m = false) ∨ p.ctx = 0 ∨
      (∃ x ∈ s.pelotons, x.2.v = true ∧ x.2.ctx = p.ctx ∧ x.2.pnum = p.pnum) ∨ 2048 < p.jllen ∨
      Config.carveOut < p.jlbase + p.jllen * 2 ^ 21 ∨ bits v 170 1 ≠ 0
    (v.getLsbD 0 = false → exec (.pelotonWrite i v) s = .next { s with pelotons := put s.pelotons i p }) ∧
    (v.getLsbD 0 = true → bad → exec (.pelotonWrite i v) s = .next (s.raise (.refused 1 i))) ∧
    (v.getLsbD 0 = true → ¬bad → ∃ t y, exec (.pelotonWrite i v) s = .next t ∧ t = { s with pelotons := put s.pelotons i y } ∧
      y.v = true ∧ y.members = p.members ∧ y.ctx = p.ctx ∧ y.pnum = p.pnum ∧ y.topo = p.topo ∧ y.jlbase = p.jlbase ∧ y.jllen = p.jllen ∧
      y.epoch = 0 ∧ y.started = [])) ∧
  (∀ s ctx pnum i p members epoch, s.peloton ctx pnum = some (i, p) → s.colls = [] →
    let shrinks := members &&& p.members = members ∧ members ≠ p.members ∧ members.getLsbD s.modId.toNat = true ∧ epoch = p.epoch + 1
    let grows := members &&& p.members = p.members ∧ epoch = p.epoch + 1
    (shrinks → exec (.pelotonShrink ctx pnum members epoch) s =
      .next { s with pelotons := put s.pelotons i { p with members := members, epoch := epoch } }) ∧
    (¬shrinks → exec (.pelotonShrink ctx pnum members epoch) s = .next (s.raise (.refused 2 i))) ∧
    (grows → ∃ b, exec (.pelotonGrow ctx pnum members epoch) s =
      .next { s with pelotons := put s.pelotons i { p with members := members, epoch := epoch, started := [], beats := p.beats ++ b } } ∧
      ∀ m, (m, s.time) ∈ b ↔ m < 256 ∧ members.getLsbD m = true ∧ p.members.getLsbD m = false) ∧
    (¬grows → exec (.pelotonGrow ctx pnum members epoch) s = .next (s.raise (.refused 2 i)))) ∧
  (∀ s ctx pnum i p members epoch id c, s.peloton ctx pnum = some (i, p) → s.colls = [(id, c)] → epoch = p.epoch + 1 →
    (c.inFlight ctx pnum i = true → exec (.pelotonGrow ctx pnum members epoch) s = .next (s.raise (.refused 2 i))) ∧
    (c.open_ i = true → (s.ctx c.ctx).res = .saved → members &&& p.members = members → members ≠ p.members → members.getLsbD s.modId.toNat = true →
      let ends := Cd.abort c.dws = true ∨ Cd.op c.dws = 4 ∨ (Cd.op c.dws = 3 ∧ members.getLsbD (Cd.root c.dws) = false)
      ∃ t y, exec (.pelotonShrink ctx pnum members epoch) s = .next t ∧ t.colls = [(id, y)] ∧ y.dws = c.dws ∧ y.epoch = epoch ∧ y.retry = false ∧
        y.attempt = c.attempt ∧ y.members0 = c.members0 ∧ (ends → y.status = 2) ∧
        (¬ends → y.status = 0 ∧ y.members = c.members &&& members ∧ y.arr = [] ∧ y.outq = [] ∧ y.first = none ∧ y.nf = 0))) ∧
  (∀ s ctx pnum i p id c, s.peloton ctx pnum = some (i, p) → s.colls = [(id, c)] → c.pel = i → c.ctx = ctx →
    (c.retry = true → (s.ctx ctx).res = .saved → ∃ t y, exec (.pelotonRerun ctx pnum id) s = .next t ∧
      t = { s with colls := [(id, y)], engAns := t.engAns, outst := t.outst, waitQ := t.waitQ } ∧
      y.attempt = c.attempt + 1 ∧ y.retry = false ∧ y.dws = c.dws ∧ y.arr = [] ∧ y.first = none ∧ y.nf = 0 ∧ y.status = c.status) ∧
    (c.retry = false → exec (.pelotonRerun ctx pnum id) s = .next (s.raise (.refused 2 i)))) ∧
  (∀ s id c team grp tm, OneColl s id c team grp tm →
    (∀ src tid tag pnum i p, s.answeredTo src tid = none →
      s.pelotons.find? (fun p => p.2.v && p.2.pnum == pnum && (s.ctx p.2.ctx).dtag == tag) = some (i, p) → c.pel = i →
      EndsWith (.collAbort src tid tag pnum c.ord) s team grp tm 2) ∧
    (0 < c.left → 1000 * (s.ctx c.ctx).flowDl.toNat ≤ (s.time - c.since).toNat → EndsWith (.collFlowDeadline id) s team grp tm 4) ∧
    ((s.time - c.since).toNat < 1000 * (s.ctx c.ctx).flowDl.toNat → exec (.collFlowDeadline id) s = .next s)) ∧
  (∀ s src tid tag pnum ord, s.answeredTo src tid = none → (∀ p ∈ s.pelotons, p.2.v = true → p.2.pnum = pnum → (s.ctx p.2.ctx).dtag ≠ tag) →
    ∃ t, exec (.collAbort src tid tag pnum ord) s = .next t ∧ Answers { s with domainDrop := s.domainDrop + 1 } t src tid 0x0B []) ∧
  ∀ s id t, look s.trigs id = some t → t.fault = none → s.issuerDone t.by_ = true →
    let fires := fun (i : Instr) (s0 : State) =>
      (t.collective = true → exec i s = .next ((disarmed s0 id).newColl { ctx := t.ctx, desc := t.addr, since := s0.time })) ∧
      (t.collective = false → ∀ v s1, s0.engLoad (trigWho id 1) hubCore t.ctx (t.addr + 24) 8 = .ok (v, s1) →
        let q := v / 2 ^ 42 % 16
        (s1.queueRoom t.ctx q = true →
          exec i s = .next ((disarmed (s1.forget (trigWho id 1)) id).submit t.ctx q t.addr none)) ∧
        (s1.queueRoom t.ctx q = false → exec i s = .next s1))
    (∀ x, t.at_ = some x → t.watch = none →
      (x.toNat ≤ s.time.toNat → fires (.triggerTimeFire id) s) ∧ (s.time.toNat < x.toNat → exec (.triggerTimeFire id) s = .next s)) ∧
    ∀ w v n s1, t.at_ = none → t.watch = some (w, v) → s.engLoad (trigWho id 0) hubCore t.ctx w 8 = .ok (n, s1) →
      let s2 := s1.forget (trigWho id 0)
      ((BitVec.ofNat 32 n - v).toNat < 2 ^ 31 → fires (.triggerWatchFire id) s2) ∧
      (2 ^ 31 ≤ (BitVec.ofNat 32 n - v).toNat → exec (.triggerWatchFire id) s = .next s2)

namespace Sys2Proof.Claims

/-! ### Launch, engines, pre-emption and firmware -/

/-- The head record of a launch queue and the records behind it. -/
def HeadOf (s : State) (ctx q : Nat) (h : QRec) (rest : List QRec) : Prop := ((s.ctx ctx).queue q).recs = h :: rest

/-- A step that answers a state in which a queue is as given. -/
def QueueStep (i : Instr) (s : State) (ctx q : Nat) (x : Queue) : Prop :=
  ∃ t, exec i s = .next t ∧ (t.ctx ctx).queue q = x ∧ t.teams = s.teams

/-- A copy command in progress that moves elements one by one, nothing of it done or under way yet, its completion object no barrier
slot. -/
structure Copying (s : State) (id : Nat) (c : CopyCmd) (tm : Team) (k : Nat) : Prop where
  cmd : look s.copies id = some c
  team : s.team? c.team = some tm
  kind : c.kind = 0 ∧ c.started = true ∧ c.ending = none ∧ c.fault = none ∧ c.saved = false ∧ c.parked = false
  fresh : c.done = [] ∧ c.stalled = [] ∧ c.torn = [] ∧ s.sent (copyWho id k) = .nothing
  more : k < Shape.elems c.dws ∧ 1 < Shape.elems c.dws
  slot : Shape.ck c.dws ≠ 2

/-- A context that may be saved (R389, Table 20.4). -/
def Saveable (s : State) (ctx : Nat) : Prop :=
  0 < ctx ∧ ctx < 64 ∧ (s.ctx ctx).created = true ∧ (s.ctx ctx).res = .running

/-- The bytes that a save of a context needs (R390): 3 MiB for each core of its mask and 2 MiB. -/
def saveNeeds (c : Ctx) : Nat := 3 * 2 ^ 20 * (List.range 192).countP (fun k => c.cmask.getLsbD k) + 2 * 2 ^ 20

/-- Everything but firmware is as after reset, with the model's schedule, free values and outbox (R56, R399). -/
def Cold (s t : State) : Prop :=
  t = { State.reset with sched := s.sched, fresh := s.fresh, outbox := s.outbox, fw := t.fw, mem := t.mem }

/-- Bytes 0 to 603 of an attestation report (Table 21.4). -/
def report (s : State) (ctx : Nat) (nonce : BitVec 512) : List Byte :=
  leBytes nonce.toNat 64 ++ leBytes s.fw.serial.toNat 16 ++ leBytes s.fw.running 4 ++ leBytes s.fw.fuses 4
    ++ s.fw.m.flatMap (fun m => leBytes m.toNat 64) ++ leBytes ctx 1
    ++ leBytes (if ctx ≠ 0 ∧ (s.ctx ctx).decode.base = 2 then 1 else 0) 1 ++ leBytes (s.ctx ctx).dtag 2

/-- A report with its signature, kept and sent: a signature of the identity key over its hash, with some salt (R400, R403). -/
def Attests (i : Instr) (s : State) (ctx : Nat) (nonce : BitVec 512) : Prop :=
  let r := report s ctx nonce
  ∃ t salt, exec i s = .next t ∧
    let y := r ++ pssSign Config.identity.toNat Config.identityKey.toNat (sha512 r) salt
    t = { s with outbox := t.outbox, fresh := t.fresh, fw := { s.fw with report := y } } ∧ Sends s t (.attestation ctx y)

/-- An answer to a management message, and nothing else but the free values that a measured one uses up (R404). -/
def Replies (i : Instr) (s : State) (m : Msg) : Prop :=
  ∃ t, exec i s = .next t ∧ t = { s with outbox := t.outbox, fresh := t.fresh } ∧ Sends s t m

/-- What flash holds at a reset: an image that was being programmed fails its checks (R402). -/
def flashKept (f : Firmware) : List Host.Cell := if f.prog.isSome then [] else f.flash

end Sys2Proof.Claims

/-! ### Launch and placement -/

/-- R210, R338, R339, R369 to R374, R396: a doorbell puts its record behind its queue; the head is read, checked and waits for its
dependence; a team is placed with its threads at the entry packet and its arguments in the scalar registers of every group; it ends, and
its grid with the last one; and a width change takes effect when every thread waits. -/
def Obligations.LaunchAndPlacement : Prop :=
  (∀ s vf q v, 0 < vf → (s.ctx vf).created = true → q < 16 → s.hostQ = [] → s.outst = [] → s.waitQ = [] →
    let x := (s.ctx vf).queue q
    (v.toNat % 128 = 0 → x.recs.length < 64 → (s.ctx vf).resetting = false → x.en = true →
      QueueStep (.doorbell vf q v) s vf q { x with recs := x.recs ++ [{ addr := v }] }) ∧
    (v.toNat % 128 ≠ 0 ∨ 64 ≤ x.recs.length ∨ (s.ctx vf).resetting = true → CtxStep (.doorbell vf q v) s vf fun y =>
      y = { s.ctx vf with dbstat := (s.ctx vf).dbstat ||| BitVec.ofNat 16 (2 ^ q) })) ∧
  (∀ s ctx q data h rest d s1, s.doneJobs = [] → HeadOf s ctx q h rest → h.fault = none → h.met = false → h.dws = [] →
    s.engLoadDws (headWho ctx q 0) hubCore ctx h.addr 16 = .ok (d, s1) → (s1.ctx ctx).queue q = (s.ctx ctx).queue q → s1.teams = s.teams →
    let x := (s.ctx ctx).queue q
    (LRec.malformed d h.counter.isSome = true → d.getD 7 0 = 0 → QueueStep (.queueHead ctx q data) s ctx q { x with recs := rest, err := 1 }) ∧
    (LRec.malformed d h.counter.isSome = false → LRec.unplaceable d = true → d.getD 7 0 = 0 →
      QueueStep (.queueHead ctx q data) s ctx q { x with recs := rest, err := 2 }) ∧
    (LRec.malformed d h.counter.isSome = false → LRec.unplaceable d = false → LRec.waitv d = false →
      QueueStep (.queueHead ctx q data) s ctx q { x with recs := { h with dws := d, met := true } :: rest })) ∧
  (∀ s ctx q h rest tg s1 v s2, HeadOf s ctx q h rest → h.fault = none → h.met = false → h.dws ≠ [] → LRec.waitv h.dws = true →
    (h.target = some tg ∧ s1 = s ∨ h.target = none ∧ tg.ap = 0 ∧ s.engTarget hubCore ctx .engRead (LRec.waitaddr h.dws) = .ok (tg, s1)) →
    tg.nowhere = false → s1.physRead (headWho ctx q 1) ctx tg.pa 8 = .ok (v, s2) → (s2.ctx ctx).queue q = (s.ctx ctx).queue q → s2.teams = s.teams →
    QueueStep (.dependenceMet ctx q) s ctx q { (s.ctx ctx).queue q with
      recs := { h with target := some tg, met := decide ((BitVec.ofNat 32 v - LRec.waitval h.dws).toNat < 2 ^ 31) } :: rest }) ∧
  (∀ s core ctx q h rest gid, s.nextPlacement = some (ctx, .head q) → HeadOf s ctx q h rest →
    ((s.ctx ctx).queue q).placeable = some h → h.grid = some gid → s.colls = [] →
    let d := h.dws
    let x := (s.ctx ctx).queue q
    (s.fitsAt (s.ctx ctx) ctx d core = false → exec (.teamPlacement core) s = .next s) ∧
    (s.fitsAt (s.ctx ctx) ctx d core = true → ∃ t tm, exec (.teamPlacement core) s = .next t ∧ t.team? s.nextId = some tm ∧
      (∀ id, id ≠ s.nextId → t.team? id = s.team? id) ∧ t.mem = s.mem ∧ (t.core core).l1 = [] ∧
      tm.ctx = ctx ∧ tm.grid = gid ∧ tm.index = h.placed ∧ tm.core = core ∧ tm.w = LRec.w d ∧ tm.wmin = LRec.wmin d ∧ tm.nv = LRec.nv d ∧
      tm.ns = LRec.ns d ∧ tm.threads.length = LRec.t d ∧ tm.groups.length = LRec.t d / LRec.w d ∧ tm.lm0 = {} ∧ tm.lm1 = {} ∧
      (∀ i, i < LRec.t d → tm.thread i =
        { pc := BitVec.ofNat 24 (12 * LRec.entry d), restart := BitVec.ofNat 24 (12 * LRec.entry d) }) ∧
      (∀ g, g < LRec.t d / LRec.w d → ∀ n, tm.readReg g (.s n) = (LRec.args d h.counter).getD n 0) ∧
      (t.ctx ctx).queue q = { x with
        recs := if h.placed + 1 = LRec.teams d then rest else { h with placed := h.placed + 1 } :: rest })) ∧
  (∀ s team tm gd, s.team? team = some tm → s.grids = [(tm.grid, gd)] → s.colls = [] →
    (s.teamDone team tm = false → exec (.teamEnd team) s = .next s) ∧
    (s.teamDone team tm = true → LRec.cdesc gd.dws = 0 →
      (gd.ended + 1 < LRec.teams gd.dws → exec (.teamEnd team) s = .next { s with
        teams := del s.teams team
        mats := s.mats.filter fun c => c.2.team ≠ team
        grids := [(tm.grid, { gd with
          ended := gd.ended + 1, clean := gd.clean + (if tm.killed then 0 else 1), gone := team :: gd.gone })] }) ∧
      (gd.ended + 1 = LRec.teams gd.dws → s.reqs = [] → s.cores = [] → (s.ctx gd.ctx).image.slog = [] → LRec.done gd.dws = 0 →
        (tm.killed = false → gd.clean = gd.ended → exec (.teamEnd team) s = .next { s with
          teams := del s.teams team, mats := s.mats.filter fun c => c.2.team ≠ team, grids := [] }) ∧
        (tm.killed = true → gd.clean ≤ gd.ended → ∃ t, exec (.teamEnd team) s = .next t ∧ t.grids = [] ∧
          ((t.ctx gd.ctx).queue gd.queue).err = 4)))) ∧
  ∀ s team tm c, s.team? team = some tm → tm.waitingCode = some c →
    (tm.regroupReady = false → exec (.regroupEffect team) s = .next s) ∧
    (tm.regroupReady = true → ∃ t tm', exec (.regroupEffect team) s = .next t ∧ t.team? team = some tm' ∧ t.mem = s.mem ∧
      tm'.w = 8 * 2 ^ c.toNat ∧ tm'.groups.length = tm.t / (8 * 2 ^ c.toNat) ∧ tm'.threads.length = tm.threads.length ∧
      (∀ j, j < tm.threads.length → (tm.thread j).exited = false → (tm'.thread j).waiting = none ∧ (tm'.thread j).exited = false ∧
        (tm'.thread j).regs = (tm.thread j).regs ∧ (tm'.thread j).stack = (tm.thread j).stack ∧
        (tm'.thread j).pc = BitVec.ofNat 24 (12 * ((tm.thread j).pc.toNat / 12 + 1))) ∧
      ∀ g, g < tm.t / (8 * 2 ^ c.toNat) → (tm'.group g).s = (tm.group (g * (8 * 2 ^ c.toNat) / tm.w)).s)

/-! ### The copy engine and the matrix engine at work -/

/-- R146, R147, R151, R152, R286, R293, R294, R298, R299: a copy command starts when its record is read and checked; a piece moves its
elements; an `mma` replaces the elements of its tile and no other; a drain puts an output element at its destination. -/
def Obligations.EnginesWork : Prop :=
  (∀ s core data id c tm d s1, s.nextCopy core = some (id, c) → c.kind = 0 → s.team? c.team = some tm →
    (8 ≤ s.copiesRunning core → exec (.copyStart core data) s = .next s) ∧
    (s.earlierDone core c.team c.grp c.instr = false → exec (.copyStart core data) s = .next s) ∧
    (s.copiesRunning core < 8 → s.earlierDone core c.team c.grp c.instr = true → c.parked = false → s.engLoadDws (copyRec id) c.core c.ctx c.recAddr 16 = .ok (d, s1) →
      look s1.copies id = some c → s1.team? c.team = some tm → c.src = none → c.dst = none →
      (Shape.malformed d 0 = false → Shape.ssp d = 1 → Shape.dsp d = 1 → localOk tm (Shape.srcExtent d) (Shape.src d) = true →
        localOk tm (Shape.dstExtent d 0) (Shape.dst d) = true → ∃ t, exec (.copyStart core data) s = .next t ∧
          look t.copies id = some { c with dws := d, started := true, limit := Shape.tileBytes d 0, recv := [], excluded := 0 } ∧
          t.mem = s1.mem ∧ t.teams = s1.teams) ∧
      (Shape.malformed d 0 = true → Shape.ck d = 0 → c.limit = 0 → c.grp < tm.groups.length → ∃ t tm',
        exec (.copyStart core data) s = .next t ∧ look t.copies id = none ∧ t.mem = s1.mem ∧ t.team? c.team = some tm' ∧
        tm'.group c.grp = { tm.group c.grp with
          copyCnt := (tm.group c.grp).copyCnt - 1
          copyStatus := if (tm.group c.grp).copyStatus = 0 then 1 else (tm.group c.grp).copyStatus }))) ∧
  (∀ s id c tm k data answer, Copying s id c tm k →
    let src := Shape.srcAddr c.dws k
    let dst := Shape.dstAddr c.dws 0 k
    let e := Shape.e c.dws
    let done := { c with done := [(k, 1)], evs := put c.evs k [] }
    (Shape.ssp c.dws = 1 → Shape.dsp c.dws = 1 → ∃ t tm', exec (.copyPiece id k 1 data answer) s = .next t ∧ look t.copies id = some done ∧
      t.team? c.team = some tm' ∧ t.mem = s.mem ∧
      let side := onSecond tm c.grp (Shape.dst c.dws)
      (tm'.lm side).bytes = Memory.write (tm.lm side).bytes (dst.toNat % 2 ^ 23) e
        (Memory.read (tm.lm (onSecond tm c.grp src)).bytes (src.toNat % 2 ^ 23) e) ∧
      tm'.threads = tm.threads ∧ tm'.groups = tm.groups) ∧
    (Shape.ssp c.dws = 0 → Shape.dsp c.dws = 0 → ∀ v s1 s2,
      s.engLoad (copyWho id k) c.core c.ctx src e = .ok (v, s1) →
      s1.engStoreAll (copyWho id k) c.core c.ctx [(dst, e, v)] = .ok s2 → s2.sent (copyWho id k) = .nothing →
      look s2.copies id = some c → ∃ t, exec (.copyPiece id k 1 data answer) s = .next t ∧
        look t.copies id = some done ∧ t.mem = s2.mem ∧ t.teams = s2.teams)) ∧
  (∀ s id c tm, s.matHead id = some c → s.team? c.team = some tm → c.drain = false → c.smash = [] → (∀ x ∈ s.mats, x.2.lost = false) →
    Par.col c.dws + Par.n c.dws ≤ 256 → ∃ t tm', exec (.mmaPerform id) s = .next t ∧ t.team? c.team = some tm' ∧ t.mem = s.mem ∧
      tm'.threads = tm.threads ∧
      let side := tm.onSecondCore c.grp
      ∀ row col, col < 256 → (tm'.acc side).get row col =
        if Par.row c.dws ≤ row ∧ row < Par.row c.dws + 64 ∧ Par.col c.dws ≤ col ∧ col < Par.col c.dws + Par.n c.dws then
          BitVec.ofNat 32 (c.element ((tm.acc side).get row col).toNat (row - Par.row c.dws) (col - Par.col c.dws)).1
        else (tm.acc side).get row col) ∧
  ∀ s id c tm k answer, s.matHead id = some c → s.team? c.team = some tm → c.drain = true → c.smash = [] → c.done = [] → c.stalled = [] →
    (∀ x ∈ s.mats, x.2.lost = false) → c.ending = none → c.fault = none → s.earlierDone c.core c.team c.grp c.instr = true → Par.dsp c.dws = 1 → Par.ck c.dws ≠ 2 →
    k < 64 * Par.n c.dws → ∃ t tm', exec (.drainPerform id k 1 answer) s = .next t ∧ t.team? c.team = some tm' ∧ t.mem = s.mem ∧
      (∃ evs, look t.mats id = some { c with done := [(k, 1)], evs := evs }) ∧
      let i := k / Par.n c.dws
      let j := k % Par.n c.dws
      let side := onSecond tm c.grp (Par.dst c.dws)
      let x := (tm.acc (tm.onSecondCore c.grp)).get (Par.row c.dws + i) (Par.col c.dws + j)
      let resid := Memory.read (tm.lm (onSecond tm c.grp (BitVec.ofNat 64 (Par.resoff c.dws)))).bytes
        (Par.resoff c.dws % 2 ^ 23 + (i * Par.n c.dws + j) * Par.rw c.dws) (Par.rw c.dws)
      (tm'.lm side).bytes = Memory.write (tm.lm side).bytes
        ((Par.dst c.dws + BitVec.ofNat 64 (i * Par.dstride c.dws + j * (Par.ow c.dws / 8))).toNat % 2 ^ 23)
        (Par.ow c.dws / 8) (c.output x.toNat resid i j).1 ∧ tm'.threads = tm.threads

/-! ### Pre-emption -/

/-- R387 to R393, Table 20.4: a SAVE stops its context and drops its groups to their restart points, is refused with ERR 1 or 2, or ignored
while a command is in progress; a late result is waited for at most 10 µs; the last share of the image written ends it; and a RESUME
lets its teams be placed again. -/
def Obligations.Preemption : Prop :=
  (∀ s ctx, s.preempt ≠ none → exec (.preemptSave ctx) s = .next s ∧ exec (.preemptResume ctx) s = .next s) ∧
  (∀ s ctx, s.preempt = none →
    (¬Saveable s ctx → exec (.preemptSave ctx) s = .next { s with preemptErr := 2 }) ∧
    (Saveable s ctx → saveLen (s.ctx ctx).savearea < saveNeeds (s.ctx ctx) → exec (.preemptSave ctx) s = .next { s with preemptErr := 1 }) ∧
    (Saveable s ctx → saveNeeds (s.ctx ctx) ≤ saveLen (s.ctx ctx).savearea → s.tokenOps = [] → ∀ id tm, s.teams = [(id, tm)] →
      tm.ctx = ctx → tm.saved = false → (∀ gr ∈ tm.groups, gr.held = none ∧ gr.faults = []) →
      ∃ t tm', exec (.preemptSave ctx) s = .next t ∧ t.preempt = some (1, ctx) ∧ t.preemptErr = 0 ∧ (t.ctx ctx).res = .stopping ∧
        (t.ctx ctx).saveAt = s.time ∧ t.mem = s.mem ∧ t.teams = [(id, tm')] ∧ (∀ c ∈ t.copies, c.2.ctx = ctx → c.2.saved = true) ∧
        ∀ g l, g < tm.groups.length → l < tm.w → tm.tid g l < tm.threads.length →
          let x := tm.thread (tm.tid g l)
          let y := tm'.thread (tm.tid g l)
          y.exited = x.exited ∧ y.regs = x.regs ∧ (x.exited = false → y.pc = x.restart ∧ (y.meet = x.restartMeet ∨ y.meet = 0xFFFFFFFF#32)))) ∧
  (∀ s team grp tm, s.team? team = some tm → grp < tm.groups.length →
    ((s.ctx tm.ctx).res ≠ .stopping → exec (.saveResultTimeout team grp) s = .next s) ∧
    ((s.ctx tm.ctx).res = .stopping → tm.saved = false → s.owes team grp (tm.group grp) = true → s.releasing team grp (tm.group grp) = false →
      (tm.group grp).held = none → (s.time.toNat < (s.ctx tm.ctx).saveAt.toNat + 10000 → exec (.saveResultTimeout team grp) s = .next s) ∧
      ((s.ctx tm.ctx).saveAt.toNat + 10000 ≤ s.time.toNat → ∃ t tm', exec (.saveResultTimeout team grp) s = .next t ∧
        t = { s with teams := t.teams } ∧ t.team? team = some tm' ∧ tm'.group grp = { tm.group grp with hold := some .finish }))) ∧
  (∀ s ctx core, s.preempt = some (1, ctx) → (s.ctx ctx).res = .writing → (s.ctx ctx).share = [core] →
    ∃ t, exec (.saveImageWritten core) s = .next t ∧ t.preempt = none ∧ (t.ctx ctx).res = .saved ∧
      (∀ p ∈ t.teams, p.2.ctx = ctx → p.2.saved = true) ∧ (∀ c ∈ t.cores, ∀ e ∈ c.2.slog, e.ctx ≠ ctx) ∧
      (∀ c ∈ s.cores, ∀ e ∈ c.2.slog, e.ctx = ctx → (c.1, e) ∈ (t.ctx ctx).image.slog) ∧
      (∀ r ∈ t.reqs, r.ctx = ctx → r.isStore = true → ∀ cause, r.state ≠ .refused cause) ∧
      let v := (s.ctx ctx).savearea
      ∀ a, a < saveBase v ∨ saveBase v + saveLen v ≤ a → Memory.byte t.mem a = Memory.byte s.mem a) ∧
  ∀ s ctx, s.preempt = none →
    (64 ≤ ctx ∨ (s.ctx ctx).res ≠ .saved → exec (.preemptResume ctx) s = .next { s with preemptErr := 2 }) ∧
    (ctx < 64 → (s.ctx ctx).res = .saved → (s.ctx ctx).image.slog = [] → s.toRetry ctx = [] → s.flows = [] → s.colls = [] → s.answers = [] →
      ((∃ p ∈ s.teams, p.2.ctx = ctx ∧ p.2.saved = true) → ∃ t, exec (.preemptResume ctx) s = .next t ∧ t.preempt = some (2, ctx) ∧
        (t.ctx ctx).res = .resuming ∧ t.teams = s.teams ∧ t.mem = s.mem) ∧
      ((∀ p ∈ s.teams, p.2.ctx = ctx → p.2.saved = false) → ∃ t, exec (.preemptResume ctx) s = .next t ∧ t.preempt = none ∧
        (t.ctx ctx).res = .running ∧ t.teams = s.teams ∧
        ∀ id c, s.copies = [(id, c)] → c.ctx = ctx → t.copies = [(id, { c with saved := false, parked := false })]))

/-! ### Tenants, host and firmware -/

/-- R86, R123, R395 to R406, Tables 21.1 to 21.5: tenants created and reset; the host's window onto a tenant's memory; release of RESET_N,
recovery, measurement, attestation and management messages; thermal limits, wear records and the loss of power. -/
def Obligations.TenantsHostFirmware : Prop :=
  (∀ s ctx map dtag root limit deadline, 0 < ctx → ctx < 64 → map < 2 → limit ≤ 224 → root % 4096 = 0 → root < 2 ^ 51 → dtag < 2 ^ 16 →
    (deadline < 1000 ∨ 10000000 < deadline → exec (.tenantCreate ctx map dtag root limit deadline) s = .next s) ∧
    (s.fw.st = 3 → exec (.tenantCreate ctx map dtag root limit deadline) s = .next s) ∧
    (1000 ≤ deadline → deadline ≤ 10000000 → s.fw.st ≠ 3 → (s.ctx ctx).created = false → CtxStep (.tenantCreate ctx map dtag root limit deadline) s ctx fun x =>
      x = { s.ctx ctx with
        created := true, decode := x.decode, dtag := dtag, root := root, sideLimit := limit, flowDl := BitVec.ofNat 32 deadline } ∧
      ∀ o, x.decode.op true o = (if map = 0 then m3Op o else m2Op o).filter fun op => !isPriv op) ∧
    ((s.ctx ctx).created = true → exec (.tenantCreate ctx map dtag root limit deadline) s = .next s)) ∧
  (∀ s ctx, 0 < ctx → ctx < 64 → (s.ctx ctx).created = true → s.colls = [] → s.flows = [] → ∃ t, exec (.tenantReset ctx) s = .next t ∧
    t.mem = s.mem ∧ t.teams = s.teams.filter (fun p => p.2.ctx ≠ ctx) ∧ t.grids = s.grids.filter (fun p => p.2.ctx ≠ ctx) ∧
    t.copies = s.copies.filter (fun p => p.2.ctx ≠ ctx) ∧ t.mats = s.mats.filter (fun p => p.2.ctx ≠ ctx) ∧
    (∀ i, swCtx (s.sweep i) = ctx → swV (t.sweep i) = false) ∧ (∀ d, d ≠ ctx → t.ctx d = s.ctx d) ∧
    let x := t.ctx ctx
    let c := s.ctx ctx
    x.odometer = c.odometer ∧ x.classes = c.classes ∧ x.ranges = c.ranges ∧ x.decode = c.decode ∧ x.winbase = 0 ∧ x.mbox = [] ∧
      x.intstat = c.intstat ∧ x.resetting = true ∧ (∀ q, (x.queue q).recs = [] ∧ (x.queue q).en = false) ∧
      ∀ e ∈ x.exc, e.total = 0 ∧ e.wcnt = 0 ∧ e.fired = false) ∧
  (∀ s ctx, (s.ctx ctx).resetting = true → CtxIs s (s.resetDone ctx) ctx { s.ctx ctx with resetting := false, intstat := (s.ctx ctx).intstat ||| 8 }) ∧
  (∀ s vf off n, 0 < vf → (s.ctx vf).created = true → windowAccess vf off n = true → s.hostQ = [] → s.outst = [] → s.waitQ = [] →
    let g := (s.ctx vf).winbase.toNat + off
    (rangeHit (s.ctx vf).ranges 0 g = none → (∃ t, exec (.bar2Read vf off n) s = .next t ∧ t = { s with outbox := t.outbox } ∧
        Sends s t (.readReply vf false [])) ∧
      ∀ bs, bs.length = n → exec (.bar2Write vf off bs) s = .next (s.log (.note 3 vf off))) ∧
    ∀ i e, rangeHit (s.ctx vf).ranges 0 g = some (i, e) → rHit e 0 (g + n - 1) = true → rTap e = 0 → AtRest s (rTarget e g) →
      (rRd e = true → ∃ t, exec (.bar2Read vf off n) s = .next t ∧ t = { s with outbox := t.outbox } ∧
        Sends s t (.readReply vf true (bytesFrom s.mem (rTarget e g) n))) ∧
      (rRd e = false → ∃ t, exec (.bar2Read vf off n) s = .next t ∧ t = { s with outbox := t.outbox } ∧ Sends s t (.readReply vf false [])) ∧
      (rWr e = true → ∀ bs, bs.length = n → exec (.bar2Write vf off bs) s =
        .next { s with mem := Memory.write s.mem (rTarget e g) n (leNat bs) }) ∧
      (rWr e = false → ∀ bs, bs.length = n → exec (.bar2Write vf off bs) s = .next (s.log (.note 3 vf off)))) ∧
  (∀ s vf v, 0 < vf → (s.ctx vf).created = true → v.toNat < 2 ^ 51 → CtxStep (.winbaseWrite vf v) s vf fun x =>
    x = { s.ctx vf with winbase := v >>> 36 <<< 36 }) ∧
  (∀ s, s.fw.thermtrip = true → exec .resetNRelease s = .next s) ∧
  (∀ s, s.fw.thermtrip = false → ∃ t, exec .resetNRelease s = .next t ∧ Cold s t ∧ t.fw.flash = flashKept s.fw ∧ t.fw.fuses = s.fw.fuses ∧
    t.fw.powered = true ∧ t.fw.prog = none ∧ let h := imageHeader (flashKept s.fw) 0
    let e := imageError (flashKept s.fw) 0 (2 ^ 29) s.fw.fuses
    t.fw.err = e ∧ t.fw.svn = h.svn % 2 ^ 16 ∧ (e ≠ 0 → t.fw.st = 3 ∧ t.mem = [] ∧ ∀ m ∈ t.fw.m, m = 0) ∧
    (e = 0 → t.fw.st = 2 ∧ t.fw.running = h.svn ∧ ∀ a, Memory.byte t.mem a =
      if Config.carveOut + h.load ≤ a ∧ a < Config.carveOut + h.load + h.len then
        Memory.byte (flashKept s.fw) (4096 + (a - (Config.carveOut + h.load))) else 0)) ∧
  (∀ s len, len ≤ 2 ^ 29 →
    let h := imageHeader s.mem Config.carveOut
    let e := imageError s.mem Config.carveOut len s.fw.fuses
    (s.fw.st ≠ 3 ∨ s.fw.prog ≠ none → exec (.recoveryGo len) s = .next s) ∧
    (s.fw.st = 3 → s.fw.prog = none → e ≠ 0 → exec (.recoveryGo len) s = .next { s with fw := { s.fw with err := e, svn := h.svn % 2 ^ 16 } }) ∧
    (s.fw.st = 3 → s.fw.prog = none → e = 0 → ∃ t, exec (.recoveryGo len) s = .next t ∧ t = { s with fw := t.fw } ∧ t.fw.err = 0 ∧
      t.fw.prog = some (4096 + h.len) ∧ bits t.fw.bootstat 63 56 = 4 ∧ t.fw.erases = s.fw.erases + 1 ∧ ∀ a, Memory.byte t.fw.flash a =
        if a < 4096 + h.len then Memory.byte s.mem (Config.carveOut + a) else 0)) ∧
  (∀ (s : State) n, s.fw.prog = some n →
    let same := ∀ k, k < n → Memory.byte s.fw.flash k = Memory.byte s.mem (Config.carveOut + k)
    (¬same → s.flashStep = { s with fw := { s.fw with prog := none, err := 6 } }) ∧
    (same → s.fw.st ≠ 3 → s.flashStep = { s with fw := { s.fw with prog := none } }) ∧
    (same → s.fw.st = 3 → imageError s.fw.flash 0 (2 ^ 29) s.fw.fuses = 0 → s.flashStep.fw.st = 2 ∧ s.flashStep.fw.prog = none ∧
      s.flashStep.fw.running = (imageHeader s.fw.flash 0).svn)) ∧
  (∀ s i d, (i < 2 ∨ 8 ≤ i → exec (.measurementExtend i d) s = .next s) ∧
    (2 ≤ i → i < 8 → ∃ t, exec (.measurementExtend i d) s = .next t ∧ t = { s with fw := { s.fw with m := t.fw.m } } ∧
      ∀ j : Nat, t.fw.m[j]? = if j = i then (s.fw.m[j]?).map fun x => sha512 (leBytes x.toNat 64 ++ leBytes d.toNat 64)
        else s.fw.m[j]?)) ∧
  (∀ s ctx nonce, ctx = 0 ∨ (s.ctx ctx).created = true → Attests (.attestationRequest ctx nonce) s ctx nonce) ∧
  (∀ s pldm nonce, Attests (.mctpMessage 0x7E pldm nonce) s 0 nonce) ∧
  (∀ s kind (pldm : Pldm) nonce, kind ≠ 0x7E → (kind ≠ 1 ∨ pldm.type ≠ 2 ∧ pldm.type ≠ 5) →
    Replies (.mctpMessage kind pldm nonce) s (.mctp kind pldm.type (decide (kind = 0 ∨ kind = 1 ∧ pldm.type = 0)) [])) ∧
  (∀ s (pldm : Pldm) nonce, pldm.type = 2 →
    (∀ k, k < 292 → pldm.sensor = 0x1000 + k →
      Replies (.mctpMessage 1 pldm nonce) s (.mctp 1 2 true (leBytes (bits (s.fw.wearOf (wearKey k)) 63 48) 4))) ∧
    ∃ v : Word, Replies (.mctpMessage 1 pldm nonce) s (.mctp 1 2 true (leBytes v.toNat 4))) ∧
  (∀ s (pldm : Pldm) nonce, pldm.type = 5 →
    (s.fw.prog ≠ none ∨ s.fw.st ≠ 2 ∧ s.fw.st ≠ 3 → Replies (.mctpMessage 1 pldm nonce) s (.mctp 1 5 true [])) ∧
    (s.fw.prog = none → s.fw.st = 2 ∨ s.fw.st = 3 → pldm.image = [] →
      let h := imageHeader s.mem Config.carveOut
      imageError s.mem Config.carveOut (2 ^ 29) s.fw.fuses = 0 → ∃ t, exec (.mctpMessage 1 pldm nonce) s = .next t ∧
        t = { s with fw := t.fw, outbox := t.outbox } ∧ t.fw.st = s.fw.st ∧ t.fw.prog = some (4096 + h.len) ∧ Sends s t (.mctp 1 5 true []) ∧
        ∀ a, Memory.byte t.fw.flash a = if a < 4096 + h.len then Memory.byte s.mem (Config.carveOut + a) else 0)) ∧
  (∀ s die, exec (.thermalLimit die) s = .next { s with fw := { s.fw with capped := true } } ∧
    ({ s.fw with capped := true } : Firmware).limit = min s.fw.target 1260) ∧
  (∀ s a b c d e, let cool := a < 100 ∧ b < 100 ∧ c < 100 ∧ d < 100 ∧ e < 100
    (cool → exec (.thermalClear [a, b, c, d, e]) s = .next { s with fw := { s.fw with capped := false } } ∧
      ({ s.fw with capped := false } : Firmware).limit = min s.fw.target 1800) ∧
    (¬cool → exec (.thermalClear [a, b, c, d, e]) s = .next s)) ∧
  (∀ s die, exec (.thermtrip die) s = .next { s with fw := { s.fw with thermtrip := true } }) ∧
  (∀ s r, (s.time.toNat < s.fw.wearAt.toNat + 86400000000000 → exec (.wearUpdate [r]) s = .next s) ∧
    (s.fw.wearAt.toNat + 86400000000000 ≤ s.time.toNat → wearOk r = true → ∃ t, exec (.wearUpdate [r]) s = .next t ∧
      t.fw.wearAt = s.time ∧ look t.fw.wear (bits r 31 24 * 2 ^ 16 + bits r 15 0) = some (r &&& ~~~0xFF00FF0000#128) ∧ t.mem = s.mem ∧
      (t.fw.alert = true ↔ s.fw.alert = true ∨ bits r 63 48 < 90) ∧
      (bits r 63 48 < 90 → Sends s t (.pldmWear (bits r 31 24 * 2 ^ 16 + bits r 15 0))))) ∧
  ∀ s, ∃ t, exec .powerLoss s = .next t ∧ Cold s t ∧ t.mem = [] ∧ t.fw.powered = false ∧ t.fw.fuses = s.fw.fuses ∧
    t.fw.flash = flashKept s.fw
end

