-- ==== Sys2Proof/Laws/Sparse.lean ====
section
/-!
SUPPORT. The laws of sparse storage: a read after a write, and that a write keeps the canonical form.
-/

namespace Sys2Proof.Machine

variable {α : Type}

namespace Sparse

theorem get_erase_self (d : α) (m : List (Nat × α)) (a : Nat) : get d (erase m a) a = d := by
  induction m with
  | nil => rfl
  | cons c r ih =>
    obtain ⟨k, v⟩ := c
    by_cases h : k = a
    · simpa [erase, h] using ih
    · have h' : ¬ a = k := fun e => h e.symm
      simpa [erase, h, get, h'] using ih

theorem get_erase_other (d : α) (m : List (Nat × α)) {a b : Nat} (hb : b ≠ a) :
    get d (erase m a) b = get d m b := by
  induction m with
  | nil => rfl
  | cons c r ih =>
    obtain ⟨k, v⟩ := c
    by_cases h : k = a
    · subst h
      simpa [erase, get, hb] using ih
    · by_cases hk : b = k
      · simp [erase, h, get, hk]
      · simpa [erase, h, get, hk] using ih

theorem get_insert_other (d : α) (m : List (Nat × α)) {a b : Nat} (v : α) (hb : b ≠ a) :
    get d (insert m a v) b = get d m b := by
  induction m with
  | nil => simp [insert, get, hb]
  | cons c r ih =>
    obtain ⟨k, x⟩ := c
    by_cases h : a < k
    · simp [insert, h, get, hb]
    · by_cases hk : b = k <;> simp [insert, h, get, hk, ih]

theorem get_insert_self (d : α) (m : List (Nat × α)) (a : Nat) (v : α) :
    get d (insert (erase m a) a v) a = v := by
  induction m with
  | nil => simp [erase, insert, get]
  | cons c r ih =>
    obtain ⟨k, x⟩ := c
    by_cases h : k = a
    · simpa [erase, h] using ih
    · have hne : ¬ a = k := fun e => h e.symm
      by_cases hk : a < k
      · simp [erase, h, insert, hk, get]
      · have : erase ((k, x) :: r) a = (k, x) :: erase r a := by simp [erase, h]
        simp [this, insert, hk, get, hne, ih]

/-- A read after a write to the same key gives the value written. -/
@[simp] theorem get_set_self [DecidableEq α] (d : α) (m : List (Nat × α)) (a : Nat) (v : α) :
    get d (set d m a v) a = v := by
  unfold set
  split
  · next h => rw [h]; exact get_erase_self d m a
  · exact get_insert_self d m a v

/-- A write leaves every other key alone. -/
theorem get_set_other [DecidableEq α] (d : α) (m : List (Nat × α)) {a b : Nat} (v : α) (hb : b ≠ a) :
    get d (set d m a v) b = get d m b := by
  unfold set
  split
  · exact get_erase_other d m hb
  · rw [get_insert_other d _ v hb, get_erase_other d m hb]

theorem mem_insert (m : List (Nat × α)) (a : Nat) (v : α) (c : Nat × α) :
    c ∈ insert m a v ↔ c = (a, v) ∨ c ∈ m := by
  induction m with
  | nil => simp [insert]
  | cons x r ih =>
    by_cases h : a < x.1
    · simp [insert, h]
    · simp [insert, h, ih]; tauto

theorem pairwise_insert (m : List (Nat × α)) (a : Nat) (v : α)
    (hp : m.Pairwise (fun x y => x.1 < y.1)) (ha : ∀ c ∈ m, c.1 ≠ a) :
    (insert m a v).Pairwise (fun x y => x.1 < y.1) := by
  induction m with
  | nil => simp [insert]
  | cons x r ih =>
    rw [List.pairwise_cons] at hp
    have hx : x.1 ≠ a := ha x (by simp)
    by_cases h : a < x.1
    · simp only [insert, h, if_true, List.pairwise_cons, List.mem_cons]
      refine ⟨?_, hp.1, hp.2⟩
      rintro c (rfl | hc)
      · exact h
      · exact Nat.lt_trans h (hp.1 c hc)
    · have hr := ih hp.2 (fun c hc => ha c (by simp [hc]))
      simp only [insert, h, if_false, List.pairwise_cons]
      refine ⟨fun c hc => ?_, hr⟩
      rcases (mem_insert r a v c).1 hc with rfl | hc
      · show x.1 < a
        omega
      · exact hp.1 c hc

/-- A write keeps the canonical form. -/
theorem wf_set [DecidableEq α] (d : α) (m : List (Nat × α)) (a : Nat) (v : α) (h : WF d m) :
    WF d (set d m a v) := by
  have he : WF d (erase m a) :=
    ⟨h.1.sublist List.filter_sublist, fun c hc => h.2 c (List.mem_filter.1 hc).1⟩
  unfold set
  split
  · exact he
  · next hv =>
    refine ⟨pairwise_insert _ _ _ he.1 ?_, ?_⟩
    · intro c hc
      have := (List.mem_filter.1 hc).2
      simpa using this
    · intro c hc
      rcases (mem_insert _ _ _ _).1 hc with rfl | hc
      · exact hv
      · exact he.2 c hc

theorem wf_nil (d : α) : WF d ([] : List (Nat × α)) := ⟨List.Pairwise.nil, by simp⟩

end Sparse

theorem look_erase_self (m : List (Nat × α)) (a : Nat) : look (Sparse.erase m a) a = none := by
  induction m with
  | nil => rfl
  | cons c r ih =>
    obtain ⟨k, v⟩ := c
    by_cases h : k = a
    · simpa [Sparse.erase, h] using ih
    · have h' : ¬ a = k := fun e => h e.symm
      simpa [Sparse.erase, h, look, h'] using ih

/-- The record read back after it was stored. -/
@[simp] theorem look_put_self (m : List (Nat × α)) (a : Nat) (v : α) : look (put m a v) a = some v := by
  unfold put
  induction m with
  | nil => simp [Sparse.erase, Sparse.insert, look]
  | cons c r ih =>
    obtain ⟨k, x⟩ := c
    by_cases h : k = a
    · simpa [Sparse.erase, h] using ih
    · have hne : ¬ a = k := fun e => h e.symm
      have he : Sparse.erase ((k, x) :: r) a = (k, x) :: Sparse.erase r a := by simp [Sparse.erase, h]
      by_cases hk : a < k
      · simp [he, Sparse.insert, hk, look]
      · simp [he, Sparse.insert, hk, look, hne, ih]

/-- Storing a record leaves the records of other keys alone. -/
theorem look_put_other (m : List (Nat × α)) {a b : Nat} (v : α) (hb : b ≠ a) :
    look (put m a v) b = look m b := by
  have h1 : ∀ m : List (Nat × α), look (Sparse.insert m a v) b = look m b := by
    intro m
    induction m with
    | nil => simp [Sparse.insert, look, hb]
    | cons c r ih =>
      obtain ⟨k, x⟩ := c
      by_cases h : a < k
      · simp [Sparse.insert, h, look, hb]
      · by_cases hk : b = k <;> simp [Sparse.insert, h, look, hk, ih]
  have h2 : ∀ m : List (Nat × α), look (Sparse.erase m a) b = look m b := by
    intro m
    induction m with
    | nil => rfl
    | cons c r ih =>
      obtain ⟨k, x⟩ := c
      by_cases h : k = a
      · subst h
        simpa [Sparse.erase, look, hb] using ih
      · by_cases hk : b = k
        · simp [Sparse.erase, h, look, hk]
        · simpa [Sparse.erase, h, look, hk] using ih
  rw [put, h1, h2]

end Sys2Proof.Machine
end

