-- ==== Sys2Proof/Laws/Memory.lean ====
section
/-!
SUPPORT. The laws of byte stores (R4, R84): a read after a write to the same bytes gives the value written, a write leaves every
other byte alone, and every operation keeps the canonical form.
-/

namespace Sys2Proof.Machine

@[simp] theorem Memory.byte_setByte_self (m : List Host.Cell) (a : Nat) (b : Byte) :
    Memory.byte (Memory.setByte m a b) a = b := Sparse.get_set_self 0 m a b

theorem Memory.byte_setByte_other (m : List Host.Cell) {a c : Nat} (b : Byte) (h : c ≠ a) :
    Memory.byte (Memory.setByte m a b) c = Memory.byte m c := Sparse.get_set_other 0 m b h

theorem Memory.wf_setByte (m : List Host.Cell) (a : Nat) (b : Byte) (h : Memory.wf m) : Memory.wf (Memory.setByte m a b) :=
  Sparse.wf_set 0 m a b h

theorem Memory.wf_write (m : List Host.Cell) (a n v : Nat) (h : Memory.wf m) : Memory.wf (Memory.write m a n v) := by
  induction n generalizing m a v with
  | zero => exact h
  | succ n ih => exact ih _ _ _ (Memory.wf_setByte m a _ h)

/-- Bytes put one after another, as a write of a peer or of the host does. -/
theorem Memory.wf_setBytes (m : List Host.Cell) (pa : Nat) (bs : List (Nat × Byte)) (h : Memory.wf m) :
    Memory.wf (bs.foldl (fun m b => Memory.setByte m (pa + b.1) b.2) m) := by
  induction bs generalizing m with
  | nil => exact h
  | cons b r ih => exact ih _ (Memory.wf_setByte m _ _ h)

theorem State.wf_reset : Memory.wf State.reset.mem := Sparse.wf_nil 0

/-- Every byte after a write: those written, little-endian, and all others as before. -/
theorem Memory.byte_write (m : List Host.Cell) (a n v b : Nat) :
    Memory.byte (Memory.write m a n v) b = if a ≤ b ∧ b < a + n then byteOf v (b - a) else Memory.byte m b := by
  induction n generalizing m a v with
  | zero => simp [Memory.write]
  | succ n ih =>
    rw [Memory.write, ih]
    by_cases hb : b = a
    · subst hb
      rw [if_neg (by omega), if_pos (by omega)]
      simp [byteOf]
    · rw [Memory.byte_setByte_other m _ hb]
      by_cases hc : a ≤ b ∧ b < a + (n + 1)
      · rw [if_pos (by omega), if_pos hc]
        have : b - a = (b - (a + 1)) + 1 := by omega
        simp only [byteOf, this, Nat.pow_succ', Nat.div_div_eq_div_mul]
      · rw [if_neg (by omega), if_neg hc]

theorem Memory.read_congr (m k : List Host.Cell) (a n : Nat) (h : ∀ b, a ≤ b → b < a + n → Memory.byte m b = Memory.byte k b) :
    Memory.read m a n = Memory.read k a n := by
  induction n generalizing a with
  | zero => rfl
  | succ n ih =>
    rw [Memory.read, Memory.read, h a (Nat.le_refl a) (by omega), ih (a + 1) fun b hb hc => h b (by omega) (by omega)]

/-- A read after a write to the same bytes. -/
theorem Memory.read_write_self (m : List Host.Cell) (a n v : Nat) : Memory.read (Memory.write m a n v) a n = v % 256 ^ n := by
  induction n generalizing m a v with
  | zero => simp [Memory.read, Nat.mod_one]
  | succ n ih =>
    rw [Memory.read, Memory.byte_write, if_pos (by omega), Memory.write, ih]
    have hb : (byteOf v (a - a)).toNat = v % 256 := by simp [byteOf]
    rw [hb, Nat.pow_succ', Nat.mod_mul]

/-- A read of bytes that a write does not reach. -/
theorem Memory.read_write_other (m : List Host.Cell) (a n v b k : Nat) (h : b + k ≤ a ∨ a + n ≤ b) :
    Memory.read (Memory.write m a n v) b k = Memory.read m b k :=
  Memory.read_congr _ _ _ _ fun c hc hd => by rw [Memory.byte_write, if_neg (by omega)]

theorem Memory.read_lt (m : List Host.Cell) (a n : Nat) : Memory.read m a n < 256 ^ n := by
  induction n generalizing a with
  | zero => simp [Memory.read]
  | succ n ih =>
    rw [Memory.read, Nat.pow_succ]
    have := (Memory.byte m a).isLt
    have := ih (a + 1)
    omega

end Sys2Proof.Machine
end

