-- ==== Sys2Proof/Laws/State.lean ====
section
/-!
SUPPORT. What the state, a team, a group, a thread and a register read after one update: one small lemma for each field and each update.
-/

namespace Sys2Proof.Machine

/-! ### Lists -/

theorem getD_setAt {α : Type} (d v : α) (l : List α) (i j : Nat) :
    (setAt l i v).getD j d = if j = i ∧ i < l.length then v else l.getD j d := by
  induction l generalizing i j with
  | nil => simp [setAt]
  | cons x r ih =>
    cases i with
    | zero => cases j <;> simp [setAt]
    | succ n =>
      cases j with
      | zero => simp [setAt]
      | succ m => simpa [setAt] using ih n m

@[simp] theorem length_setAt {α : Type} (v : α) (l : List α) (i : Nat) : (setAt l i v).length = l.length := by
  induction l generalizing i with
  | nil => rfl
  | cons x r ih => cases i <;> simp [setAt, ih]

theorem getD_updAt {α : Type} (d : α) (f : α → α) (l : List α) (i j : Nat) :
    (updAt l i f).getD j d = if j = i ∧ i < l.length then f (l.getD i d) else l.getD j d := by
  induction l generalizing i j with
  | nil => simp [updAt]
  | cons x r ih =>
    cases i with
    | zero => cases j <;> simp [updAt]
    | succ n =>
      cases j with
      | zero => simp [updAt]
      | succ m => simpa [updAt] using ih n m

@[simp] theorem length_updAt {α : Type} (f : α → α) (l : List α) (i : Nat) : (updAt l i f).length = l.length := by
  induction l generalizing i with
  | nil => rfl
  | cons x r ih => cases i <;> simp [updAt, ih]

/-! ### Teams -/

namespace Team

theorem group_setGroup (tm : Team) (g j : Nat) (x : Group) :
    (tm.setGroup g x).group j = if j = g ∧ g < tm.groups.length then x else tm.group j := getD_setAt _ x _ g j

@[simp] theorem threads_setGroup (tm : Team) (g : Nat) (x : Group) : (tm.setGroup g x).threads = tm.threads := rfl
@[simp] theorem thread_setGroup (tm : Team) (g j : Nat) (x : Group) : (tm.setGroup g x).thread j = tm.thread j := rfl
@[simp] theorem w_setGroup (tm : Team) (g : Nat) (x : Group) : (tm.setGroup g x).w = tm.w := rfl
@[simp] theorem length_setGroup (tm : Team) (g : Nat) (x : Group) : (tm.setGroup g x).groups.length = tm.groups.length := by
  simp [setGroup]

theorem group_updGroup (tm : Team) (g j : Nat) (f : Group → Group) :
    (tm.updGroup g f).group j = if j = g ∧ g < tm.groups.length then f (tm.group g) else tm.group j :=
  group_setGroup tm g j _

theorem group_updGroup_self (tm : Team) (g : Nat) (f : Group → Group) (h : g < tm.groups.length) :
    (tm.updGroup g f).group g = f (tm.group g) := by rw [group_updGroup, if_pos ⟨rfl, h⟩]

theorem group_updGroup_other (tm : Team) {g j : Nat} (f : Group → Group) (h : j ≠ g) :
    (tm.updGroup g f).group j = tm.group j := by rw [group_updGroup, if_neg (fun x => h x.1)]

@[simp] theorem threads_updGroup (tm : Team) (g : Nat) (f : Group → Group) : (tm.updGroup g f).threads = tm.threads := rfl
@[simp] theorem thread_updGroup (tm : Team) (g j : Nat) (f : Group → Group) : (tm.updGroup g f).thread j = tm.thread j := rfl
@[simp] theorem w_updGroup (tm : Team) (g : Nat) (f : Group → Group) : (tm.updGroup g f).w = tm.w := rfl
@[simp] theorem length_updGroup (tm : Team) (g : Nat) (f : Group → Group) :
    (tm.updGroup g f).groups.length = tm.groups.length := length_setGroup tm g _

theorem thread_updThread (tm : Team) (t j : Nat) (f : Thread → Thread) :
    (tm.updThread t f).thread j = if j = t ∧ t < tm.threads.length then f (tm.thread t) else tm.thread j :=
  getD_updAt _ f _ t j

@[simp] theorem group_updThread (tm : Team) (t j : Nat) (f : Thread → Thread) : (tm.updThread t f).group j = tm.group j := rfl
@[simp] theorem groups_updThread (tm : Team) (t : Nat) (f : Thread → Thread) : (tm.updThread t f).groups = tm.groups := rfl
@[simp] theorem w_updThread (tm : Team) (t : Nat) (f : Thread → Thread) : (tm.updThread t f).w = tm.w := rfl
@[simp] theorem length_updThread (tm : Team) (t : Nat) (f : Thread → Thread) :
    (tm.updThread t f).threads.length = tm.threads.length := length_updAt _ _ _

theorem thread_updLanes (tm : Team) (g j : Nat) (f : Nat → Thread → Thread) :
    (tm.updLanes g f).thread j =
      if j < tm.threads.length ∧ j / tm.w = g then f (j % tm.w) (tm.thread j) else tm.thread j := by
  simp only [updLanes, thread, List.getD_eq_getElem?_getD, List.getElem?_mapIdx]
  by_cases h : j < tm.threads.length
  · simp [h]
  · simp [h]

@[simp] theorem group_updLanes (tm : Team) (g j : Nat) (f : Nat → Thread → Thread) : (tm.updLanes g f).group j = tm.group j := rfl
@[simp] theorem groups_updLanes (tm : Team) (g : Nat) (f : Nat → Thread → Thread) : (tm.updLanes g f).groups = tm.groups := rfl
@[simp] theorem w_updLanes (tm : Team) (g : Nat) (f : Nat → Thread → Thread) : (tm.updLanes g f).w = tm.w := rfl
@[simp] theorem length_updLanes (tm : Team) (g : Nat) (f : Nat → Thread → Thread) :
    (tm.updLanes g f).threads.length = tm.threads.length := by simp [updLanes]

/-- The lane of a thread of a group, back from its index. -/
theorem tid_inj (tm : Team) {g l m : Nat} (h : tm.tid g l = tm.tid g m) : l = m := by
  simp only [tid] at h; omega

theorem tid_div (tm : Team) {g l : Nat} (h : l < tm.w) : tm.tid g l / tm.w = g := by
  rw [tid, Nat.add_comm, Nat.add_mul_div_right _ _ (by omega), Nat.div_eq_of_lt h, Nat.zero_add]

theorem tid_mod (tm : Team) {g l : Nat} (h : l < tm.w) : tm.tid g l % tm.w = l := by
  rw [tid, Nat.add_comm, Nat.add_mul_mod_self_right, Nat.mod_eq_of_lt h]

end Team

/-! ### The state -/

theorem State.team?_setTeam_self (s : State) (id : Nat) (tm : Team) : (s.setTeam id tm).team? id = some tm :=
  look_put_self _ _ _

theorem State.team?_setTeam_other (s : State) {id j : Nat} (tm : Team) (h : j ≠ id) : (s.setTeam id tm).team? j = s.team? j :=
  look_put_other _ _ h

theorem State.updTeam_of (s : State) {id : Nat} {tm : Team} (h : s.team? id = some tm) (f : Team → Team) :
    s.updTeam id f = s.setTeam id (f tm) := by simp [State.updTeam, h]

theorem State.updTeam_setTeam (s : State) (id : Nat) (tm : Team) (f : Team → Team) :
    (s.setTeam id tm).updTeam id f = (s.setTeam id tm).setTeam id (f tm) := State.updTeam_of _ (State.team?_setTeam_self ..) f

theorem put_put {α : Type} (m : List (Nat × α)) (a : Nat) (v x : α) : put (put m a v) a x = put m a x := by
  have he : ∀ m : List (Nat × α), (∀ c ∈ m, c.1 ≠ a) → Sparse.erase (Sparse.insert m a v) a = m := by
    intro m
    induction m with
    | nil => simp [Sparse.insert, Sparse.erase]
    | cons c r ih =>
      intro h
      have hc : c.1 ≠ a := h c (by simp)
      have hr : Sparse.erase r a = r := List.filter_eq_self.2 fun d hd => by simp [h d (by simp [hd])]
      simp only [Sparse.insert]
      split
      · simp only [Sparse.erase] at hr ⊢
        simp [hc, hr]
      · have := ih fun d hd => h d (by simp [hd])
        simp only [Sparse.erase] at this ⊢
        simp [hc, this]
  have h2 : ∀ c ∈ Sparse.erase m a, c.1 ≠ a := fun c hc => by simpa using (List.mem_filter.1 hc).2
  rw [put, put, he _ h2]; rfl

theorem State.setTeam_setTeam (s : State) (id : Nat) (a b : Team) : (s.setTeam id a).setTeam id b = s.setTeam id b := by
  simp [State.setTeam, put_put]

/-! ### One field and one update of the state -/

namespace State

theorem ctx_setCtx (s : State) (c d : Nat) (x : Ctx) : (s.setCtx c x).ctx d = if d = c then x else s.ctx d := by
  by_cases h : d = c
  · subst h; simp [setCtx, ctx, look_put_self]
  · simp [setCtx, ctx, look_put_other _ _ h, h]

theorem core_updCore (s : State) (c d : Nat) (f : Core → Core) : (s.updCore c f).core d = if d = c then f (s.core c) else s.core d := by
  by_cases h : d = c
  · subst h; simp [updCore, core, look_put_self]
  · simp [updCore, core, look_put_other _ _ h, h]

theorem flow_setFlow (s : State) (k j : Nat) (e : FlowEnd) : (s.setFlow k e).flow j = if j = k then e else s.flow j := by
  by_cases h : j = k
  · subst h; simp [setFlow, flow, look_put_self]
  · simp [setFlow, flow, look_put_other _ _ h, h]

@[simp] theorem ctxs_setTeam (s : State) (id : Nat) (tm : Team) : (s.setTeam id tm).ctxs = s.ctxs := rfl
@[simp] theorem cores_setTeam (s : State) (id : Nat) (tm : Team) : (s.setTeam id tm).cores = s.cores := rfl
@[simp] theorem ports_setTeam (s : State) (id : Nat) (tm : Team) : (s.setTeam id tm).ports = s.ports := rfl
@[simp] theorem flows_setTeam (s : State) (id : Nat) (tm : Team) : (s.setTeam id tm).flows = s.flows := rfl
@[simp] theorem mem_setTeam (s : State) (id : Nat) (tm : Team) : (s.setTeam id tm).mem = s.mem := rfl
@[simp] theorem reqs_setTeam (s : State) (id : Nat) (tm : Team) : (s.setTeam id tm).reqs = s.reqs := rfl
@[simp] theorem outbox_setTeam (s : State) (id : Nat) (tm : Team) : (s.setTeam id tm).outbox = s.outbox := rfl
@[simp] theorem time_setTeam (s : State) (id : Nat) (tm : Team) : (s.setTeam id tm).time = s.time := rfl
@[simp] theorem hostQ_setTeam (s : State) (id : Nat) (tm : Team) : (s.setTeam id tm).hostQ = s.hostQ := rfl
@[simp] theorem answers_setTeam (s : State) (id : Nat) (tm : Team) : (s.setTeam id tm).answers = s.answers := rfl
@[simp] theorem ptp_setTeam (s : State) (id : Nat) (tm : Team) : (s.setTeam id tm).ptp = s.ptp := rfl
@[simp] theorem kparts_setTeam (s : State) (id : Nat) (tm : Team) : (s.setTeam id tm).kparts = s.kparts := rfl

@[simp] theorem teams_setCtx (s : State) (c : Nat) (x : Ctx) : (s.setCtx c x).teams = s.teams := rfl
@[simp] theorem cores_setCtx (s : State) (c : Nat) (x : Ctx) : (s.setCtx c x).cores = s.cores := rfl
@[simp] theorem ports_setCtx (s : State) (c : Nat) (x : Ctx) : (s.setCtx c x).ports = s.ports := rfl
@[simp] theorem flows_setCtx (s : State) (c : Nat) (x : Ctx) : (s.setCtx c x).flows = s.flows := rfl
@[simp] theorem mem_setCtx (s : State) (c : Nat) (x : Ctx) : (s.setCtx c x).mem = s.mem := rfl
@[simp] theorem reqs_setCtx (s : State) (c : Nat) (x : Ctx) : (s.setCtx c x).reqs = s.reqs := rfl
@[simp] theorem outbox_setCtx (s : State) (c : Nat) (x : Ctx) : (s.setCtx c x).outbox = s.outbox := rfl
@[simp] theorem time_setCtx (s : State) (c : Nat) (x : Ctx) : (s.setCtx c x).time = s.time := rfl
@[simp] theorem hostQ_setCtx (s : State) (c : Nat) (x : Ctx) : (s.setCtx c x).hostQ = s.hostQ := rfl
@[simp] theorem answers_setCtx (s : State) (c : Nat) (x : Ctx) : (s.setCtx c x).answers = s.answers := rfl
@[simp] theorem ptp_setCtx (s : State) (c : Nat) (x : Ctx) : (s.setCtx c x).ptp = s.ptp := rfl
@[simp] theorem kparts_setCtx (s : State) (c : Nat) (x : Ctx) : (s.setCtx c x).kparts = s.kparts := rfl

@[simp] theorem teams_updCore (s : State) (c : Nat) (f : Core → Core) : (s.updCore c f).teams = s.teams := rfl
@[simp] theorem ctxs_updCore (s : State) (c : Nat) (f : Core → Core) : (s.updCore c f).ctxs = s.ctxs := rfl
@[simp] theorem ports_updCore (s : State) (c : Nat) (f : Core → Core) : (s.updCore c f).ports = s.ports := rfl
@[simp] theorem flows_updCore (s : State) (c : Nat) (f : Core → Core) : (s.updCore c f).flows = s.flows := rfl
@[simp] theorem mem_updCore (s : State) (c : Nat) (f : Core → Core) : (s.updCore c f).mem = s.mem := rfl
@[simp] theorem reqs_updCore (s : State) (c : Nat) (f : Core → Core) : (s.updCore c f).reqs = s.reqs := rfl
@[simp] theorem outbox_updCore (s : State) (c : Nat) (f : Core → Core) : (s.updCore c f).outbox = s.outbox := rfl
@[simp] theorem time_updCore (s : State) (c : Nat) (f : Core → Core) : (s.updCore c f).time = s.time := rfl
@[simp] theorem hostQ_updCore (s : State) (c : Nat) (f : Core → Core) : (s.updCore c f).hostQ = s.hostQ := rfl
@[simp] theorem answers_updCore (s : State) (c : Nat) (f : Core → Core) : (s.updCore c f).answers = s.answers := rfl
@[simp] theorem ptp_updCore (s : State) (c : Nat) (f : Core → Core) : (s.updCore c f).ptp = s.ptp := rfl
@[simp] theorem kparts_updCore (s : State) (c : Nat) (f : Core → Core) : (s.updCore c f).kparts = s.kparts := rfl

@[simp] theorem teams_updPort (s : State) (p : Nat) (f : Port → Port) : (s.updPort p f).teams = s.teams := rfl
@[simp] theorem ctxs_updPort (s : State) (p : Nat) (f : Port → Port) : (s.updPort p f).ctxs = s.ctxs := rfl
@[simp] theorem cores_updPort (s : State) (p : Nat) (f : Port → Port) : (s.updPort p f).cores = s.cores := rfl
@[simp] theorem flows_updPort (s : State) (p : Nat) (f : Port → Port) : (s.updPort p f).flows = s.flows := rfl
@[simp] theorem mem_updPort (s : State) (p : Nat) (f : Port → Port) : (s.updPort p f).mem = s.mem := rfl
@[simp] theorem reqs_updPort (s : State) (p : Nat) (f : Port → Port) : (s.updPort p f).reqs = s.reqs := rfl
@[simp] theorem outbox_updPort (s : State) (p : Nat) (f : Port → Port) : (s.updPort p f).outbox = s.outbox := rfl
@[simp] theorem time_updPort (s : State) (p : Nat) (f : Port → Port) : (s.updPort p f).time = s.time := rfl
@[simp] theorem hostQ_updPort (s : State) (p : Nat) (f : Port → Port) : (s.updPort p f).hostQ = s.hostQ := rfl
@[simp] theorem answers_updPort (s : State) (p : Nat) (f : Port → Port) : (s.updPort p f).answers = s.answers := rfl
@[simp] theorem ptp_updPort (s : State) (p : Nat) (f : Port → Port) : (s.updPort p f).ptp = s.ptp := rfl
@[simp] theorem kparts_updPort (s : State) (p : Nat) (f : Port → Port) : (s.updPort p f).kparts = s.kparts := rfl

@[simp] theorem teams_setFlow (s : State) (k : Nat) (e : FlowEnd) : (s.setFlow k e).teams = s.teams := rfl
@[simp] theorem ctxs_setFlow (s : State) (k : Nat) (e : FlowEnd) : (s.setFlow k e).ctxs = s.ctxs := rfl
@[simp] theorem cores_setFlow (s : State) (k : Nat) (e : FlowEnd) : (s.setFlow k e).cores = s.cores := rfl
@[simp] theorem ports_setFlow (s : State) (k : Nat) (e : FlowEnd) : (s.setFlow k e).ports = s.ports := rfl
@[simp] theorem mem_setFlow (s : State) (k : Nat) (e : FlowEnd) : (s.setFlow k e).mem = s.mem := rfl
@[simp] theorem reqs_setFlow (s : State) (k : Nat) (e : FlowEnd) : (s.setFlow k e).reqs = s.reqs := rfl
@[simp] theorem outbox_setFlow (s : State) (k : Nat) (e : FlowEnd) : (s.setFlow k e).outbox = s.outbox := rfl
@[simp] theorem time_setFlow (s : State) (k : Nat) (e : FlowEnd) : (s.setFlow k e).time = s.time := rfl
@[simp] theorem hostQ_setFlow (s : State) (k : Nat) (e : FlowEnd) : (s.setFlow k e).hostQ = s.hostQ := rfl
@[simp] theorem answers_setFlow (s : State) (k : Nat) (e : FlowEnd) : (s.setFlow k e).answers = s.answers := rfl
@[simp] theorem ptp_setFlow (s : State) (k : Nat) (e : FlowEnd) : (s.setFlow k e).ptp = s.ptp := rfl
@[simp] theorem kparts_setFlow (s : State) (k : Nat) (e : FlowEnd) : (s.setFlow k e).kparts = s.kparts := rfl

@[simp] theorem teams_log (s : State) (e : LogEntry) : (s.log e).teams = s.teams := rfl
@[simp] theorem ctxs_log (s : State) (e : LogEntry) : (s.log e).ctxs = s.ctxs := rfl
@[simp] theorem cores_log (s : State) (e : LogEntry) : (s.log e).cores = s.cores := rfl
@[simp] theorem ports_log (s : State) (e : LogEntry) : (s.log e).ports = s.ports := rfl
@[simp] theorem flows_log (s : State) (e : LogEntry) : (s.log e).flows = s.flows := rfl
@[simp] theorem mem_log (s : State) (e : LogEntry) : (s.log e).mem = s.mem := rfl
@[simp] theorem reqs_log (s : State) (e : LogEntry) : (s.log e).reqs = s.reqs := rfl
@[simp] theorem outbox_log (s : State) (e : LogEntry) : (s.log e).outbox = s.outbox := rfl
@[simp] theorem time_log (s : State) (e : LogEntry) : (s.log e).time = s.time := rfl
@[simp] theorem hostQ_log (s : State) (e : LogEntry) : (s.log e).hostQ = s.hostQ := rfl
@[simp] theorem answers_log (s : State) (e : LogEntry) : (s.log e).answers = s.answers := rfl
@[simp] theorem ptp_log (s : State) (e : LogEntry) : (s.log e).ptp = s.ptp := rfl
@[simp] theorem kparts_log (s : State) (e : LogEntry) : (s.log e).kparts = s.kparts := rfl

@[simp] theorem teams_raise (s : State) (e : KEvent) : (s.raise e).teams = s.teams := rfl
@[simp] theorem ctxs_raise (s : State) (e : KEvent) : (s.raise e).ctxs = s.ctxs := rfl
@[simp] theorem cores_raise (s : State) (e : KEvent) : (s.raise e).cores = s.cores := rfl
@[simp] theorem ports_raise (s : State) (e : KEvent) : (s.raise e).ports = s.ports := rfl
@[simp] theorem flows_raise (s : State) (e : KEvent) : (s.raise e).flows = s.flows := rfl
@[simp] theorem mem_raise (s : State) (e : KEvent) : (s.raise e).mem = s.mem := rfl
@[simp] theorem reqs_raise (s : State) (e : KEvent) : (s.raise e).reqs = s.reqs := rfl
@[simp] theorem outbox_raise (s : State) (e : KEvent) : (s.raise e).outbox = s.outbox := rfl
@[simp] theorem time_raise (s : State) (e : KEvent) : (s.raise e).time = s.time := rfl
@[simp] theorem hostQ_raise (s : State) (e : KEvent) : (s.raise e).hostQ = s.hostQ := rfl
@[simp] theorem answers_raise (s : State) (e : KEvent) : (s.raise e).answers = s.answers := rfl
@[simp] theorem ptp_raise (s : State) (e : KEvent) : (s.raise e).ptp = s.ptp := rfl
@[simp] theorem kparts_raise (s : State) (e : KEvent) : (s.raise e).kparts = s.kparts := rfl

end State

/-! ### Registers of a lane -/

namespace LaneRegs

@[simp] theorem vec_setVec_self (r : LaneRegs) (n : Nat) (x : Word) : (r.setVec n x).vec n = x := Sparse.get_set_self ..

theorem vec_setVec_other (r : LaneRegs) {n m : Nat} (x : Word) (h : m ≠ n) : (r.setVec n x).vec m = r.vec m :=
  Sparse.get_set_other _ _ _ h

@[simp] theorem pred_setVec (r : LaneRegs) (n m : Nat) (x : Word) : (r.setVec n x).pred m = r.pred m := rfl

@[simp] theorem vec_setPred (r : LaneRegs) (n m : Nat) (b : Bool) : (r.setPred n b).vec m = r.vec m := by
  unfold setPred; split <;> rfl

@[simp] theorem pred_zero (r : LaneRegs) : r.pred 0 = true := rfl

theorem bit_of_pow : ∀ n, n < 8 → ∀ m, m < 8 → (BitVec.ofNat 8 (2 ^ n)).getLsbD m = decide (m = n) := by decide

theorem pred_setPred_self (r : LaneRegs) {n : Nat} (b : Bool) (h0 : n ≠ 0) (h : n < 8) : (r.setPred n b).pred n = b := by
  have hb : (BitVec.ofNat 8 (2 ^ n)).getLsbD n = true := by rw [bit_of_pow n h n h]; simp
  have hz : (n == 0) = false := by simp [h0]
  unfold setPred pred
  rw [if_neg h0]
  generalize BitVec.ofNat 8 (2 ^ n) = y at hb
  cases b <;> simp [hb, hz]

theorem pred_setPred_other (r : LaneRegs) {n m : Nat} (b : Bool) (h : n < 8) (hm : m ≠ n) : (r.setPred n b).pred m = r.pred m := by
  by_cases h0 : n = 0
  · simp [setPred, h0]
  unfold setPred pred
  rw [if_neg h0]
  by_cases h8 : m < 8
  · have hb : (BitVec.ofNat 8 (2 ^ n)).getLsbD m = false := by rw [bit_of_pow n h m h8]; simp [hm]
    generalize BitVec.ofNat 8 (2 ^ n) = y at hb
    cases b
    · simp only [Bool.false_eq_true, if_false, BitVec.getLsbD_and, BitVec.getLsbD_not, hb, h8, decide_true, Bool.not_false, Bool.and_true]
    · simp [BitVec.getLsbD_or, hb]
  · have hz : ∀ x : BitVec 8, x.getLsbD m = false := fun x => BitVec.getLsbD_of_ge x m (by omega)
    simp only [hz]

end LaneRegs

end Sys2Proof.Machine
end

