-- ==== Sys2Proof/Laws/Ops.lean ====
section
/-!
SUPPORT. What the shared operations of register instructions do, said once: register writes, retirement, the common course of a
register instruction and of a compare.
-/

namespace Sys2Proof.Machine

/-! ### Register writes -/

/-- A write that names a register the group has. -/
def RegRef.Valid (tm : Team) (g : Nat) : RegRef → Prop
  | .v l _ => tm.tid g l < tm.threads.length
  | .s _ => g < tm.groups.length
  | .p l n => tm.tid g l < tm.threads.length ∧ n < 8

/-- A write to a lane that the group has, or to a scalar register. -/
def RegRef.Mine (w : Nat) : RegRef → Prop
  | .v l _ | .p l _ => l < w
  | .s _ => True

/-- A predicate is written with 0 or 1. -/
def RegRef.Takes (r : RegRef) (x : Word) : Prop :=
  match r with
  | .p _ _ => x = 0 ∨ x = 1
  | _ => True

namespace Team

/-- The parts of a team that register writes keep. -/
structure KeepsRegs (a b : Team) (g : Nat) : Prop where
  rest : b = { a with threads := b.threads, groups := b.groups }
  threads : b.threads.length = a.threads.length
  groups : b.groups.length = a.groups.length
  group : ∀ j, j ≠ g → b.group j = a.group j
  own : b.group g = { a.group g with
    s := (b.group g).s, pendRegs := (b.group g).pendRegs, chain := (b.group g).chain, olds := (b.group g).olds }
  pending : ∀ r, (b.group g).pendReg r = none ↔ (a.group g).pendReg r = none
  other : ∀ j, j / a.w ≠ g → b.thread j = a.thread j
  thread : ∀ j, b.thread j = { a.thread j with regs := (b.thread j).regs }

theorem KeepsRegs.refl (a : Team) (g : Nat) : a.KeepsRegs a g :=
  ⟨rfl, rfl, rfl, fun _ _ => rfl, rfl, fun _ => Iff.rfl, fun _ _ => rfl, fun _ => rfl⟩

theorem KeepsRegs.w {a b : Team} {g : Nat} (h : a.KeepsRegs b g) : b.w = a.w := by rw [h.rest]

theorem KeepsRegs.tid {a b : Team} {g : Nat} (h : a.KeepsRegs b g) (k l : Nat) : b.tid k l = a.tid k l := by
  rw [Team.tid, h.w, Team.tid]

theorem KeepsRegs.trans {a b c : Team} {g : Nat} (h : a.KeepsRegs b g) (k : b.KeepsRegs c g) : a.KeepsRegs c g where
  rest := by rw [k.rest, h.rest]
  threads := k.threads.trans h.threads
  groups := k.groups.trans h.groups
  group j hj := (k.group j hj).trans (h.group j hj)
  own := by rw [k.own, h.own]
  pending r := (k.pending r).trans (h.pending r)
  other j hj := (k.other j (by rw [h.w]; exact hj)).trans (h.other j hj)
  thread j := by rw [k.thread j, h.thread j]

theorem KeepsRegs.valid {a b : Team} {g : Nat} (h : a.KeepsRegs b g) {r : RegRef} (hv : r.Valid a g) : r.Valid b g := by
  revert hv
  cases r <;> simp [RegRef.Valid, h.tid, h.threads, h.groups]

/-- A group updated in its registers' bookkeeping. -/
theorem updGroup_keeps (tm : Team) (g : Nat) (f : Group → Group)
    (hf : ∀ y, f y = { y with s := (f y).s, pendRegs := (f y).pendRegs, chain := (f y).chain, olds := (f y).olds })
    (hp : ∀ y r, (f y).pendReg r = none ↔ y.pendReg r = none) : tm.KeepsRegs (tm.updGroup g f) g := by
  refine ⟨rfl, rfl, by simp, fun j hj => group_updGroup_other _ _ hj, ?_, fun r => ?_, fun _ _ => rfl, fun _ => rfl⟩
  · rw [group_updGroup]; split
    · rw [hf]
    · rfl
  · rw [group_updGroup]; split
    · exact hp _ r
    · exact Iff.rfl

/-- A thread of the group updated in its registers. -/
theorem updThread_keeps (tm : Team) {g l : Nat} (hl : l < tm.w) (f : LaneRegs → LaneRegs) :
    tm.KeepsRegs (tm.updThread (tm.tid g l) fun t => { t with regs := f t.regs }) g := by
  refine ⟨rfl, by simp, rfl, fun _ _ => rfl, rfl, fun _ => Iff.rfl, fun j hj => ?_, fun j => ?_⟩
  · rw [thread_updThread, if_neg fun h => hj (by rw [h.1, tid_div tm hl])]
  · rw [thread_updThread]; split
    · next h => rw [h.1]
    · rfl

theorem writeReg_keeps (tm : Team) (g : Nat) (r : RegRef) (x : Word) (hl : r.Mine tm.w) : tm.KeepsRegs (tm.writeReg g r x) g := by
  cases r with
  | v l n => exact updThread_keeps tm hl fun y => y.setVec n x
  | p l n => exact updThread_keeps tm hl fun y => y.setPred n (x != 0)
  | s n => exact updGroup_keeps tm g (fun gr => { gr with s := Sparse.set 0 gr.s n x }) (fun _ => rfl) fun _ _ => Iff.rfl

/-- A predicate as the number it reads as. -/
def boolWord (b : Bool) : Word := if b then 1 else 0

theorem readReg_p (tm : Team) (g l n : Nat) :
    tm.readReg g (.p l n) = boolWord ((tm.thread (tm.tid g l)).regs.pred n) := rfl

theorem writeReg_read (tm : Team) (g : Nat) (r q : RegRef) (x : Word) (hv : r.Valid tm g) (hx : r.Takes x)
    (h0 : ∀ l, r ≠ .p l 0) : (tm.writeReg g r x).readReg g q = if q = r then x else tm.readReg g q := by
  cases r with
  | v l n =>
    have hv : tm.tid g l < tm.threads.length := hv
    cases q with
    | s m => simp [writeReg, readReg]
    | v k m =>
      simp only [readReg, writeReg, tid, w_updThread]
      rw [thread_updThread]
      by_cases hk : k = l
      · subst hk
        rw [if_pos ⟨rfl, hv⟩]
        by_cases hm : m = n
        · subst hm; simp
        · rw [if_neg (by simpa using hm)]; exact LaneRegs.vec_setVec_other _ _ hm
      · rw [if_neg fun h => hk (tid_inj tm h.1), if_neg (by simp [hk])]
    | p k m =>
      rw [if_neg (by simp : ¬(RegRef.p k m = RegRef.v l n)), readReg_p, readReg_p]
      refine congrArg boolWord ?_
      simp only [writeReg, tid, w_updThread]
      rw [thread_updThread]
      split
      · next h => rw [← h.1]; rfl
      · rfl
  | s n =>
    have hv : g < tm.groups.length := hv
    cases q with
    | v k m => simp [writeReg, readReg, tid]
    | p k m => rw [if_neg (by simp : ¬(RegRef.p k m = RegRef.s n)), readReg_p, readReg_p]; rfl
    | s m =>
      simp only [readReg, writeReg]
      rw [group_updGroup_self _ _ _ hv]
      by_cases hm : m = n
      · subst hm; simp
      · rw [if_neg (by simpa using hm)]; exact Sparse.get_set_other _ _ _ hm
  | p l n =>
    obtain ⟨hv, h8⟩ : tm.tid g l < tm.threads.length ∧ n < 8 := hv
    have hn : n ≠ 0 := fun h => h0 l (by rw [h])
    have hx : x = 0 ∨ x = 1 := hx
    cases q with
    | s m => simp [writeReg, readReg]
    | v k m =>
      simp only [readReg, writeReg, tid, w_updThread]
      rw [thread_updThread, if_neg (by simp : ¬(RegRef.v k m = RegRef.p l n))]
      split
      · next h => rw [← h.1]; exact LaneRegs.vec_setPred ..
      · rfl
    | p k m =>
      rw [readReg_p, readReg_p]
      simp only [writeReg, tid, w_updThread]
      rw [thread_updThread]
      by_cases hk : k = l
      · subst hk
        rw [if_pos ⟨rfl, hv⟩]
        by_cases hm : m = n
        · subst hm
          rw [LaneRegs.pred_setPred_self _ _ hn h8]
          rcases hx with rfl | rfl <;> simp [boolWord]
        · rw [if_neg (by simpa using hm)]
          exact congrArg boolWord (LaneRegs.pred_setPred_other _ _ h8 hm)
      · rw [if_neg fun h => hk (tid_inj tm h.1), if_neg (by simp [hk])]

theorem writeReg_p0 (tm : Team) (g l : Nat) (q : RegRef) (x : Word) :
    (tm.writeReg g (.p l 0) x).readReg g q = tm.readReg g q := by
  have h (j : Nat) : (tm.updThread (tm.tid g l) fun t => { t with regs := t.regs.setPred 0 (x != 0) }).thread j = tm.thread j := by
    rw [thread_updThread]; split
    · next h => rw [h.1]; rfl
    · rfl
  have ht (j : Nat) : (tm.writeReg g (.p l 0) x).thread j = tm.thread j := h j
  have hw : (tm.writeReg g (.p l 0) x).w = tm.w := rfl
  cases q with
  | s n => rfl
  | v k n => simp only [readReg, tid, ht, hw]
  | p k n => simp only [readReg_p, tid, ht, hw]

end Team

theorem afterWrites_nil (old : Word) (r : RegRef) : afterWrites [] old r = old := by unfold afterWrites; split <;> rfl

theorem afterWrites_p0 (ws : List (RegRef × Word)) (old : Word) (l : Nat) : afterWrites ws old (.p l 0) = old := rfl

theorem afterWrites_cons (w : RegRef × Word) (ws : List (RegRef × Word)) (old : Word) (r : RegRef) (h0 : ∀ l, r ≠ .p l 0) :
    afterWrites (w :: ws) old r = afterWrites ws (if r = w.1 then w.2 else old) r := by
  have e : ∀ ws old, afterWrites ws old r = ((ws.reverse.find? (fun w => w.1 == r)).map (·.2)).getD old := by
    intro ws old
    cases r with
    | p l n =>
      cases n with
      | zero => exact absurd rfl (h0 l)
      | succ n => rfl
    | _ => rfl
  rw [e, e, List.reverse_cons, List.find?_append]
  cases List.find? (fun w => w.1 == r) ws.reverse with
  | some x => simp
  | none =>
    by_cases h : r = w.1
    · subst h; simp
    · have : (w.1 == r) = false := by simpa using fun x => h x.symm
      simp [this, h]

/-! ### Pending registers -/

theorem Group.pendReg_none (gr : Group) (r : RegRef) : gr.pendReg r = none ↔ ∀ e ∈ gr.pendRegs, e.reg ≠ r := by
  simp [Group.pendReg, List.find?_eq_none]

theorem Group.setPendReg_pending (gr : Group) (q : RegRef) (f : PendReg → PendReg) (hf : ∀ e, (f e).reg = e.reg) (r : RegRef) :
    (gr.setPendReg q f).pendReg r = none ↔ gr.pendReg r = none := by
  rw [pendReg_none, pendReg_none, setPendReg]
  simp only [List.mem_map]
  constructor
  · intro h e he
    have := h _ ⟨e, he, rfl⟩
    split at this
    · rwa [hf] at this
    · exact this
  · rintro h _ ⟨e, he, rfl⟩
    split
    · rw [hf]; exact h e he
    · exact h e he

/-- A destination noted: what it leaves of the group, and which registers are pending after it (R46). -/
theorem Group.destine_spec (gr : Group) (long : Bool) (n : Nat) (q : RegRef) :
    gr.destine long n q = { gr with pendRegs := (gr.destine long n q).pendRegs, chain := (gr.destine long n q).chain } ∧
    ∀ r, (gr.destine long n q).pendReg r = none ↔ gr.pendReg r = none ∧ (long = true → q ≠ r) := by
  let a : Group :=
    if gr.chain.contains q then gr.setPendReg q (fun e => { e with touched := false, cut := (gr.chainFrom, n) }) else gr
  have ha : a = { gr with pendRegs := a.pendRegs } := by simp only [a]; split <;> rfl
  have hp (r : RegRef) : a.pendReg r = none ↔ gr.pendReg r = none := by
    simp only [a]; split
    · exact setPendReg_pending gr q (fun e => { e with touched := false, cut := (gr.chainFrom, n) }) (fun _ => rfl) r
    · exact Iff.rfl
  have e : gr.destine long n q = { (if long && (a.pendReg q).isNone then { a with pendRegs := a.pendRegs ++ [{ reg := q }] } else a)
      with chain := (gr.destine long n q).chain } := rfl
  constructor
  · rw [e]; split
    · rw [ha]
    · rw [ha]
  · intro r
    have ec : ∀ (x : Group) (c : List RegRef), ({ x with chain := c } : Group).pendReg r = x.pendReg r := fun _ _ => rfl
    rw [e, ec, ← hp r]
    split
    · next h =>
      simp only [Bool.and_eq_true] at h
      simp only [pendReg_none, List.mem_append, List.mem_singleton]
      constructor
      · exact fun k => ⟨fun e he => k e (.inl he), fun _ => k { reg := q } (.inr rfl)⟩
      · rintro ⟨k1, k2⟩ e (he | rfl)
        · exact k1 e he
        · exact k2 h.1
    · next h =>
      refine ⟨fun k => ⟨k, fun hl hq => ?_⟩, fun k => k.1⟩
      subst hq
      rw [hl, k] at h
      exact h rfl

theorem Group.destine_all (gr : Group) (long : Bool) (n : Nat) (rs : List RegRef) :
    let x := rs.foldl (fun gr r => gr.destine long n r) gr
    x = { gr with pendRegs := x.pendRegs, chain := x.chain } ∧
    ∀ r, x.pendReg r = none ↔ gr.pendReg r = none ∧ (long = true → ∀ q ∈ rs, q ≠ r) := by
  induction rs generalizing gr with
  | nil => exact ⟨rfl, fun r => by simp⟩
  | cons q rs ih =>
    obtain ⟨h1, h2⟩ := gr.destine_spec long n q
    obtain ⟨k1, k2⟩ := ih (gr.destine long n q)
    refine ⟨?_, fun r => ?_⟩
    · simp only [List.foldl_cons]; rw [k1, h1]
    · simp only [List.foldl_cons]; rw [k2, h2]
      simp only [List.forall_mem_cons]
      tauto

/-! ### Results written -/

/-- Where a register is written it is not pending, so the write reaches it (R46). -/
def Team.Reached (tm : Team) (g : Nat) (ws : List (RegRef × Word)) (r : RegRef) : Prop :=
  (∃ w ∈ ws, w.1 = r) → (tm.group g).pendReg r = none

theorem Team.readReg_updGroup (tm : Team) (g : Nat) (f : Group → Group) (hs : ∀ x, (f x).s = x.s) (q : RegRef) :
    (tm.updGroup g f).readReg g q = tm.readReg g q := by
  cases q with
  | s n => simp only [readReg]; rw [group_updGroup]; split <;> simp [hs]
  | v l n => rfl
  | p l n => rfl

/-- One register write of a result: what every register reads after it, and what it keeps (R43, R46, R50). -/
theorem Team.putReg_spec (tm : Team) (g : Nat) (instr : Option Nat) (free : Bool) (r : RegRef) (x : Word)
    (hv : r.Valid tm g ∧ r.Takes x ∧ r.Mine tm.w) :
    tm.KeepsRegs (tm.putReg g instr free r x) g ∧
    ∀ q, tm.Reached g [(r, x)] q → (tm.putReg g instr free r x).readReg g q = afterWrites [(r, x)] (tm.readReg g q) q := by
  have hw (q : RegRef) : (tm.writeReg g r x).readReg g q = afterWrites [(r, x)] (tm.readReg g q) q := by
    by_cases h0 : ∃ l, r = .p l 0
    · obtain ⟨l, rfl⟩ := h0
      rw [writeReg_p0]
      by_cases hq : ∃ k, q = .p k 0
      · obtain ⟨k, rfl⟩ := hq; rfl
      · rw [afterWrites_cons _ _ _ _ fun k h => hq ⟨k, h⟩, afterWrites_nil, if_neg fun h => hq ⟨l, h⟩]
    · rw [writeReg_read _ _ _ _ _ hv.1 hv.2.1 fun l h => h0 ⟨l, h⟩]
      by_cases hq : ∃ k, q = .p k 0
      · obtain ⟨k, rfl⟩ := hq
        rw [if_neg fun h => h0 ⟨k, h.symm⟩]; rfl
      · rw [afterWrites_cons _ _ _ _ fun k h => hq ⟨k, h⟩, afterWrites_nil]
  have hn (q : RegRef) (e : PendReg) (he : (tm.group g).pendReg r = some e) (h : tm.Reached g [(r, x)] q) :
      afterWrites [(r, x)] (tm.readReg g q) q = tm.readReg g q := by
    have hqr : q ≠ r := fun hq => by
      have := h ⟨(r, x), by simp, hq.symm⟩
      rw [hq, he] at this; exact absurd this (by simp)
    by_cases hq : ∃ k, q = .p k 0
    · obtain ⟨k, rfl⟩ := hq; rfl
    · rw [afterWrites_cons _ _ _ _ fun k h => hq ⟨k, h⟩, afterWrites_nil, if_neg hqr]
  unfold putReg
  cases he : (tm.group g).pendReg r with
  | none => exact ⟨writeReg_keeps _ _ _ _ hv.2.2, fun q _ => hw q⟩
  | some e =>
    simp only
    let f (gr : Group) : Group := gr.setPendReg r (fun e => { e with touched := true })
    have key (cut may : Bool) :
        let a := if cut = true then tm else if may = true then tm else (tm.writeReg g r x).updGroup g f
        tm.KeepsRegs a g ∧ ∀ q, tm.Reached g [(r, x)] q → a.readReg g q = afterWrites [(r, x)] (tm.readReg g q) q := by
      have stay := And.intro (KeepsRegs.refl tm g) fun q (h : tm.Reached g [(r, x)] q) => (hn q e he h).symm
      cases cut with
      | true => exact stay
      | false =>
        cases may with
        | true => exact stay
        | false =>
          exact ⟨(writeReg_keeps _ _ _ _ hv.2.2).trans (updGroup_keeps _ g f (fun _ => rfl)
              fun y q => y.setPendReg_pending r (fun e => { e with touched := true }) (fun _ => rfl) q),
            fun q _ => (readReg_updGroup (tm.writeReg g r x) g f (fun _ => rfl) q).trans (hw q)⟩
    exact key _ _

/-- Register writes of results, in order (R43, R46, R50). -/
theorem Team.putRegs_spec (tm : Team) (g : Nat) (instr : Option Nat) (free : RegRef → Bool) (ws : List (RegRef × Word))
    (hv : ∀ w ∈ ws, w.1.Valid tm g ∧ w.1.Takes w.2 ∧ w.1.Mine tm.w) :
    tm.KeepsRegs (tm.putRegs g instr free ws) g ∧
    ∀ r, tm.Reached g ws r → (tm.putRegs g instr free ws).readReg g r = afterWrites ws (tm.readReg g r) r := by
  induction ws generalizing tm with
  | nil => exact ⟨KeepsRegs.refl .., fun r _ => (afterWrites_nil _ r).symm⟩
  | cons w ws ih =>
    obtain ⟨k1, r1⟩ := tm.putReg_spec g instr (free w.1) w.1 w.2 (hv w (by simp))
    obtain ⟨k2, r2⟩ := ih (tm.putReg g instr (free w.1) w.1 w.2) fun x hx => by
      obtain ⟨a, b, c⟩ := hv x (List.mem_cons_of_mem _ hx)
      exact ⟨k1.valid a, b, by rw [k1.w]; exact c⟩
    refine ⟨k1.trans k2, fun r hr => ?_⟩
    rw [putRegs, r2 r fun ⟨x, hx, e⟩ => (k1.pending r).2 (hr ⟨x, List.mem_cons_of_mem _ hx, e⟩),
      r1 r fun ⟨x, hx, e⟩ => hr ⟨w, by simp, by simp at hx; subst hx; exact e⟩]
    by_cases h0 : ∃ l, r = .p l 0
    · obtain ⟨l, rfl⟩ := h0; rfl
    · rw [afterWrites_cons _ _ _ _ fun l h => h0 ⟨l, h⟩, afterWrites_cons _ _ _ _ fun l h => h0 ⟨l, h⟩, afterWrites_nil]

/-- Where no register is pending, the plain writes are those of results. -/
theorem Team.writeRegs_eq (tm : Team) (g : Nat) (instr : Option Nat) (free : RegRef → Bool) (ws : List (RegRef × Word))
    (hp : ∀ r, (tm.group g).pendReg r = none) (hv : ∀ w ∈ ws, w.1.Mine tm.w) :
    tm.writeRegs g ws = tm.putRegs g instr free ws := by
  induction ws generalizing tm with
  | nil => rfl
  | cons w ws ih =>
    have e : tm.putReg g instr (free w.1) w.1 w.2 = tm.writeReg g w.1 w.2 := by simp [putReg, hp]
    have k := tm.writeReg_keeps g w.1 w.2 (hv w (by simp))
    rw [putRegs, e, ← ih _ (fun r => (k.pending r).2 (hp r)) fun x hx => by
      rw [k.w]; exact hv x (List.mem_cons_of_mem _ hx)]
    rfl

/-! ### What matrix commands note (R291, R296) -/

theorem Team.writeReg_v_other (tm : Team) (g l n : Nat) (x : Word) (q : RegRef) (h : q ≠ .v l n) :
    (tm.writeReg g (.v l n) x).readReg g q = tm.readReg g q := by
  cases q with
  | s m => rfl
  | v k m =>
    simp only [readReg, writeReg, tid, w_updThread]
    rw [thread_updThread]
    split
    · next e =>
      have hk : k = l := tid_inj tm e.1
      subst hk
      exact LaneRegs.vec_setVec_other _ _ fun hm => h (by rw [hm])
    · rfl
  | p k m =>
    rw [readReg_p, readReg_p]
    refine congrArg boolWord ?_
    simp only [writeReg, tid, w_updThread]
    rw [thread_updThread]
    split
    · next e => rw [← e.1]; rfl
    · rfl

theorem Team.writeRegs_v (tm : Team) (g : Nat) (ws : List (RegRef × Word)) (hv : ∀ w ∈ ws, ∃ l n, w.1 = .v l n ∧ l < tm.w) :
    tm.KeepsRegs (tm.writeRegs g ws) g ∧
    ∀ q, (∀ w ∈ ws, w.1 ≠ q) → (tm.writeRegs g ws).readReg g q = tm.readReg g q := by
  induction ws generalizing tm with
  | nil => exact ⟨KeepsRegs.refl .., fun _ _ => rfl⟩
  | cons w ws ih =>
    obtain ⟨l, n, e, hl⟩ := hv w (by simp)
    have k := tm.writeReg_keeps g w.1 w.2 (by rw [e]; exact hl)
    obtain ⟨k2, r2⟩ := ih (tm.writeReg g w.1 w.2) fun x hx => by rw [k.w]; exact hv x (List.mem_cons_of_mem _ hx)
    refine ⟨k.trans k2, fun q hq => (r2 q fun x hx => hq x (List.mem_cons_of_mem _ hx)).trans ?_⟩
    have := hq w (by simp)
    rw [e] at this ⊢
    exact writeReg_v_other _ _ _ _ _ _ this.symm

theorem MatCmd.note_unmarked (c : MatCmd) (instr : Option Nat) (w : RegRef × Word) : (c.note instr w).unmarked = c.unmarked := by
  unfold MatCmd.note
  repeat' split
  all_goals rfl

theorem MatCmd.notes_unmarked (c : MatCmd) (instr : Option Nat) (ws : List (RegRef × Word)) :
    (ws.foldl (fun c w => c.note instr w) c).unmarked = c.unmarked := by
  induction ws generalizing c with
  | nil => rfl
  | cons w ws ih => rw [List.foldl_cons, ih, note_unmarked]

/-- The state with its team, its free values' counter and its matrix commands' notes as another has them. -/
structure State.Writes (s t : State) (id g : Nat) (a b : Team) : Prop where
  rest : t = { s with teams := t.teams, fresh := t.fresh, mats := t.mats }
  fresh : s.fresh ≤ t.fresh
  mats : t.mats.map (fun c => (c.1, c.2.unmarked)) = s.mats.map (fun c => (c.1, c.2.unmarked))
  teams : ∀ j, j ≠ id → t.team? j = s.team? j
  team : t.team? id = some b
  keeps : a.KeepsRegs b g

/-- What registers written do to a group's matrix commands, and to the destinations of its ended drains (R291, R296). -/
theorem State.noteRegs_spec (s : State) (id g : Nat) (instr : Option Nat) (ws : List (RegRef × Word)) (tm : Team)
    (h : s.team? id = some tm) :
    ∃ tm', s.Writes (s.noteRegs id g none instr ws) id g tm tm' ∧
      ∀ q, (∀ l n, q = .v l n → (∃ w ∈ ws, ∃ k, w.1 = .v k n) →
          ∀ c ∈ s.mats, c.2.team = id → c.2.grp = g → n ∉ c.2.dests) →
        tm'.readReg g q = tm.readReg g q := by
  let mine (c : Nat × MatCmd) : Bool := c.2.team == id && c.2.grp == g && some c.1 != none
  let gone : List Nat := (s.mats.filter mine).flatMap (fun c => c.2.dests.filter (fun r =>
    ws.any (fun w => match w.1 with | .v _ n => n == r | _ => false)))
  let free := gone.flatMap (fun r => (List.range 64).map (fun l =>
    ((RegRef.v l r, Config.freeWord (s.fresh + 64 * r + l)) : RegRef × Word)))
  let mats := s.mats.map (fun c => if mine c then (c.1, ws.foldl (fun c w => c.note instr w) c.2) else c)
  have hm : mats.map (fun c => (c.1, c.2.unmarked)) = s.mats.map (fun c => (c.1, c.2.unmarked)) := by
    simp only [mats, List.map_map]
    refine List.map_congr_left fun c _ => ?_
    simp only [Function.comp_apply]
    split
    · simp [MatCmd.notes_unmarked]
    · rfl
  have e : s.noteRegs id g none instr ws =
      if free.isEmpty then { s with mats := mats }
      else { (({ s with mats := mats } : State).updTeam id (fun tm => tm.writeRegs g
        (free.filter (fun w => match w.1 with | .v l _ => decide (l < tm.w) | _ => false)))) with fresh := s.fresh + 64 * 256 } := rfl
  rw [e]
  split
  · exact ⟨tm, ⟨rfl, Nat.le_refl _, hm, fun _ _ => rfl, h, Team.KeepsRegs.refl ..⟩, fun _ _ => rfl⟩
  · let fs := free.filter (fun w => match w.1 with | .v l _ => decide (l < tm.w) | _ => false)
    have hf : ∀ w ∈ fs, ∃ l n, w.1 = .v l n ∧ l < tm.w ∧ n ∈ gone := by
      intro w hw
      simp only [fs, free, List.mem_filter, List.mem_flatMap, List.mem_map] at hw
      obtain ⟨⟨n, hn, l, _, rfl⟩, hl⟩ := hw
      exact ⟨l, n, rfl, by simpa using hl, hn⟩
    obtain ⟨k, r⟩ := tm.writeRegs_v g fs fun w hw => by
      obtain ⟨l, n, e, hl, _⟩ := hf w hw; exact ⟨l, n, e, hl⟩
    have hu : ({ s with mats := mats } : State).updTeam id (fun tm => tm.writeRegs g
        (free.filter (fun w => match w.1 with | .v l _ => decide (l < tm.w) | _ => false))) =
        ({ s with mats := mats } : State).setTeam id (tm.writeRegs g fs) :=
      State.updTeam_of ({ s with mats := mats } : State) (tm := tm) h _
    rw [hu]
    refine ⟨tm.writeRegs g fs, ⟨rfl, by simp, hm, fun j hj => State.team?_setTeam_other ({ s with mats := mats } : State) _ hj,
      State.team?_setTeam_self ({ s with mats := mats } : State) _ _, k⟩, fun q hq => r q fun w hw hwq => ?_⟩
    obtain ⟨l, n, e, _, hn⟩ := hf w hw
    simp only [gone, List.mem_flatMap, List.mem_filter, mine, Bool.and_eq_true, beq_iff_eq, List.any_eq_true] at hn
    obtain ⟨c, ⟨hc, ⟨h1, h2⟩, _⟩, hd, w', hw', hn'⟩ := hn
    refine hq l n (by rw [← hwq, e]) ⟨w', hw', ?_⟩ c hc h1 h2 hd
    cases hw1 : w'.1 with
    | v k m => rw [hw1] at hn'; simp at hn'; exact ⟨k, by rw [hn']⟩
    | s m => rw [hw1] at hn'; simp at hn'
    | p k m => rw [hw1] at hn'; simp at hn'

/-- Results written at issue: what every register that surely has them reads, and what they keep (R43, R46, R291, R296). -/
theorem State.putRegs_spec (s : State) (id g : Nat) (instr : Option Nat) (ws : List (RegRef × Word)) (tm : Team)
    (h : s.team? id = some tm) (hv : ∀ w ∈ ws, w.1.Valid tm g ∧ w.1.Takes w.2 ∧ w.1.Mine tm.w) :
    ∃ tm', s.Writes (s.putRegs id g instr ws) id g tm tm' ∧
      (tm.role g ≠ .matrix → (s.putRegs id g instr ws).mats = s.mats) ∧
      ∀ r, tm.Reached g ws r →
        (tm.role g = .matrix → ∀ l n, r = .v l n → (∃ w ∈ ws, ∃ k, w.1 = .v k n) →
          ∀ c ∈ s.mats, c.2.team = id → c.2.grp = g → n ∉ c.2.dests) →
        tm'.readReg g r = afterWrites ws (tm.readReg g r) r := by
  have write (a : Team) (k : tm.KeepsRegs a g) (hr : ∀ r, a.readReg g r = tm.readReg g r) :
      ∃ b, s.Writes (if (a.group g).pendRegs.isEmpty then s.setTeam id (a.writeRegs g ws)
          else { (s.setTeam id (a.putRegs g instr (a.choices g s.fresh) ws)) with fresh := s.fresh + 2 ^ 15 }) id g tm b ∧
        (if (a.group g).pendRegs.isEmpty then s.setTeam id (a.writeRegs g ws)
          else { (s.setTeam id (a.putRegs g instr (a.choices g s.fresh) ws)) with fresh := s.fresh + 2 ^ 15 }).mats = s.mats ∧
        ∀ r, tm.Reached g ws r → b.readReg g r = afterWrites ws (tm.readReg g r) r := by
    have hv' : ∀ w ∈ ws, w.1.Valid a g ∧ w.1.Takes w.2 ∧ w.1.Mine a.w := fun w hw =>
      ⟨k.valid (hv w hw).1, (hv w hw).2.1, by rw [k.w]; exact (hv w hw).2.2⟩
    obtain ⟨k2, r2⟩ := a.putRegs_spec g instr (a.choices g s.fresh) ws hv'
    have hb : ∀ r, tm.Reached g ws r → (a.putRegs g instr (a.choices g s.fresh) ws).readReg g r = afterWrites ws (tm.readReg g r) r :=
      fun r x => by rw [r2 r fun y => (k.pending r).2 (x y), hr]
    split
    · next he =>
      rw [a.writeRegs_eq g instr (a.choices g s.fresh) ws (fun r => by rw [Group.pendReg_none]; simp [List.isEmpty_iff.1 he]) fun w hw => (hv' w hw).2.2]
      exact ⟨_, ⟨rfl, Nat.le_refl _, rfl, fun j hj => State.team?_setTeam_other s _ hj, State.team?_setTeam_self .., k.trans k2⟩, rfl,
        hb⟩
    · exact ⟨_, ⟨rfl, Nat.le_add_right .., rfl, fun j hj => State.team?_setTeam_other s _ hj, State.team?_setTeam_self s _ _,
        k.trans k2⟩, rfl, hb⟩
  unfold State.putRegs
  rw [h]
  simp only
  split
  · next hm =>
    obtain ⟨b, w, hmats, hb⟩ := write (tm.keepOld g ws) (Team.updGroup_keeps _ _ _ (fun _ => rfl) fun _ _ => Iff.rfl)
      (Team.readReg_updGroup _ _ _ fun _ => rfl)
    generalize hs : (if ((tm.keepOld g ws).group g).pendRegs.isEmpty then s.setTeam id ((tm.keepOld g ws).writeRegs g ws)
      else { (s.setTeam id ((tm.keepOld g ws).putRegs g instr ((tm.keepOld g ws).choices g s.fresh) ws)) with fresh := s.fresh + 2 ^ 15 }) = s1 at w hmats
    obtain ⟨c, w2, hc⟩ := State.noteRegs_spec s1 id g instr ws b w.team
    refine ⟨c, ⟨?_, w.fresh.trans w2.fresh, w2.mats.trans w.mats, fun j hj => (w2.teams j hj).trans (w.teams j hj), w2.team,
      w.keeps.trans w2.keeps⟩, fun x => absurd hm x, fun r hr hd => ?_⟩
    · rw [w2.rest, w.rest]
    · rw [hc r fun l n e x c hc => hd hm l n e x c (by rw [← hmats]; exact hc), hb r hr]
  · obtain ⟨b, w, hmats, hb⟩ := write tm (Team.KeepsRegs.refl ..) fun _ => rfl
    exact ⟨b, w, fun _ => hmats, fun r hr _ => hb r hr⟩

/-! ### Retirement -/

namespace Team

/-- The parts of a team that retiring a word of group `g` keeps. -/
structure Quiet (a b : Team) (g : Nat) : Prop where
  rest : b = { a with threads := b.threads, groups := b.groups }
  threads : b.threads.length = a.threads.length
  groups : b.groups.length = a.groups.length
  group : ∀ j, j ≠ g → b.group j = a.group j
  s : (b.group g).s = (a.group g).s
  pendRegs : (b.group g).pendRegs = (a.group g).pendRegs
  own : (a.group g).SameButRegs (b.group g) []
  other : ∀ j, j / a.w ≠ g → b.thread j = a.thread j
  thread : ∀ j, b.thread j = { a.thread j with
    pc := (b.thread j).pc, meet := (b.thread j).meet, restart := (b.thread j).restart, restartMeet := (b.thread j).restartMeet }

theorem Quiet.w {a b : Team} {g : Nat} (h : a.Quiet b g) : b.w = a.w := by rw [h.rest]

theorem Quiet.refl (a : Team) (g : Nat) : a.Quiet a g :=
  ⟨rfl, rfl, rfl, fun _ _ => rfl, rfl, rfl, by simp [Group.SameButRegs], fun _ _ => rfl, fun _ => rfl⟩

theorem Quiet.trans {a b c : Team} {g : Nat} (h : a.Quiet b g) (k : b.Quiet c g) : a.Quiet c g where
  rest := by rw [k.rest, h.rest]
  threads := k.threads.trans h.threads
  groups := k.groups.trans h.groups
  group j hj := (k.group j hj).trans (h.group j hj)
  s := k.s.trans h.s
  pendRegs := k.pendRegs.trans h.pendRegs
  own := by
    have h1 := h.own; have h2 := k.own
    simp only [Group.SameButRegs, List.append_nil] at h1 h2 ⊢
    rw [h2, h1]
  other j hj := (k.other j (by rw [h.w]; exact hj)).trans (h.other j hj)
  thread j := by rw [k.thread j, h.thread j]

/-- Each lane of a group updated in its program counter, %meet and restart point. -/
theorem updLanes_quiet (tm : Team) (g : Nat) (f : Nat → Thread → Thread)
    (hf : ∀ l x, f l x = { x with
      pc := (f l x).pc, meet := (f l x).meet, restart := (f l x).restart, restartMeet := (f l x).restartMeet }) :
    tm.Quiet (tm.updLanes g f) g where
  rest := rfl
  threads := by simp
  groups := rfl
  group _ _ := rfl
  s := rfl
  pendRegs := rfl
  own := by simp [Group.SameButRegs]
  other j hj := by rw [thread_updLanes, if_neg fun h => hj h.2]
  thread j := by
    rw [thread_updLanes]; split
    · rw [hf]
    · rfl

/-- A group updated in the fields that retiring writes. -/
theorem updGroup_quiet (tm : Team) (g : Nat) (f : Group → Group) (hs : ∀ x, (f x).s = x.s)
    (hp : ∀ x, (f x).pendRegs = x.pendRegs) (hf : ∀ x : Group, x.SameButRegs (f x) []) :
    tm.Quiet (tm.updGroup g f) g where
  rest := rfl
  threads := rfl
  groups := by simp
  group j hj := group_updGroup_other _ _ hj
  s := by rw [group_updGroup]; split <;> simp [hs]
  pendRegs := by rw [group_updGroup]; split <;> simp [hp]
  own := by
    rw [group_updGroup]; split
    · exact hf _
    · simp [Group.SameButRegs]
  other _ _ := rfl
  thread _ := rfl

theorem settle_quiet (tm : Team) (g : Nat) : tm.Quiet (tm.settle g) g :=
  updLanes_quiet tm g _ fun l x => by split <;> rfl

theorem settle_pc (tm : Team) (g j : Nat) : ((tm.settle g).thread j).pc = (tm.thread j).pc := by
  rw [settle, thread_updLanes]; split
  · split <;> rfl
  · rfl

theorem snapshot_quiet (tm : Team) (g : Nat) (m : BitVec 64) : tm.Quiet (tm.snapshot g m) g :=
  (updLanes_quiet tm g
      (fun l x => if m.getLsbD l && !x.exited then { x with restart := x.pc, restartMeet := x.meet } else x)
      fun l x => by split <;> rfl).trans
    (updGroup_quiet _ g _ (fun _ => rfl) (fun _ => rfl) fun _ => by simp [Group.SameButRegs])

theorem snapshot_pc (tm : Team) (g j : Nat) (m : BitVec 64) : ((tm.snapshot g m).thread j).pc = (tm.thread j).pc := by
  rw [snapshot, thread_updGroup, thread_updLanes]; split
  · split <;> rfl
  · rfl

end Team

/-- Whether the `rep` of an issue has a repeat left (R53). -/
def Issue.again (is : Issue) (gr : Group) : Bool := is.rep.any fun n => decide (gr.repidx < n)

/-- Closing an issue. -/
theorem State.closeIssue_spec (s : State) (is : Issue) (tm : Team) (h : s.team? is.team = some tm) :
    ∃ tm', s.closeIssue is = { s with teams := (s.closeIssue is).teams, issue := none } ∧
      (s.closeIssue is).team? is.team = some tm' ∧ (∀ id, id ≠ is.team → (s.closeIssue is).team? id = s.team? id) ∧
      tm.Quiet tm' is.grp ∧ ∀ j, (tm'.thread j).pc = (tm.thread j).pc := by
  by_cases hc : is.closed = true
  · refine ⟨tm.snapshot is.grp is.mask, ?_⟩
    simp only [State.closeIssue, hc, if_true, State.updTeam_of s h]
    exact ⟨rfl, State.team?_setTeam_self .., fun id hid => State.team?_setTeam_other _ _ hid, Team.snapshot_quiet ..,
      fun j => Team.snapshot_pc ..⟩
  · refine ⟨tm, ?_⟩
    have e : s.closeIssue is = { s with issue := none } := by simp [State.closeIssue, hc]
    rw [e]
    exact ⟨rfl, h, fun _ _ => rfl, Team.Quiet.refl .., fun _ => rfl⟩

/-- Retiring a word: where the lanes of the active set go, and that nothing else of the state changes but what retiring writes
(R43, R46, R53, R217, R387). -/
theorem State.retireTo_spec (s : State) (is : Issue) (tm : Team) (closes : Bool) (next : Nat → Option (BitVec 24))
    (h : s.team? is.team = some tm) (hl : ∀ l, is.mask.getLsbD l = true → l < tm.w ∧ tm.tid is.grp l < tm.threads.length) :
    ∃ t tm', s.retireTo is closes next = t ∧ t = { s with teams := t.teams, issue := t.issue } ∧
      (∀ id, id ≠ is.team → t.team? id = s.team? id) ∧ t.team? is.team = some tm' ∧ tm.Quiet tm' is.grp ∧
      ∀ l, l < tm.w → (tm'.thread (tm.tid is.grp l)).pc =
        if is.mask.getLsbD l && !is.again (tm.group is.grp) then (next l).getD (is.pc + BitVec.ofNat 24 is.len)
        else (tm.thread (tm.tid is.grp l)).pc := by
  have fin (is : Issue) (hl : ∀ l, is.mask.getLsbD l = true → l < tm.w ∧ tm.tid is.grp l < tm.threads.length)
      (h : s.team? is.team = some tm) :
      ∃ t tm', State.retireTo.finish s next is = t ∧ t = { s with teams := t.teams, issue := t.issue } ∧
      (∀ id, id ≠ is.team → t.team? id = s.team? id) ∧ t.team? is.team = some tm' ∧ tm.Quiet tm' is.grp ∧
      ∀ l, l < tm.w → (tm'.thread (tm.tid is.grp l)).pc =
        if is.mask.getLsbD l then (next l).getD (is.pc + BitVec.ofNat 24 is.len) else (tm.thread (tm.tid is.grp l)).pc := by
    let a := tm.updLanes is.grp (fun l x =>
        if is.mask.getLsbD l then { x with pc := (next l).getD (is.pc + BitVec.ofNat 24 is.len) } else x)
    let b := a.updGroup is.grp (fun gr =>
        { gr with
          repidx := 0, repMask := 0, hold := if is.c && !is.s then none else gr.afterPart
          partSaved := gr.partSaved && is.c && !is.s, held := none, lanesDone := 0, laneSnaps := [], parked := is.s })
    let c := b.settle is.grp
    have qa : tm.Quiet a is.grp := Team.updLanes_quiet tm _ _ fun l x => by split <;> rfl
    have qb : a.Quiet b is.grp := Team.updGroup_quiet a _ _ (fun _ => rfl) (fun _ => rfl) fun _ => by simp [Group.SameButRegs]
    have qc : tm.Quiet c is.grp := (qa.trans qb).trans (Team.settle_quiet ..)
    have pc (l : Nat) (hw : l < tm.w) : (c.thread (tm.tid is.grp l)).pc =
        if is.mask.getLsbD l then (next l).getD (is.pc + BitVec.ofNat 24 is.len) else (tm.thread (tm.tid is.grp l)).pc := by
      rw [Team.settle_pc, Team.thread_updGroup, Team.thread_updLanes, Team.tid_div tm hw, Team.tid_mod tm hw]
      by_cases hm : is.mask.getLsbD l = true
      · simp [hm, (hl l hm).2]
      · simp [hm]
    have hs : s.updTeam is.team (fun tm =>
        let tm := tm.updLanes is.grp (fun l x =>
          if is.mask.getLsbD l then { x with pc := (next l).getD (is.pc + BitVec.ofNat 24 is.len) } else x)
        let tm := tm.updGroup is.grp (fun gr =>
          { gr with
            repidx := 0, repMask := 0, hold := if is.c && !is.s then none else gr.afterPart
            partSaved := gr.partSaved && is.c && !is.s, held := none, lanesDone := 0, laneSnaps := [], parked := is.s })
        tm.settle is.grp) = s.setTeam is.team c := State.updTeam_of s h _
    simp only [State.retireTo.finish]
    rw [hs]
    split
    · exact ⟨_, c, rfl, rfl, fun id hid => State.team?_setTeam_other s c hid, State.team?_setTeam_self s _ c, qc, pc⟩
    · obtain ⟨tm', e1, e2, e3, e4, e5⟩ := State.closeIssue_spec (s.setTeam is.team c) is c (State.team?_setTeam_self ..)
      refine ⟨_, tm', rfl, by rw [e1]; rfl, fun id hid => (e3 id hid).trans (State.team?_setTeam_other s c hid), e2,
        qc.trans e4, fun l hw => (e5 _).trans (pc l hw)⟩
  rw [State.retireTo, h]
  simp only [Option.map_some, Option.getD_some]
  cases hr : is.rep with
  | none =>
    obtain ⟨t, tm', e⟩ := fin { is with closed := is.closed || closes } hl h
    exact ⟨t, tm', by simpa [Issue.again, hr] using e⟩
  | some last =>
    by_cases hlt : (tm.group is.grp).repidx < last
    · simp only [hlt, if_true]
      let f (gr : Group) : Group :=
        { gr with
          repidx := gr.repidx + 1, repMask := is.mask, hold := gr.afterPart, partSaved := false, held := none, lanesDone := 0
          laneSnaps := [] }
      have q : tm.Quiet (tm.updGroup is.grp f) is.grp :=
        Team.updGroup_quiet tm _ _ (fun _ => rfl) (fun _ => rfl) fun _ => by simp [Group.SameButRegs, f]
      have hs : s.updGroup is.team is.grp f = s.setTeam is.team (tm.updGroup is.grp f) := State.updTeam_of s h _
      obtain ⟨tm', e1, e2, e3, e4, e5⟩ := State.closeIssue_spec (s.setTeam is.team (tm.updGroup is.grp f))
        { is with closed := is.closed || closes } _ (State.team?_setTeam_self ..)
      refine ⟨_, tm', rfl, ?_, fun id hid => ?_, ?_, q.trans e4, fun l hw => ?_⟩
      · rw [hr] at e1; rw [hs, e1]; rfl
      · rw [hr] at e3; rw [hs]; exact (e3 id hid).trans (State.team?_setTeam_other s _ hid)
      · rw [hr] at e2; rw [hs]; exact e2
      · rw [e5]; simp [Issue.again, hr, hlt]
    · simp only [hlt, if_false]
      obtain ⟨t, tm', e⟩ := fin { is with closed := is.closed || closes } hl h
      rw [hr] at e
      exact ⟨t, tm', by simpa [Issue.again, hr, hlt] using e⟩

/-! ### Sets of lanes -/

theorem mem_lanesOf (m : BitVec 64) (l : Nat) : l ∈ lanesOf m ↔ m.getLsbD l = true := by
  simp only [lanesOf, List.mem_filter, List.mem_range, and_iff_right_iff_imp]
  exact fun h => BitVec.lt_of_getLsbD h

theorem maskOf_lt (f : Nat → Bool) (n : Nat) :
    (List.range n).foldl (fun a l => if f l then a + 2 ^ l else a) 0 < 2 ^ n ∧
    ∀ l, ((List.range n).foldl (fun a l => if f l then a + 2 ^ l else a) 0).testBit l = (decide (l < n) && f l) := by
  induction n with
  | zero => simp
  | succ n ih =>
    obtain ⟨h, hb⟩ := ih
    rw [List.range_succ, List.foldl_append]
    generalize (List.range n).foldl (fun a l => if f l then a + 2 ^ l else a) 0 = a at h hb
    simp only [List.foldl_cons, List.foldl_nil]
    have hp : 2 ^ (n + 1) = 2 ^ n + 2 ^ n := by rw [Nat.pow_succ]; omega
    split
    · next hf =>
      refine ⟨by omega, fun l => ?_⟩
      rcases Nat.lt_trichotomy l n with hl | hl | hl
      · rw [Nat.add_comm, Nat.testBit_two_pow_add_gt hl, hb]; simp [hl, Nat.lt_succ_of_lt hl]
      · subst hl; rw [Nat.add_comm, Nat.testBit_two_pow_add_eq, hb]; simp [hf]
      · rw [Nat.testBit_lt_two_pow (Nat.lt_of_lt_of_le (by omega : a + 2 ^ n < 2 ^ (n + 1)) (Nat.pow_le_pow_right (by omega) hl))]
        simp; omega
    · next hf =>
      refine ⟨by omega, fun l => ?_⟩
      rw [hb]
      by_cases hl : l = n
      · subst hl; simp [hf]
      · have : (l < n + 1) ↔ l < n := by omega
        simp [this]

@[simp] theorem getLsbD_maskOf (f : Nat → Bool) (l : Nat) : (maskOf f).getLsbD l = (decide (l < 64) && f l) := by
  obtain ⟨_, hb⟩ := maskOf_lt f 64
  rw [maskOf, BitVec.getLsbD_ofNat, hb]
  cases decide (l < 64) <;> simp

theorem guarded_sub (is : Issue) (g l : Nat) (h : (is.guarded g).getLsbD l = true) : is.mask.getLsbD l = true := by
  simp only [Issue.guarded, getLsbD_maskOf, Bool.and_eq_true] at h; exact h.2.1

theorem execLanes_sub (d : Dst) (m : BitVec 64) (l : Nat) (h : l ∈ execLanes d m) : m.getLsbD l = true := by
  rw [execLanes] at h; split at h
  · exact (mem_lanesOf m l).1 (List.mem_of_mem_take h)
  · exact (mem_lanesOf m l).1 h

/-! ### The common course of register instructions -/

/-- A team after what a word does to it and then retirement is as `TeamStep` says. -/
theorem TeamStep.of {a b c : Team} {is : Issue} {upd : Group → Group} {next : Nat → Option (BitVec 24)}
    {now : List (RegRef × Word)} {n : Nat} {late : List (List (RegRef × Word))} {sure : RegRef → Prop}
    (rest : b = { a with threads := b.threads, groups := b.groups })
    (group : ∀ j, j ≠ is.grp → b.group j = a.group j)
    (own : (upd (a.group is.grp)).SameButRegs (b.group is.grp) (late.map fun ws => { instr := n, writes := ws }))
    (pending : ∀ r, (b.group is.grp).pendReg r = none ↔
      (upd (a.group is.grp)).pendReg r = none ∧ ∀ ws ∈ late, ∀ w ∈ ws, w.1 ≠ r)
    (rep : (b.group is.grp).repidx = (a.group is.grp).repidx)
    (other : ∀ j, j / a.w ≠ is.grp → b.thread j = a.thread j)
    (thread : ∀ j, b.thread j = { a.thread j with regs := (b.thread j).regs })
    (regs : ∀ r, sure r → b.readReg is.grp r = afterWrites now (a.readReg is.grp r) r)
    (q : b.Quiet c is.grp)
    (pc : ∀ l, l < b.w → (c.thread (b.tid is.grp l)).pc =
      if is.mask.getLsbD l && !is.again (b.group is.grp) then (next l).getD (is.pc + BitVec.ofNat 24 is.len)
      else (b.thread (b.tid is.grp l)).pc) :
    TeamStep a c is upd next now n late sure := by
  have hw : b.w = a.w := by rw [rest]
  have ht (g l : Nat) : b.tid g l = a.tid g l := by rw [Team.tid, hw, Team.tid]
  have htc (g l : Nat) : c.tid g l = b.tid g l := by rw [Team.tid, q.w, Team.tid]
  refine ⟨by rw [q.rest, rest], fun j hj => (q.group j hj).trans (group j hj), ?_, fun r => ?_, fun r hr => ?_,
    fun j hj => (q.other j (by rw [hw]; exact hj)).trans (other j hj), fun j => ?_, fun l hl => ?_⟩
  · have h1 := own; have h2 := q.own
    simp only [Group.SameButRegs, List.append_nil] at h1 h2 ⊢
    rw [h2, h1]
  · rw [← pending r, Group.pendReg, q.pendRegs, Group.pendReg]
  · rw [← regs r hr]
    cases r with
    | s n => simp only [Team.readReg, q.s]
    | v l n => simp only [Team.readReg, htc]; rw [q.thread]
    | p l n => rw [Team.readReg_p, Team.readReg_p, htc, q.thread]
  · rw [q.thread j, thread j]; exact ⟨rfl, rfl, rfl, rfl, rfl⟩
  · have := pc l (by rw [hw]; exact hl)
    rw [ht] at this
    rw [this, thread (a.tid is.grp l)]
    simp only [Issue.again, rep]

/-- A state after what a word does to its team's group and then retirement, where the word itself writes no register. -/
theorem WordStep.quiet {s t : State} {is : Issue} {tm tm' : Team} {upd : Group → Group} {next : Nat → Option (BitVec 24)}
    (rest : t = { s with teams := t.teams, issue := t.issue }) (teams : ∀ id, id ≠ is.team → t.team? id = s.team? id)
    (team : t.team? is.team = some tm') (step : TeamStep tm tm' is upd next [] s.nextInstr [] (s.Sure is tm [])) :
    GroupStep s t is tm upd next := by
  refine ⟨?_, ?_, ?_, ⟨?_, fun _ => ?_⟩, teams, tm', team, step⟩
  · rw [rest, List.append_nil]
  · rw [rest]
  · rw [rest]
  · rw [rest]
  · rw [rest]

/-- A group's own counters changed, and the word retired. -/
theorem updGroup_retire {s : State} {is : Issue} {tm : Team} (h : Running s is tm) (f upd : Group → Group) (closes : Bool)
    (next : Nat → Option (BitVec 24)) (hu : ∀ x : Group, (upd x).SameButRegs (f x) []) (hs : ∀ x, (f x).s = x.s)
    (hr : ∀ x, (f x).repidx = x.repidx) (hp : ∀ x r, (f x).pendReg r = none ↔ (upd x).pendReg r = none) :
    ∃ t, (s.updGroup is.team is.grp f).retireTo is closes next = t ∧ GroupStep s t is tm upd next := by
  let b := tm.updGroup is.grp f
  have hb : b.group is.grp = f (tm.group is.grp) := Team.group_updGroup_self tm _ _ h.group
  have e : s.updGroup is.team is.grp f = s.setTeam is.team b := State.updTeam_of s h.team _
  obtain ⟨t, c, e1, e2, e3, e4, q, pc⟩ := State.retireTo_spec (s.setTeam is.team b) is b closes next
    (State.team?_setTeam_self ..) h.lanes
  refine ⟨t, by rw [e, e1], WordStep.quiet (by rw [e2]; rfl)
    (fun id hid => (e3 id hid).trans (State.team?_setTeam_other s b hid)) e4 ?_⟩
  refine TeamStep.of (b := b) rfl (fun j hj => Team.group_updGroup_other _ _ hj) (by rw [hb]; exact hu _)
    (fun r => by rw [hb, hp]; simp) (by rw [hb, hr]) (fun _ _ => rfl) (fun _ => rfl) (fun r _ => ?_) q (by simpa using pc)
  rw [afterWrites_nil]
  exact Team.readReg_updGroup tm _ f hs r

/-- A word that only goes on, or to where `next` says. -/
theorem retireTo_step {s : State} {is : Issue} {tm : Team} (h : Running s is tm) (closes : Bool) (next : Nat → Option (BitVec 24)) :
    ∃ t, s.retireTo is closes next = t ∧ GroupStep s t is tm id next := by
  obtain ⟨t, c, e1, e2, e3, e4, q, pc⟩ := State.retireTo_spec s is tm closes next h.team h.lanes
  refine ⟨t, e1, WordStep.quiet e2 e3 e4 ?_⟩
  exact TeamStep.of (b := tm) rfl (fun _ _ => rfl) (by simp [Group.SameButRegs]) (fun r => by simp) rfl (fun _ _ => rfl)
    (fun _ => rfl) (fun r _ => (afterWrites_nil _ r).symm) q pc

/-- A team whose group `g` has noted destinations: only its pending registers and its chain have changed. -/
structure Team.Noted (tm a : Team) (g : Nat) (long : Bool) (rs : List RegRef) : Prop where
  rest : a = { tm with groups := a.groups }
  length : a.groups.length = tm.groups.length
  group : ∀ j, j ≠ g → a.group j = tm.group j
  own : a.group g = { tm.group g with pendRegs := (a.group g).pendRegs, chain := (a.group g).chain }
  pending : ∀ r, (a.group g).pendReg r = none ↔ (tm.group g).pendReg r = none ∧ (long = true → ∀ q ∈ rs, q ≠ r)

theorem Team.Noted.readReg {tm a : Team} {g : Nat} {long : Bool} {rs : List RegRef} (k : tm.Noted a g long rs) (r : RegRef) :
    a.readReg g r = tm.readReg g r := by
  have ht (j : Nat) : a.thread j = tm.thread j := by rw [Team.thread, k.rest, Team.thread]
  have hw : a.w = tm.w := by rw [k.rest]
  cases r with
  | s n => simp only [Team.readReg]; rw [k.own]
  | v l n => simp only [Team.readReg, Team.tid, ht, hw]
  | p l n => rw [Team.readReg_p, Team.readReg_p, Team.tid, Team.tid, ht, hw]

/-- The destinations of a word noted (R43, R46). -/
theorem State.destine_spec {s : State} {is : Issue} {tm : Team} (h : Running s is tm) (long : Bool) (rs : List RegRef) :
    ∃ a, s.destine is long rs = { s with teams := (s.destine is long rs).teams } ∧ (s.destine is long rs).team? is.team = some a ∧
      (∀ id, id ≠ is.team → (s.destine is long rs).team? id = s.team? id) ∧ tm.Noted a is.grp long rs := by
  unfold State.destine
  split
  · let f (gr : Group) : Group := rs.foldl (fun gr r => gr.destine long s.nextInstr r) gr
    have e : s.updGroup is.team is.grp f = s.setTeam is.team (tm.updGroup is.grp f) := State.updTeam_of s h.team _
    have hg := Team.group_updGroup_self tm is.grp f h.group
    rw [e]
    refine ⟨tm.updGroup is.grp f, rfl, State.team?_setTeam_self .., fun id hid => State.team?_setTeam_other s _ hid,
      rfl, by simp, fun j hj => Team.group_updGroup_other _ _ hj, ?_, fun r => ?_⟩
    · rw [hg]; exact ((tm.group is.grp).destine_all long s.nextInstr rs).1
    · rw [hg]; exact ((tm.group is.grp).destine_all long s.nextInstr rs).2 r
  · next hl =>
    have hf : long = false := by revert hl; cases long <;> simp
    exact ⟨tm, rfl, h.team, fun _ _ => rfl, rfl, rfl, fun _ _ => rfl, rfl, fun r => by simp [hf]⟩

/-- Results given and the word retired. -/
theorem giveResults_retire {s : State} {is : Issue} {tm : Team} (h : Running s is tm) (evs : List ExcInc) (long : Bool)
    (ws : List (List (RegRef × Word))) (hv : ∀ w ∈ ws.flatten, w.1.Valid tm is.grp ∧ w.1.Takes w.2 ∧ w.1.Mine tm.w) :
    ∃ t, ({ s with excQ := s.excQ ++ evs }.giveResults is long ws).retire is = t ∧
      RegStep s t is tm (if long then [] else ws.flatten) (if long then ws else []) evs := by
  let s1 : State := { s with excQ := s.excQ ++ evs }
  have h1 : Running s1 is tm := ⟨h.issue, h.team, h.group, h.lanes⟩
  obtain ⟨a, r2, t2, o2, k2⟩ := State.destine_spec h1 long (ws.flatten.map (·.1))
  have kw : a.w = tm.w := by rw [k2.rest]
  have kt (g l : Nat) : a.tid g l = tm.tid g l := by rw [Team.tid, kw, Team.tid]
  have kth (j : Nat) : a.thread j = tm.thread j := by rw [Team.thread, k2.rest, Team.thread]
  have kl : a.threads.length = tm.threads.length := by rw [k2.rest]
  have kr : a.role is.grp = tm.role is.grp := by rw [k2.rest]; rfl
  unfold State.giveResults
  generalize hs2 : s1.destine is long (ws.flatten.map (·.1)) = s2 at r2 t2 o2
  have hs2' : ({ s with excQ := s.excQ ++ evs } : State).destine is long (ws.flatten.map (·.1)) = s2 := hs2
  cases long with
  | true =>
    let late := ws.map fun l => ({ instr := s2.nextInstr, writes := l, closes := false } : Pending)
    let b := a.updGroup is.grp fun gr => { gr with pend := gr.pend ++ late }
    have hga : is.grp < a.groups.length := by rw [k2.length]; exact h.group
    have hb : b.group is.grp = { a.group is.grp with pend := (a.group is.grp).pend ++ late } := Team.group_updGroup_self a _ _ hga
    have e : s2.updGroup is.team is.grp (fun gr => { gr with pend := gr.pend ++ late }) = s2.setTeam is.team b :=
      State.updTeam_of s2 t2 _
    have hn : s2.nextInstr = s.nextInstr := by rw [r2]
    let s3 : State := { s2.setTeam is.team b with nextInstr := s2.nextInstr + 1 }
    obtain ⟨t, c, e1, e2, e3, e4, q, pc⟩ := State.retireTo_spec s3 is b false (fun _ => none) (State.team?_setTeam_self s2 ..)
      fun l hl => by
        obtain ⟨x, y⟩ := h.lanes l hl
        exact ⟨by rw [← kw] at x; exact x, by rw [← kt, ← kl] at y; exact y⟩
    refine ⟨t, by rw [← e1]; simp only [if_true]; rw [e]; rfl, ?_⟩
    refine ⟨by rw [e2]; simp only [s3, State.setTeam]; rw [r2], by rw [e2]; simp only [s3, State.setTeam]; rw [r2],
      by rw [e2]; simp only [s3]; omega, ⟨by rw [e2]; simp only [s3, State.setTeam]; rw [r2], fun _ => by
        rw [e2]; simp only [s3, State.setTeam]; rw [r2]⟩,
      fun id hid => (e3 id hid).trans ((State.team?_setTeam_other s2 b hid).trans (o2 id hid)), c, e4, ?_⟩
    refine TeamStep.of (b := b) (by rw [show b = { a with groups := b.groups } from rfl, k2.rest])
      (fun j hj => (Team.group_updGroup_other _ _ hj).trans (k2.group j hj)) ?_ (fun r => ?_) (by rw [hb, k2.own])
      (fun j _ => kth j) (fun j => by rw [show b.thread j = a.thread j from rfl, kth]) (fun r _ => ?_) q (by simpa using pc)
    · rw [hb, k2.own, ← hn]; simp [Group.SameButRegs, late]
    · rw [show (b.group is.grp).pendReg r = (a.group is.grp).pendReg r by rw [hb]; rfl, k2.pending r]
      simp only [List.mem_map, List.mem_flatten, if_true, id, forall_true_left]
      refine and_congr_right fun _ => ⟨fun k l hl w hw => k _ ⟨w, ⟨l, hl, hw⟩, rfl⟩, ?_⟩
      rintro k _ ⟨w, ⟨l, hl, hw⟩, rfl⟩
      exact k l hl w hw
    · rw [if_pos rfl, afterWrites_nil, ← k2.readReg r]
      exact Team.readReg_updGroup a is.grp (fun gr => { gr with pend := gr.pend ++ late }) (fun _ => rfl) r
  | false =>
    have hv' : ∀ w ∈ ws.flatten, w.1.Valid a is.grp ∧ w.1.Takes w.2 ∧ w.1.Mine a.w := fun w hw => by
      obtain ⟨x, y, z⟩ := hv w hw
      refine ⟨?_, y, by rw [kw]; exact z⟩
      revert x
      cases w.1 <;> simp [RegRef.Valid, kt, kl, k2.length]
    obtain ⟨b, w, hm, hr⟩ := State.putRegs_spec s2 is.team is.grp none ws.flatten a t2 hv'
    simp only [Bool.false_eq_true, if_false]
    generalize hs3 : s2.putRegs is.team is.grp none ws.flatten = s3 at w hm
    have k := w.keeps
    obtain ⟨t, c, e1, e2, e3, e4, q, pc⟩ := State.retireTo_spec s3 is b false (fun _ => none) w.team
      fun l hl => by
        obtain ⟨x, y⟩ := h.lanes l hl
        exact ⟨by rw [k.w, kw]; exact x, by rw [k.tid, kt, k.threads, kl]; exact y⟩
    have hs2m : s2.mats = s.mats := by rw [r2]
    refine ⟨t, e1, ?_⟩
    refine ⟨by rw [e2, w.rest, r2], by rw [e2]; refine Nat.le_trans ?_ w.fresh; rw [r2],
      by rw [e2, w.rest, r2], ⟨?_, fun x => ?_⟩,
      fun id hid => (e3 id hid).trans ((w.teams id hid).trans (o2 id hid)), c, e4, ?_⟩
    · rw [e2, ← hs2m]; exact w.mats
    · rw [e2, ← hs2m]; exact hm (by rw [kr]; exact x)
    refine TeamStep.of (b := b) (by rw [k.rest, k2.rest]) (fun j hj => (k.group j hj).trans (k2.group j hj)) ?_ (fun r => ?_)
      (by rw [k.own, k2.own]) (fun j hj => (k.other j (by rw [kw]; exact hj)).trans (kth j)) (fun j => by rw [k.thread j, kth])
      (fun r x => ?_) q (by simpa using pc)
    · rw [k.own, k2.own]; simp [Group.SameButRegs]
    · rw [k.pending, k2.pending]; simp
    · have := hr r (fun y => by rw [k2.pending]; exact ⟨x.1 (by simpa using y), by simp⟩)
        (fun y l n e ⟨u, hu, k, hk⟩ c hc =>
          x.2 (by rw [← kr]; exact y) l n e ⟨u, by simpa using hu, k, hk⟩ c (by rw [← hs2m]; exact hc))
      rw [this, k2.readReg]

theorem dst_writes_valid {s : State} {is : Issue} {tm : Team} (h : Running s is tm) (d : Dst) (l : Nat) (x : DWord)
    (hl : is.mask.getLsbD l = true) : ∀ w ∈ d.writes l x, w.1.Valid tm is.grp ∧ w.1.Takes w.2 ∧ w.1.Mine tm.w := by
  have := h.lanes l hl
  have := h.group
  cases d <;> simp [Dst.writes, RegRef.Valid, RegRef.Takes, RegRef.Mine, *]

/-- The common course of a register instruction (R205, R216, R238): with every operand inside the reservation it completes, and it
does what `RegStep` says. -/
theorem execPacked_spec {s : State} {is : Issue} {tm : Team} (h : Running s is tm) (m : Issue → BitVec 64) (long : Bool) (d : Dst)
    (srcs : List Src) (f : State → Issue → Team → Nat → List DWord → DWord × List (List Ev)) (hd : d.inRange tm.nv tm.ns = true)
    (hs : srcs.all (Src.inRange tm.nv tm.ns) = true) (hm : ∀ l, (m is).getLsbD l = true → is.mask.getLsbD l = true) :
    let lanes := execLanes d (m is)
    let res := fun l => f s is tm l (srcs.map (Src.read is.snap l))
    let ws := resultWrites d lanes fun l => (res l).1
    ∃ t, execPacked m long d srcs f s = .next t ∧
      RegStep s t is tm (if long then [] else ws.flatten) (if long then ws else [])
        (incsOf tm.ctx (some (is.team, is.grp)) (lanes.flatMap fun l => (res l).2.flatMap evClasses)) := by
  intro lanes res ws
  have hw : ∀ w ∈ ws.flatten, w.1.Valid tm is.grp ∧ w.1.Takes w.2 ∧ w.1.Mine tm.w := by
    intro w hw
    simp only [ws, resultWrites, List.mem_flatten, List.mem_map] at hw
    obtain ⟨_, ⟨l, hl, rfl⟩, hw⟩ := hw
    exact dst_writes_valid h d l _ (hm l (execLanes_sub d _ l hl)) w hw
  obtain ⟨t, e, r⟩ := giveResults_retire h
    (incsOf tm.ctx (some (is.team, is.grp)) (lanes.flatMap fun l => (res l).2.flatMap evClasses)) long ws hw
  have e0 : execPacked m long d srcs f s = .next (((s.countEvents tm.ctx (some (is.team, is.grp))
      (lanes.flatMap fun l => (res l).2.flatMap evClasses)).giveResults is long ws).retire is) := by
    simp only [execPacked, withIssue, h.issue, h.team, hd, hs, Bool.and_self, Bool.not_true, Bool.false_eq_true, if_false,
      List.flatMap_map, List.map_map]
    rfl
  exact ⟨t, e0.trans (congrArg Host.Outcome.next e), r⟩

/-- The common course of a compare (R51, R252): every lane of the active set combines its old pair. -/
theorem execCompare_spec {s : State} {is : Issue} {tm : Team} (h : Running s is tm) (g code p1 p2 : Nat) (srcs : List Src)
    (cond : List DWord → Bool) (h1 : p1 < 8) (h2 : p2 < 8) (hs : srcs.all (Src.inRange tm.nv tm.ns) = true) :
    ∃ t, execCompare g code p1 p2 srcs cond s = .next t ∧
      RegStep s t is tm ((lanesOf is.mask).flatMap fun l => predWrites l p1 p2
        (combine code (is.snap.pred l g) (cond (srcs.map (Src.read is.snap l))) (is.snap.pred l p1) (is.snap.pred l p2))) [] [] := by
  let lane (l : Nat) : List (RegRef × Word) := predWrites l p1 p2
    (combine code (is.snap.pred l g) (cond (srcs.map (Src.read is.snap l))) (is.snap.pred l p1) (is.snap.pred l p2))
  have hw : ∀ w ∈ ((lanesOf is.mask).map lane).flatten, w.1.Valid tm is.grp ∧ w.1.Takes w.2 ∧ w.1.Mine tm.w := by
    intro w hw
    simp only [List.mem_flatten, List.mem_map] at hw
    obtain ⟨_, ⟨l, hl, rfl⟩, hw⟩ := hw
    have hl := (mem_lanesOf _ _).1 hl
    obtain ⟨hw1, this⟩ := h.lanes l hl
    simp only [lane, predWrites, List.mem_append] at hw
    generalize combine code (is.snap.pred l g) (cond (srcs.map (Src.read is.snap l))) (is.snap.pred l p1) (is.snap.pred l p2) = r at hw
    obtain ⟨r1, r2⟩ := r
    have hb (b : Bool) : (if b = true then (1 : Word) else 0) = 0 ∨ (if b = true then (1 : Word) else 0) = 1 := by cases b <;> simp
    rcases hw with hw | hw
    · cases r1 with
      | none => simp at hw
      | some b => simp only [List.mem_singleton] at hw; subst hw; exact ⟨⟨this, h1⟩, hb b, hw1⟩
    · cases r2 with
      | none => simp at hw
      | some b => simp only [List.mem_singleton] at hw; subst hw; exact ⟨⟨this, h2⟩, hb b, hw1⟩
  obtain ⟨t, e, r⟩ := giveResults_retire h [] false ((lanesOf is.mask).map lane) hw
  have e0 : execCompare g code p1 p2 srcs cond s =
      .next ((s.giveResults is false ((lanesOf is.mask).map lane)).retire is) := by
    simp only [execCompare, withIssue, h.issue, h.team, hs, Bool.not_true, Bool.false_eq_true, if_false]
    rfl
  refine ⟨t, e0.trans (congrArg Host.Outcome.next ?_), r⟩
  rw [← e, List.append_nil]

/-- An instruction whose meaning is the common course computes what its result function says. -/
theorem computesPacked_of {i : Instr} {m : Issue → BitVec 64} {long : Bool} {d : Dst} {srcs : List Src}
    {f : State → Issue → Team → Nat → List DWord → DWord × List (List Ev)}
    (r : State → Issue → Team → Nat → List DWord → DWord × List (List Ev))
    (he : ∀ s, exec i s = execPacked m long d srcs r s) (hm : ∀ is l, (m is).getLsbD l = true → is.mask.getLsbD l = true)
    (hr : ∀ s is tm l, d.writes l (r s is tm l (srcs.map (Src.read is.snap l))).1 =
        d.writes l (f s is tm l (srcs.map (Src.read is.snap l))).1 ∧
      (r s is tm l (srcs.map (Src.read is.snap l))).2.flatMap evClasses =
        (f s is tm l (srcs.map (Src.read is.snap l))).2.flatMap evClasses) :
    ComputesPacked i m long d srcs f := by
  intro s is tm h hd hs
  obtain ⟨t, e, q⟩ := execPacked_spec h m long d srcs r hd hs (hm is)
  refine ⟨t, (he s).trans e, ?_⟩
  simp only [resultWrites, fun l => (hr s is tm l).1, fun l => (hr s is tm l).2] at q
  exact q

/-- The same where a result is one element. -/
theorem computes_of {i : Instr} {m : Issue → BitVec 64} {long : Bool} {d : Dst} {srcs : List Src}
    {f : State → Issue → Team → Nat → List DWord → DWord × List Ev} (r : State → Issue → Team → Nat → List DWord → Res)
    (he : ∀ s, exec i s = execLanesOp m long d srcs r s) (hm : ∀ is l, (m is).getLsbD l = true → is.mask.getLsbD l = true)
    (hr : ∀ s is tm l, d.writes l (r s is tm l (srcs.map (Src.read is.snap l))).val =
        d.writes l (f s is tm l (srcs.map (Src.read is.snap l))).1 ∧
      evClasses (r s is tm l (srcs.map (Src.read is.snap l))).ev = evClasses (f s is tm l (srcs.map (Src.read is.snap l))).2) :
    Computes i m long d srcs f :=
  computesPacked_of (fun s is tm l xs => ((r s is tm l xs).val, [(r s is tm l xs).ev])) he hm fun s is tm l =>
    ⟨(hr s is tm l).1, by simp [(hr s is tm l).2]⟩

end Sys2Proof.Machine
end

