-- ==== Sys2Proof/Tests/Slice0.lean ====
section
/-!
SUPPORT. Tests: words of the spec and the instructions they stand for, ill-formed instructions, worked examples of the spec, and for
every statement a state and operands that meet its hypotheses. Expected values come from the spec's listings, tables and examples.
-/

namespace Sys2Proof.Tests

open Sys2Proof Sys2Proof.Machine Sys2Proof.Claims

-- One test after another, so that the compiler holds few at a time.
set_option Elab.async false

/-! ### Words of the spec -/

/-- Rows of (bits, first word, extension word, instruction) that decode so. -/
abbrev decodesAll (l : List (Nat × Nat × Nat × Instr)) : Prop :=
  ∀ p ∈ l, decodeTableWord p.1 (p.2.1 + 2 ^ 32 * p.2.2.1) = some p.2.2.2

/-- Words of the arith family, from the spec's encodings and listings. -/
theorem test_decode_arith : decodesAll [
    (32, 0x0210A241, 0x00000000, .iaddSi 0 10 9 1),
    (32, 0x02105084, 0x00000000, .iaddSi 0 5 2 4),
    (64, 0x06110000, 0x08C04060, .iaddL (.lr ⟨2, 0, 0, 0, 0, 70, 2, 3, false, false, false, false, false⟩)),
    (64, 0x06110000, 0x006080A2, .iaddL (.lr ⟨2, 0, 0, 0, 0, 3, 4, 5, false, false, false, true, false⟩)),
    (32, 0x0060A30E, 0x00000000, .iadd64Sr 0 10 12 14),
    (32, 0x05A8703D, 0x00000000, .moviSu 7 0x3D)] := by
  decide

theorem test_decode_arith1 : decodesAll [
    (32, 0x0188824A, 0x00000000, .selSr 2 8 9 10),
    (32, 0x01E02187, 0x00000000, .icmpLtSc 0 0 1 0 6 7),
    (64, 0x07C32200, 0x0280C0E0, .icmpL ⟨6, 4, 2, 0, 0, 20, 6, 7, false, false, false, false, false⟩),
    (64, 0x07930000, 0x00800001, .movSpecial ⟨6, 0, 0, 0, 0, 4, 0, 0, false, false, false, false, true⟩),
    (64, 0x07930005, 0x00C00011, .movSpecial ⟨6, 0, 0, 5, 0, 6, 0, 0, true, false, false, false, true⟩)] := by
  decide

/-- Words of the float family, from the spec's encodings and listings. -/
theorem test_decode_float : decodesAll [
    (32, 0x483061C8, 0x00000000, .fmulSr 0 6 7 8),
    (32, 0x08109106, 0x00000000, .faddSr 0 9 4 6),
    (64, 0x0E140100, 0x006080A0, .faddL (.lr ⟨8, 0, 1, 0, 0, 3, 4, 5, false, false, false, false, false⟩)),
    (64, 0x0E380607, 0x3F000000, .fmulL (.li ⟨false, 0, 6, 7, 0x3F000000⟩)),
    (64, 0x0F25C000, 0x00406002, .cvtL ⟨11, 8, 0, 0, 0, 2, 3, 0, false, false, false, true, false⟩)] := by
  decide

/-- Words of the narrow family, from the spec's encodings and listings. -/
theorem test_decode_narrow : decodesAll [
    (64, 0x1625D809, 0x01804061, .dot8L ⟨11, 11, 0, 9, 0, 12, 2, 3, false, false, false, false, true⟩),
    (32, 0x10308400, 0x00000000, .qpackSr 0 8 16)] := by
  decide

/-- Words of the cross family, from the spec's encodings and listings. -/
theorem test_decode_cross : decodesAll [
    (32, 0x12605101, 0x00000000, .xbflySi 0 5 4 1),
    (32, 0x10918000, 0x00000000, .elect 3)] := by
  decide

/-- Words of the memory family, from the spec's encodings and listings. -/
theorem test_decode_memory : decodesAll [
    (32, 0x9A104080, 0x00000000, .ldSi 0 4 2 0),
    (64, 0x26130303, 0x01404180, .atomL ⟨6, 0, 3, 3, 0, 10, 2, 12, false, false, false, false, false⟩),
    (64, 0x26500303, 0x02008288, .cas128L ⟨0, 0, 3, 3, 0, 16, 4, 20, false, true, false, false, false⟩),
    (64, 0x26B40800, 0x2000C0A0, .demaL ⟨8, 1, 0, 0, 1, 0, 6, 5, false, false, false, false, false⟩),
    (64, 0x26A40800, 0x000040C0, .daddL ⟨8, 1, 0, 0, 0, 0, 2, 6, false, false, false, false, false⟩),
    (32, 0x20E0A000, 0x00000000, .odoAdv 0 10 0)] := by
  decide

theorem test_decode_memory1 : decodesAll [
    (32, 0x22804081, 0x00000000, .dldSi 0 4 2 1)] := by
  decide

/-- Words of the limb family, from the spec's encodings and listings. -/
theorem test_decode_limb : decodesAll [
    (32, 0x21000002, 0x00000000, .lbind 2),
    (32, 0x21100000, 0x00000000, .lfree),
    (64, 0x27A3070B, 0x01410120, .lmadL ⟨6, 0, 7, 11, 0, 10, 8, 9, false, false, false, false, false⟩),
    (64, 0x2773000A, 0x016160C5, .lshlL ⟨6, 0, 0, 10, 0, 11, 11, 6, false, false, true, false, true⟩),
    (64, 0x27230605, 0x01404080, .laddL ⟨6, 0, 6, 5, 0, 10, 2, 4, false, false, false, false, false⟩),
    (32, 0x2170A28D, 0x00000000, .lshlSr 0 10 10 13)] := by
  decide

theorem test_decode_limb1 : decodesAll [
    (32, 0x2120B2CC, 0x00000000, .laddSr 0 11 11 12)] := by
  decide

/-- Words of the matrix family, from the spec's encodings and listings. -/
theorem test_decode_matrix : decodesAll [
    (32, 0x28110000, 0x00000000, .mma 0 16 0),
    (32, 0x281D0000, 0x00000000, .mma 3 16 0),
    (32, 0x28200000, 0x00000000, .mmaWait 0 0),
    (32, 0x28400000, 0x00000000, .ofence 0),
    (32, 0x283E0000, 0x00000000, .mmaDrainSf 3 32 0),
    (32, 0x28505000, 0x00000000, .accClrSf 0 5)] := by
  decide

theorem test_decode_matrix1 : decodesAll [
    (64, 0x2E640003, 0x0500C108, .accLd ⟨8, 0, 0, 3, 0, 40, 6, 8, false, true, false, false, false⟩),
    (32, 0x28809001, 0x00000000, .accGrow 0 9 1)] := by
  decide

/-- Words of the engine family, from the spec's encodings and listings. -/
theorem test_decode_engine : decodesAll [
    (32, 0x28C04000, 0x00000000, .cpySf 0 4),
    (32, 0x28F00000, 0x00000000, .cpyWait 0 0),
    (32, 0x29009000, 0x00000000, .cpyPoll 0 9),
    (32, 0x2940828C, 0x00000000, .flowSendSf 0 8 10 12),
    (64, 0x2F400000, 0x0101419D, .flowSendL ⟨0, 0, 0, 0, 0, 8, 10, 12, true, true, true, false, true⟩),
    (32, 0x29608380, 0x00000000, .flowWaitSf 0 8 14)] := by
  decide

theorem test_decode_engine1 : decodesAll [
    (32, 0x29714202, 0x00000000, .flowStatSf 0 20 8 2),
    (32, 0x29A08000, 0x00000000, .collStartSf 0 8),
    (32, 0x29C14201, 0x00000000, .collStatSf 0 20 8 1),
    (32, 0x29D04180, 0x00000000, .trigAtSf 0 4 6),
    (32, 0x29E04189, 0x00000000, .trigOnSf 0 4 6 9)] := by
  decide

/-- Words of the control family, from the spec's encodings and listings. -/
theorem test_decode_control : decodesAll [
    (32, 0x301BFFFE, 0x00000000, .braSb 2 0x3FFFE),
    (64, 0x36180000, 0x00010000, .braLi ⟨false, 0, 0, 0, 0x10000⟩),
    (32, 0x302001C0, 0x00000000, .brxSf 0 7),
    (32, 0x30500004, 0x00000000, .meetSb 0 4),
    (32, 0x30600000, 0x00000000, .exit 0),
    (32, 0x30700001, 0x00000000, .regroup 0 1)] := by
  decide

theorem test_decode_control1 : decodesAll [
    (32, 0x30800000, 0x00000000, .rgn 0),
    (32, 0x30900000, 0x00000000, .yield 0),
    (32, 0x30A00000, 0x00000000, .nop 0),
    (32, 0x30B03980, 0x00000000, .rep 3 1 0 1 2 0 0),
    (32, 0x31007000, 0x00000000, .barArriveSf 0 7 0),
    (32, 0x31105181, 0x00000000, .barExpSf 0 5 6 1)] := by
  decide

theorem test_decode_control2 : decodesAll [
    (32, 0x31205000, 0x00000000, .barWaitSf 0 5 0),
    (32, 0x31300002, 0x00000000, .fence 0 2),
    (32, 0x31403200, 0x00000000, .tokAcqSf 0 3 8)] := by
  decide

/-- Words of the system family, from the spec's encodings and listings. -/
theorem test_decode_system : decodesAll [
    (32, 0x38100007, 0x00000000, .trap 0 7),
    (32, 0x38314040, 0x00000000, .sysRdSf 0 20 0x40),
    (32, 0x38415043, 0x00000000, .sysWrSf 0 21 0x43),
    (32, 0x3860A000, 0x00000000, .tstamp 0 10),
    (32, 0x3870C011, 0x00000000, .cntRdSf 0 12 0x11)] := by
  decide
/-! ### A word of every other instruction

Laid out from Tables 3.2, 3.3 and 3.8 to 3.11: operand fields with values of their own.
-/

theorem test_decode_integer_row0 : decodesAll [
    (32, 0x0014C524, 0, .iaddSr 1 12 20 36),
    (32, 0x0410C524, 0, .iaddSu 0 12 20 36),
    (32, 0x0024C524, 0, .isubSr 1 12 20 36),
    (32, 0x0224C524, 0, .isubSi 1 12 20 36),
    (32, 0x0420C524, 0, .isubSu 0 12 20 36),
    (64, 0x06210000, 0x28C08100, .isubL (.lr ⟨2, 0, 0, 0, 1, 70, 4, 8, false, false, false, false, false⟩)),
    (32, 0x0034C524, 0, .imulSr 1 12 20 36),
    (32, 0x0234C524, 0, .imulSi 1 12 20 36),
    (32, 0x0430C524, 0, .imulSu 0 12 20 36),
    (64, 0x06310000, 0x28C08100, .imulL (.lr ⟨2, 0, 0, 0, 1, 70, 4, 8, false, false, false, false, false⟩)),
    (64, 0x06410000, 0x28C08100, .imadL ⟨2, 0, 0, 0, 1, 70, 4, 8, false, false, false, false, false⟩),
    (32, 0x0054C524, 0, .imulhiSr 1 12 20 36),
    (32, 0x0450C524, 0, .imulhiSu 0 12 20 36),
    (64, 0x06510000, 0x28C08100, .imulhiL ⟨2, 0, 0, 0, 1, 70, 4, 8, false, false, false, false, false⟩)] := by
  decide

theorem test_decode_integer_row1 : decodesAll [
    (32, 0x0264C524, 0, .iadd64Si 1 12 20 36),
    (32, 0x0460C524, 0, .iadd64Su 0 12 20 36),
    (64, 0x06618000, 0x28C08100, .iadd64L (.lr ⟨3, 0, 0, 0, 1, 70, 4, 8, false, false, false, false, false⟩)),
    (32, 0x0074C500, 0, .inegSr 1 12 20),
    (32, 0x0470A300, 0, .inegSu 10 12),
    (64, 0x06710000, 0x28C08000, .inegL ⟨2, 0, 0, 0, 1, 70, 4, 0, false, false, false, false, false⟩),
    (32, 0x0084C500, 0, .iabsSr 1 12 20),
    (32, 0x0480A300, 0, .iabsSu 10 12),
    (64, 0x06810000, 0x28C08000, .iabsL ⟨2, 0, 0, 0, 1, 70, 4, 0, false, false, false, false, false⟩),
    (32, 0x0094C524, 0, .iminSr 1 12 20 36),
    (32, 0x0294C524, 0, .iminSi 1 12 20 36),
    (32, 0x0490C524, 0, .iminSu 0 12 20 36),
    (64, 0x06910000, 0x28C08100, .iminL (.lr ⟨2, 0, 0, 0, 1, 70, 4, 8, false, false, false, false, false⟩)),
    (32, 0x00A4C524, 0, .imaxSr 1 12 20 36)] := by
  decide

theorem test_decode_integer_row2 : decodesAll [
    (32, 0x02A4C524, 0, .imaxSi 1 12 20 36),
    (32, 0x04A0C524, 0, .imaxSu 0 12 20 36),
    (64, 0x06A10000, 0x28C08100, .imaxL (.lr ⟨2, 0, 0, 0, 1, 70, 4, 8, false, false, false, false, false⟩)),
    (32, 0x00B4C524, 0, .andSr 1 12 20 36),
    (32, 0x02B4C524, 0, .andSi 1 12 20 36),
    (32, 0x04B0C524, 0, .andSu 0 12 20 36),
    (64, 0x06B10000, 0x28C08100, .andL (.lr ⟨2, 0, 0, 0, 1, 70, 4, 8, false, false, false, false, false⟩)),
    (32, 0x00C4C524, 0, .orSr 1 12 20 36),
    (32, 0x02C4C524, 0, .orSi 1 12 20 36),
    (32, 0x04C0C524, 0, .orSu 0 12 20 36),
    (64, 0x06C10000, 0x28C08100, .orL (.lr ⟨2, 0, 0, 0, 1, 70, 4, 8, false, false, false, false, false⟩)),
    (32, 0x00D4C524, 0, .xorSr 1 12 20 36),
    (32, 0x02D4C524, 0, .xorSi 1 12 20 36),
    (32, 0x04D0C524, 0, .xorSu 0 12 20 36)] := by
  decide

theorem test_decode_integer_row3 : decodesAll [
    (64, 0x06D10000, 0x28C08100, .xorL (.lr ⟨2, 0, 0, 0, 1, 70, 4, 8, false, false, false, false, false⟩)),
    (32, 0x00E4C500, 0, .notSr 1 12 20),
    (32, 0x04E0A300, 0, .notSu 10 12),
    (64, 0x06E10000, 0x28C08000, .notL ⟨2, 0, 0, 0, 1, 70, 4, 0, false, false, false, false, false⟩),
    (32, 0x00F4C524, 0, .shlSr 1 12 20 36),
    (32, 0x02F4C524, 0, .shlSi 1 12 20 36),
    (32, 0x04F0C524, 0, .shlSu 0 12 20 36),
    (64, 0x06F10000, 0x28C08100, .shlL ⟨2, 0, 0, 0, 1, 70, 4, 8, false, false, false, false, false⟩),
    (32, 0x0104C524, 0, .shrSr 1 12 20 36),
    (32, 0x0304C524, 0, .shrSi 1 12 20 36),
    (32, 0x0500C524, 0, .shrSu 0 12 20 36),
    (64, 0x07010000, 0x28C08100, .shrL ⟨2, 0, 0, 0, 1, 70, 4, 8, false, false, false, false, false⟩),
    (32, 0x0114C524, 0, .sarSr 1 12 20 36),
    (32, 0x0314C524, 0, .sarSi 1 12 20 36)] := by
  decide

theorem test_decode_integer_row4 : decodesAll [
    (32, 0x0510C524, 0, .sarSu 0 12 20 36),
    (64, 0x07110000, 0x28C08100, .sarL ⟨2, 0, 0, 0, 1, 70, 4, 8, false, false, false, false, false⟩),
    (32, 0x0124C524, 0, .rotlSr 1 12 20 36),
    (32, 0x0324C524, 0, .rotlSi 1 12 20 36),
    (32, 0x0520C524, 0, .rotlSu 0 12 20 36),
    (64, 0x07210000, 0x28C08100, .rotlL ⟨2, 0, 0, 0, 1, 70, 4, 8, false, false, false, false, false⟩),
    (64, 0x07310000, 0x28C08100, .bfxL ⟨2, 0, 0, 0, 1, 70, 4, 8, false, false, false, false, false⟩),
    (64, 0x07410000, 0x28C08100, .bfiL ⟨2, 0, 0, 0, 1, 70, 4, 8, false, false, false, false, false⟩),
    (32, 0x0154C500, 0, .popcSr 1 12 20),
    (32, 0x0550A300, 0, .popcSu 10 12),
    (64, 0x07510000, 0x28C08000, .popcL ⟨2, 0, 0, 0, 1, 70, 4, 0, false, false, false, false, false⟩),
    (32, 0x0164C500, 0, .clzSr 1 12 20),
    (32, 0x0560A300, 0, .clzSu 10 12),
    (64, 0x07610000, 0x28C08000, .clzL ⟨2, 0, 0, 0, 1, 70, 4, 0, false, false, false, false, false⟩)] := by
  decide

theorem test_decode_integer_row5 : decodesAll [
    (32, 0x0174C500, 0, .brevSr 1 12 20),
    (32, 0x0570A300, 0, .brevSu 10 12),
    (64, 0x07710000, 0x28C08000, .brevL ⟨2, 0, 0, 0, 1, 70, 4, 0, false, false, false, false, false⟩),
    (64, 0x07810000, 0x28C08100, .selL ⟨2, 0, 0, 0, 1, 70, 4, 8, false, false, false, false, false⟩),
    (32, 0x0194C500, 0, .movSr 1 12 20),
    (32, 0x0590A300, 0, .movSu 10 12),
    (64, 0x07910000, 0x28C08000, .movL ⟨2, 0, 0, 0, 1, 70, 4, 0, false, false, false, false, false⟩),
    (32, 0x03A4C014, 0, .moviSi 1 12 20),
    (64, 0x07A90A00, 0x12345678, .moviLi ⟨false, 1, 10, 0, 0x12345678⟩),
    (64, 0x07B10000, 0x28C08100, .leaL (.lr ⟨2, 0, 0, 0, 1, 70, 4, 8, false, false, false, false, false⟩)),
    (32, 0x01C5228C, 0, .icmpEqSc 1 2 1 0 10 12),
    (32, 0x03C5228C, 0, .icmpEqSci 1 2 1 0 10 12),
    (32, 0x01D5228C, 0, .icmpNeSc 1 2 1 0 10 12),
    (32, 0x03D5228C, 0, .icmpNeSci 1 2 1 0 10 12)] := by
  decide

theorem test_decode_integer_row6 : decodesAll [
    (32, 0x03E5228C, 0, .icmpLtSci 1 2 1 0 10 12),
    (32, 0x01F5228C, 0, .icmpLeSc 1 2 1 0 10 12),
    (32, 0x03F5228C, 0, .icmpLeSci 1 2 1 0 10 12)] := by
  decide

theorem test_decode_float_row0 : decodesAll [
    (32, 0x0C10A314, 0, .faddSu 10 12 20),
    (32, 0x0824C524, 0, .fsubSr 1 12 20 36),
    (32, 0x0C20A314, 0, .fsubSu 10 12 20),
    (64, 0x0E240000, 0x28C08100, .fsubL (.lr ⟨8, 0, 0, 0, 1, 70, 4, 8, false, false, false, false, false⟩)),
    (32, 0x0C30A314, 0, .fmulSu 10 12 20),
    (64, 0x0E440000, 0x28C08100, .ffmaL ⟨8, 0, 0, 0, 1, 70, 4, 8, false, false, false, false, false⟩),
    (32, 0x0854C524, 0, .fminSr 1 12 20 36),
    (32, 0x0C50A314, 0, .fminSu 10 12 20),
    (64, 0x0E540000, 0x28C08100, .fminL (.lr ⟨8, 0, 0, 0, 1, 70, 4, 8, false, false, false, false, false⟩)),
    (32, 0x0864C524, 0, .fmaxSr 1 12 20 36),
    (32, 0x0C60A314, 0, .fmaxSu 10 12 20),
    (64, 0x0E640000, 0x28C08100, .fmaxL (.lr ⟨8, 0, 0, 0, 1, 70, 4, 8, false, false, false, false, false⟩)),
    (32, 0x0874C500, 0, .fnegSr 1 12 20),
    (32, 0x0C70A300, 0, .fnegSu 10 12)] := by
  decide

theorem test_decode_float_row1 : decodesAll [
    (64, 0x0E740000, 0x28C08000, .fnegL ⟨8, 0, 0, 0, 1, 70, 4, 0, false, false, false, false, false⟩),
    (32, 0x0884C500, 0, .fabsSr 1 12 20),
    (32, 0x0C80A300, 0, .fabsSu 10 12),
    (64, 0x0E840000, 0x28C08000, .fabsL ⟨8, 0, 0, 0, 1, 70, 4, 0, false, false, false, false, false⟩),
    (32, 0x0894C500, 0, .frcpSr 1 12 20),
    (32, 0x0C90A300, 0, .frcpSu 10 12),
    (64, 0x0E940000, 0x28C08000, .frcpL ⟨8, 0, 0, 0, 1, 70, 4, 0, false, false, false, false, false⟩),
    (32, 0x08A4C500, 0, .frsqSr 1 12 20),
    (32, 0x0CA0A300, 0, .frsqSu 10 12),
    (64, 0x0EA40000, 0x28C08000, .frsqL ⟨8, 0, 0, 0, 1, 70, 4, 0, false, false, false, false, false⟩),
    (32, 0x08B4C500, 0, .fsqrtSr 1 12 20),
    (32, 0x0CB0A300, 0, .fsqrtSu 10 12),
    (64, 0x0EB40000, 0x28C08000, .fsqrtL ⟨8, 0, 0, 0, 1, 70, 4, 0, false, false, false, false, false⟩),
    (32, 0x08C4C500, 0, .fexp2Sr 1 12 20)] := by
  decide

theorem test_decode_float_row2 : decodesAll [
    (32, 0x0CC0A300, 0, .fexp2Su 10 12),
    (64, 0x0EC40000, 0x28C08000, .fexp2L ⟨8, 0, 0, 0, 1, 70, 4, 0, false, false, false, false, false⟩),
    (32, 0x08D4C500, 0, .flog2Sr 1 12 20),
    (32, 0x0CD0A300, 0, .flog2Su 10 12),
    (64, 0x0ED40000, 0x28C08000, .flog2L ⟨8, 0, 0, 0, 1, 70, 4, 0, false, false, false, false, false⟩),
    (32, 0x08E4C500, 0, .fsinSr 1 12 20),
    (32, 0x0CE0A300, 0, .fsinSu 10 12),
    (64, 0x0EE40000, 0x28C08000, .fsinL ⟨8, 0, 0, 0, 1, 70, 4, 0, false, false, false, false, false⟩),
    (32, 0x08F4C500, 0, .fcosSr 1 12 20),
    (32, 0x0CF0A300, 0, .fcosSu 10 12),
    (64, 0x0EF40000, 0x28C08000, .fcosL ⟨8, 0, 0, 0, 1, 70, 4, 0, false, false, false, false, false⟩),
    (32, 0x0904C500, 0, .ftanhSr 1 12 20),
    (32, 0x0D00A300, 0, .ftanhSu 10 12),
    (64, 0x0F040000, 0x28C08000, .ftanhL ⟨8, 0, 0, 0, 1, 70, 4, 0, false, false, false, false, false⟩)] := by
  decide

theorem test_decode_float_row3 : decodesAll [
    (32, 0x0914C500, 0, .fclassSr 1 12 20),
    (64, 0x0F140000, 0x28C08000, .fclassL ⟨8, 0, 0, 0, 1, 70, 4, 0, false, false, false, false, false⟩),
    (32, 0x0924C500, 0, .cvtSr 1 12 20),
    (32, 0x0D20A300, 0, .cvtSu 10 12),
    (32, 0x09C5228C, 0, .fcmpEqSc 1 2 1 0 10 12),
    (32, 0x09D5228C, 0, .fcmpNeSc 1 2 1 0 10 12),
    (32, 0x09E5228C, 0, .fcmpLtSc 1 2 1 0 10 12),
    (32, 0x09F5228C, 0, .fcmpLeSc 1 2 1 0 10 12),
    (64, 0x0FC40000, 0x28C08100, .fcmpL ⟨8, 0, 0, 0, 1, 70, 4, 8, false, false, false, false, false⟩)] := by
  decide

theorem test_decode_narrow_row0 : decodesAll [
    (32, 0x1014C524, 0, .dot4Sr 1 12 20 36),
    (64, 0x16100000, 0x28C08100, .dot4L ⟨0, 0, 0, 0, 1, 70, 4, 8, false, false, false, false, false⟩),
    (32, 0x1024C524, 0, .dot8Sr 1 12 20 36),
    (64, 0x16300000, 0x28C08000, .qpackL ⟨0, 0, 0, 0, 1, 70, 4, 0, false, false, false, false, false⟩),
    (32, 0x1044C500, 0, .qunpkSr 1 12 20),
    (64, 0x16400000, 0x20008000, .qunpkL ⟨0, 0, 0, 0, 1, 0, 4, 0, false, false, false, false, false⟩),
    (32, 0x1054C524, 0, .shflSr 1 12 20 36),
    (32, 0x1254C524, 0, .shflRotSi 1 12 20 36),
    (64, 0x16530000, 0x28C08100, .shflL ⟨6, 0, 0, 0, 1, 70, 4, 8, false, false, false, false, false⟩),
    (32, 0x1064C524, 0, .xbflySr 1 12 20 36),
    (64, 0x16630000, 0x28C08100, .xbflyL ⟨6, 0, 0, 0, 1, 70, 4, 8, false, false, false, false, false⟩),
    (32, 0x1074C524, 0, .bcastSr 1 12 20 36),
    (32, 0x1274C51F, 0, .bcastSi 1 12 20 31),
    (64, 0x16730000, 0x28C08100, .bcastL ⟨6, 0, 0, 0, 1, 70, 4, 8, false, false, false, false, false⟩)] := by
  decide

theorem test_decode_narrow_row1 : decodesAll [
    (32, 0x1085B900, 0, .voteSf 1 3 3 36),
    (64, 0x16800000, 0x20000000, .voteL ⟨0, 0, 0, 0, 1, 0, 0, 0, false, false, false, false, false⟩),
    (32, 0x10A4C500, 0, .lredSr 1 12 20),
    (64, 0x16A10000, 0x28C08000, .lredL ⟨2, 0, 0, 0, 1, 70, 4, 0, false, false, false, false, false⟩),
    (32, 0x10B4C500, 0, .lscanSr 1 12 20),
    (64, 0x16B10000, 0x28C08000, .lscanL ⟨2, 0, 0, 0, 1, 70, 4, 0, false, false, false, false, false⟩),
    (64, 0x16C40000, 0x28C08100, .vfacL ⟨8, 0, 0, 0, 1, 70, 4, 8, false, false, false, false, false⟩)] := by
  decide

theorem test_decode_memory_row0 : decodesAll [
    (64, 0x1E110000, 0x28C08000, .ldL (.lr ⟨2, 0, 0, 0, 1, 70, 4, 0, false, false, false, false, false⟩)),
    (32, 0x1A24C524, 0, .stSi 1 12 20 36),
    (64, 0x1E210000, 0x28C08000, .stL (.lr ⟨2, 0, 0, 0, 1, 70, 4, 0, false, false, false, false, false⟩)),
    (32, 0x1A341524, 0, .prefSi 1 1 20 36),
    (64, 0x1E330000, 0x20008000, .prefL (.lr ⟨6, 0, 0, 0, 1, 0, 4, 0, false, false, false, false, false⟩))] := by
  decide

theorem test_decode_limb_row0 : decodesAll [
    (64, 0x26210000, 0x20008100, .redL ⟨2, 0, 0, 0, 1, 0, 4, 8, false, false, false, false, false⟩),
    (64, 0x26300000, 0x28C08100, .casL ⟨0, 0, 0, 0, 1, 70, 4, 8, false, false, false, false, false⟩),
    (64, 0x26400000, 0x28C08100, .cas64L ⟨0, 0, 0, 0, 1, 70, 4, 8, false, false, false, false, false⟩),
    (64, 0x26840000, 0x28C08000, .dldL ⟨8, 0, 0, 0, 1, 70, 4, 0, false, false, false, false, false⟩),
    (32, 0x2294C524, 0, .dstSi 1 12 20 36),
    (64, 0x26940000, 0x28C08000, .dstL ⟨8, 0, 0, 0, 1, 70, 4, 0, false, false, false, false, false⟩),
    (64, 0x26C40000, 0x20008100, .dmrgL ⟨8, 0, 0, 0, 1, 0, 4, 8, false, false, false, false, false⟩),
    (32, 0x20D4C000, 0, .odoRd 1 12),
    (32, 0x2134C524, 0, .ladcSr 1 12 20 36),
    (64, 0x27330000, 0x28C08100, .ladcL ⟨6, 0, 0, 0, 1, 70, 4, 8, false, false, false, false, false⟩),
    (32, 0x2144C524, 0, .lsubSr 1 12 20 36),
    (64, 0x27430000, 0x28C08100, .lsubL ⟨6, 0, 0, 0, 1, 70, 4, 8, false, false, false, false, false⟩),
    (32, 0x2154C524, 0, .lsbcSr 1 12 20 36),
    (64, 0x27530000, 0x28C08100, .lsbcL ⟨6, 0, 0, 0, 1, 70, 4, 8, false, false, false, false, false⟩)] := by
  decide

theorem test_decode_limb_row1 : decodesAll [
    (32, 0x2164C500, 0, .lnegSr 1 12 20),
    (64, 0x27630000, 0x28C08000, .lnegL ⟨6, 0, 0, 0, 1, 70, 4, 0, false, false, false, false, false⟩),
    (32, 0x2374C524, 0, .lshlSi 1 12 20 36),
    (32, 0x2184C524, 0, .lshrSr 1 12 20 36),
    (32, 0x2384C524, 0, .lshrSi 1 12 20 36),
    (64, 0x27810000, 0x28C08100, .lshrL ⟨2, 0, 0, 0, 1, 70, 4, 8, false, false, false, false, false⟩),
    (32, 0x2195228C, 0, .lcmpSc 1 2 1 0 10 12),
    (64, 0x27910000, 0x28C08100, .lcmpL ⟨2, 0, 0, 0, 1, 70, 4, 8, false, false, false, false, false⟩),
    (32, 0x21B4C524, 0, .lcarrySr 1 12 20 36),
    (64, 0x27B30000, 0x28C08100, .lcarryL ⟨6, 0, 0, 0, 1, 70, 4, 8, false, false, false, false, false⟩)] := by
  decide

theorem test_decode_engine_row0 : decodesAll [
    (64, 0x2E300000, 0x20020008, .mmaDrainL ⟨0, 0, 0, 0, 1, 0, 16, 0, false, true, false, false, false⟩),
    (64, 0x2E500000, 0x20008008, .accClrL ⟨0, 0, 0, 0, 1, 0, 4, 0, false, true, false, false, false⟩),
    (64, 0x2E740000, 0x28C08100, .accSt ⟨8, 0, 0, 0, 1, 70, 4, 8, false, false, false, false, false⟩),
    (64, 0x2EC00000, 0x20008008, .cpyL ⟨0, 0, 0, 0, 1, 0, 4, 0, false, true, false, false, false⟩),
    (32, 0x28D4C000, 0, .cpyQSf 1 12),
    (64, 0x2ED00000, 0x20008008, .cpyQL ⟨0, 0, 0, 0, 1, 0, 4, 0, false, true, false, false, false⟩),
    (32, 0x28E4C000, 0, .cpyMcSf 1 12),
    (64, 0x2EE00000, 0x20008008, .cpyMcL ⟨0, 0, 0, 0, 1, 0, 4, 0, false, true, false, false, false⟩),
    (32, 0x2954C524, 0, .flowMcastSf 1 12 20 36),
    (64, 0x2F500000, 0x2100811C, .flowMcastL ⟨0, 0, 0, 0, 1, 8, 4, 8, true, true, true, false, false⟩),
    (64, 0x2F600000, 0x21008018, .flowWaitL ⟨0, 0, 0, 0, 1, 8, 4, 0, true, true, false, false, false⟩),
    (64, 0x2F700000, 0x21008018, .flowStatL ⟨0, 0, 0, 0, 1, 8, 4, 0, true, true, false, false, false⟩),
    (64, 0x2FA00000, 0x20008008, .collStartL ⟨0, 0, 0, 0, 1, 0, 4, 0, false, true, false, false, false⟩),
    (32, 0x29B40002, 0, .collWaitSf 1 2)] := by
  decide

theorem test_decode_engine_row1 : decodesAll [
    (64, 0x2FB00000, 0x20000000, .collWaitL ⟨0, 0, 0, 0, 1, 0, 0, 0, false, false, false, false, false⟩),
    (64, 0x2FC00000, 0x21008018, .collStatL ⟨0, 0, 0, 0, 1, 8, 4, 0, true, true, false, false, false⟩),
    (64, 0x2FD00000, 0x21008018, .trigAtL ⟨0, 0, 0, 0, 1, 8, 4, 0, true, true, false, false, false⟩),
    (64, 0x2FE00000, 0x2100811C, .trigOnL ⟨0, 0, 0, 0, 1, 8, 4, 8, true, true, true, false, false⟩)] := by
  decide

theorem test_decode_control_row0 : decodesAll [
    (64, 0x36200000, 0x20008000, .brxL ⟨0, 0, 0, 0, 1, 0, 4, 0, false, false, false, false, false⟩),
    (32, 0x3034000C, 0, .callSb 1 12),
    (64, 0x36390000, 0xFFFFFFFE, .callLi ⟨false, 1, 0, 0, 0xFFFFFFFE⟩),
    (32, 0x30440000, 0, .ret 1),
    (64, 0x36590000, 0x00000100, .meetLi ⟨false, 1, 0, 0, 0x00000100⟩),
    (64, 0x37000000, 0x2000810C, .barArriveL ⟨0, 0, 0, 0, 1, 0, 4, 8, false, true, true, false, false⟩),
    (64, 0x37100000, 0x2000810C, .barExpL ⟨0, 0, 0, 0, 1, 0, 4, 8, false, true, true, false, false⟩),
    (64, 0x37200000, 0x2000810C, .barWaitL ⟨0, 0, 0, 0, 1, 0, 4, 8, false, true, true, false, false⟩),
    (64, 0x37400000, 0x21008018, .tokAcqL ⟨0, 0, 0, 0, 1, 8, 4, 0, true, true, false, false, false⟩),
    (32, 0x3154C500, 0, .tokRelSf 1 12 20),
    (64, 0x37500000, 0x21008018, .tokRelL ⟨0, 0, 0, 0, 1, 8, 4, 0, true, true, false, false, false⟩)] := by
  decide

theorem test_decode_system_row0 : decodesAll [
    (32, 0x3824000C, 0, .brk 1 12),
    (64, 0x3E300000, 0x21008018, .sysRdL ⟨0, 0, 0, 0, 1, 8, 4, 0, true, true, false, false, false⟩),
    (64, 0x3E400000, 0x21008018, .sysWrL ⟨0, 0, 0, 0, 1, 8, 4, 0, true, true, false, false, false⟩),
    (64, 0x3F300000, 0x21008018, .sysRdK ⟨0, 0, 0, 0, 1, 8, 4, 0, true, true, false, false, false⟩),
    (64, 0x3F400000, 0x21008018, .sysWrK ⟨0, 0, 0, 0, 1, 8, 4, 0, true, true, false, false, false⟩),
    (32, 0x3854C000, 0, .launchSf 1 12),
    (64, 0x3E500000, 0x20008008, .launchL ⟨0, 0, 0, 0, 1, 0, 4, 0, false, true, false, false, false⟩),
    (64, 0x3E700000, 0x21008018, .cntRdL ⟨0, 0, 0, 0, 1, 8, 4, 0, true, true, false, false, false⟩)] := by
  decide

/-! ### Ill-formed instructions -/

/-- A long form with every field zero. -/
def lr0 : LR := ⟨0, 0, 0, 0, 0, 0, 0, 0, false, false, false, false, false⟩
def li0 : LI := ⟨false, 0, 0, 0, 0⟩

/-- Integer and floating long forms: a type that the entry does not take, a pair at an odd register, SAT or RM where there is none, a scalar
destination with a vector source, a scalar above s95, a pair of predicates that is one predicate (R49, R51, R241). -/
theorem test_illFormed_arithmetic : ∀ i ∈ [
    Instr.iaddL (.lr { lr0 with t1 := 4 }), .iaddL (.lr { lr0 with t1 := 3, d := 1 }), .iaddL (.li { li0 with k := true, d := 96 }),
    .iaddL (.lr { lr0 with t1 := 2, kd := true }), .iminL (.lr { lr0 with t1 := 2, sat := true }), .imulhiL { lr0 with t1 := 3 },
    .iadd64Sr 0 1 2 4, .iadd64Si 0 2 3 1, .iadd64Su 0 2 4 5, .iadd64L (.lr { lr0 with t1 := 2 }), .iabsL { lr0 with t1 := 6 },
    .notL { lr0 with t1 := 2, sat := true }, .shlL { lr0 with t1 := 2, c := 1 }, .imadL { lr0 with t1 := 3, c := 1 },
    .bfxL { lr0 with t1 := 2, x := false, c := 1 }, .bfiL { lr0 with t1 := 3 }, .selL { lr0 with t1 := 2, kd := true },
    .movL { lr0 with t1 := 8 }, .movSpecial { lr0 with t1 := 6, x := true, c := 11 }, .leaL (.lr { lr0 with t1 := 2, d := 1 }),
    .icmpL { lr0 with t1 := 2, t2 := 6, d := 0x12 }, .icmpL { lr0 with t1 := 2, d := 0x11 }], ¬ WellFormed i := by
  decide

/-- Floating, narrow, cross-lane forms. -/
theorem test_illFormed_float : ∀ i ∈ [
    Instr.faddL (.lr { lr0 with t1 := 2 }), .faddL (.lr { lr0 with t1 := 8, rm := 5 }), .ffmaL { lr0 with t1 := 8, kd := true },
    .fminL (.lr { lr0 with t1 := 8, rm := 1 }), .fnegL { lr0 with t1 := 11 }, .frcpL { lr0 with t1 := 8, rm := 1 },
    .fclassL { lr0 with t1 := 8, sat := true }, .cvtL { lr0 with t1 := 8, t2 := 8 }, .cvtL { lr0 with t1 := 14, t2 := 8 },
    .fcmpL { lr0 with t1 := 8, t2 := 8 }, .dot4L { lr0 with t1 := 0, t2 := 13 }, .dot8L { lr0 with t1 := 0, t2 := 0, rm := 1 },
    .qpackL { lr0 with t1 := 11, t2 := 0, a := 2 }, .qpackL { lr0 with t1 := 11, t2 := 2 }, .qunpkL { lr0 with t1 := 13, t2 := 1, d := 4 },
    .shflL { lr0 with t1 := 2 }, .bcastL { lr0 with t1 := 7, d := 1 }, .voteL { lr0 with t2 := 3, d := 2 }, .voteL { lr0 with d := 8 },
    .lredL { lr0 with t1 := 8, t2 := 3 }, .lscanL { lr0 with t1 := 2, kd := true }, .vfacL { lr0 with t1 := 8, c := 1 },
    .vfacL { lr0 with t1 := 8, x := true, sat := true }], ¬ WellFormed i := by
  decide

/-- Memory, decay and limb forms: an odd address pair, an unknown scope or kind, a kind without its scope, a limb count code above 5, an
overflow predicate in `lcarry`, `lmad` with d = c. -/
theorem test_illFormed_memory : ∀ i ∈ [
    Instr.ldL (.li { li0 with a := 1 }), .ldL (.lr { lr0 with t1 := 6, rm := 6 }), .ldL (.lr { lr0 with t1 := 6, t2 := 11 }),
    .stL (.lr { lr0 with t1 := 6, t2 := 10 }), .prefL (.lr { lr0 with t1 := 6, d := 2 }), .atomL { lr0 with t1 := 6, t2 := 7 },
    .atomL { lr0 with t1 := 6, c := 1 }, .redL { lr0 with t1 := 6, d := 1 }, .casL { lr0 with rm := 3 }, .cas64L { lr0 with d := 1 },
    .cas128L { lr0 with d := 2 }, .dldL { lr0 with t1 := 8, x := true, d := 1 }, .dstL { lr0 with t1 := 8, c := 1, rm := 3 },
    .daddL { lr0 with t1 := 2 }, .dmrgL { lr0 with t1 := 8, t2 := 1, b := 1 }, .lbind 6, .laddL { lr0 with t1 := 2 },
    .laddL { lr0 with t1 := 6, c := 16 }, .lcarryL { lr0 with t1 := 6, rm := 1 }, .lnegL { lr0 with t1 := 6, b := 1 },
    .lshlL { lr0 with t1 := 2 }, .lcmpL { lr0 with t1 := 6, ka := true, d := 0x12 }, .lmadL { lr0 with t1 := 6 }], ¬ WellFormed i := by
  decide

/-- Matrix, engine, control and system forms. -/
theorem test_illFormed_system : ∀ i ∈ [
    Instr.mma 0 1 0, .mmaDrainSf 0 17 0, .mmaDrainL lr0, .accClrL lr0, .accLd { lr0 with t1 := 8, c := 64 }, .accSt { lr0 with t1 := 8, a := 16 },
    .cpySf 0 1, .cpyL { lr0 with ka := true, a := 1 }, .flowSendL { lr0 with kd := true, ka := true, kb := true, a := 1 }, .flowWaitL lr0,
    .flowStatSf 0 1 2 0, .collStartSf 0 1, .collStatSf 0 2 1 8, .trigAtSf 0 1 2, .trigOnL lr0, .braLi { li0 with k := true },
    .brxL { lr0 with kd := true }, .barArriveSf 0 0 0xFFF, .barWaitL lr0, .fence 0 6, .fence 0 0, .tokAcqSf 0 0 1, .sysRdSf 0 1 2,
    .sysRdSf 0 0 6, .sysWrSf 0 0 0x11, .sysRdK lr0, .launchSf 0 1, .tstamp 0 1, .cntRdSf 0 0 9], ¬ WellFormed i := by
  decide

/-! ### Small states -/

/-- Memory of context 0 mapped to itself in its lowest GiB, and nothing else. -/
def mapped : State := { State.reset.withFetchWord 32 0 with sched := [], teams := [], grids := [] }

/-- A thread with a few registers, p1 to p3 true, at packet 2. -/
def lane (l : Nat) : Thread :=
  { pc := 24, restart := 24, regs := { v := [(2, BitVec.ofNat 32 (0x20000 + 128 * l)), (6, 0x3F800000), (7, BitVec.ofNat 32 (l + 1)),
    (10, BitVec.ofNat 32 (0x20004 + 128 * l))], p := 0x0E } }

/-- A team of one group of 8 lanes, with a group's own state and roles as given. -/
def teamOf (gr : Group) (copy matrix : Nat) : Team :=
  { ctx := 0, grid := 4, index := 0, core := 0, t := 8, w := 8, wLaunch := 8, wmin := 8, nv := 64, ns := 96, lmem := 4096, d := 0,
    nCopy := copy, nMat := matrix, threads := (List.range 8).map lane, groups := [gr], slots := [0] }

/-- Scalars: addresses in s4:s5, s8:s9, small numbers in s6 and s10, an accumulator tile of 64 columns named by s7 = 0. -/
def scalars : Group := { s := [(4, 0x20000), (6, 5), (8, 0x20100), (10, 1), (12, 0x40)], snapW := 8 }

def team : Team := teamOf scalars 0 0

/-- A word of the team at issue in every lane. -/
def issueOf (tm : Team) : Issue := { team := 3, grp := 0, mask := 0xFF, pc := 24, wpc := 24, len := 4, snap := tm.snap 0 }

/-- The state with that word at issue. -/
def at_ (tm : Team) : State := { mapped with teams := [(3, tm)], issue := some (issueOf tm), nextId := 8 }

theorem running {s : State} {is : Issue} {tm : Team} (h1 : s.issue = some is) (h2 : s.team? is.team = some tm)
    (h3 : is.grp < tm.groups.length)
    (h4 : ∀ l, l < 64 → is.mask.getLsbD l = true → l < tm.w ∧ tm.tid is.grp l < tm.threads.length) : Running s is tm :=
  ⟨h1, h2, h3, fun l hl => h4 l (BitVec.lt_of_getLsbD hl) hl⟩

theorem at_running (gr : Group) (c m : Nat) : Running (at_ (teamOf gr c m)) (issueOf (teamOf gr c m)) (teamOf gr c m) :=
  running rfl rfl (show 0 < 1 from Nat.one_pos) fun l hl hm =>
    have h : l < 8 := (by decide : ∀ l, l < 64 → (0xFF : BitVec 64).getLsbD l = true → l < 8) l hl hm
    ⟨h, show 0 * 8 + l < 8 by omega⟩

/-- The operands of an instruction lie in the reservation of `team`: 64 vector and 96 scalar registers. -/
abbrev InRange (d : Dst) (xs : List Src) : Prop :=
  Running (at_ team) (issueOf team) team ∧ d.inRange team.nv team.ns = true ∧ xs.all (Src.inRange team.nv team.ns) = true

theorem inRange {d : Dst} {xs : List Src} (h : d.inRange team.nv team.ns = true ∧ xs.all (Src.inRange team.nv team.ns) = true) :
    InRange d xs := ⟨at_running scalars 0 0, h⟩

/-! ### Hypotheses that are met: register instructions -/

theorem witness_IntegerArithmeticShortForms : InRange (.v 63) [.v 0, .v 63] ∧ InRange (.v 63) [.v 0, .imm (short 0x20)] ∧
    InRange (.s 63) [.s 0, .s 63] := ⟨inRange (by decide), inRange (by decide), inRange (by decide)⟩
theorem witness_LogicAndShiftShortForms : InRange (.v 0) [.v 63, .v 0] ∧ InRange (.v 0) [.v 63, .imm (short 0x3F)] ∧
    InRange (.s 0) [.s 63, .imm (short 0x1F)] := ⟨inRange (by decide), inRange (by decide), inRange (by decide)⟩
theorem witness_UnaryAndPairShortForms : InRange (.v 63) [.v 63] ∧ InRange (.s 63) [.s 63] ∧ InRange (.vp 62) [.vp 62, .vp 0] ∧
    InRange (.sp 62) [.sp 62, .imm (short 0x20)] := ⟨inRange (by decide), inRange (by decide), inRange (by decide), inRange (by decide)⟩
theorem witness_IntegerArithmeticLongForms : let o : LR := { lr0 with t1 := 3, d := 62, a := 62, b := 60, c := 62, sat := true }
    InRange (lrDst o true) (lrSrcs o true true ++ [srcOf false true o.c.toNat]) ∧ WellFormed (.iadd64L (.lr { o with c := 0 })) ∧
    InRange (liDst { li0 with k := true, d := 94 } true) (liSrcs { li0 with k := true, a := 94 } true 0) :=
  ⟨inRange (by decide), by decide, inRange (by decide)⟩
theorem witness_LogicAndShiftLongForms : let o : LR := { lr0 with t1 := 6, d := 63, a := 95, b := 63, c := 63, ka := true }
    InRange (lrDst o false) (lrSrcs o false false ++ [.v o.c.toNat]) ∧ InRange (lrDst o false) [srcOf o.ka false o.a.toNat] :=
  ⟨inRange (by decide), inRange (by decide)⟩
theorem witness_MovesAndSpecialRegisters : let o : LR := { lr0 with t1 := 7, d := 62, a := 62, b := 62, x := true, c := 6 }
    InRange (lrDst o true) (lrSrcs o true true) ∧ InRange (lrDst { o with kd := true, d := 94 } true) [] :=
  ⟨inRange (by decide), inRange (by decide)⟩
theorem witness_CompareForms : InRange (.v 0) [.v 63, .v 63] ∧
    InRange (.v 0) (lrSrcs { lr0 with t1 := 3, a := 62, b := 94, kb := true } true true) := ⟨inRange (by decide), inRange (by decide)⟩
theorem witness_FloatingArithmetic : InRange (.v 63) [.v 0, .v 63] ∧ InRange (.s 63) [.s 0, .s 63] ∧
    InRange (lrDst { lr0 with t1 := 10, d := 63 } false) (lrSrcs { lr0 with a := 95, ka := true, b := 63 } false false ++ [.v 63]) ∧
    InRange (liDst { li0 with d := 63 } false) (liSrcs { li0 with a := 63 } false 0x3F000000) :=
  ⟨inRange (by decide), inRange (by decide), inRange (by decide), inRange (by decide)⟩
theorem witness_FloatingUnaryAndSpecialFunctions : InRange (.v 63) [.v 63] ∧ InRange (.s 63) [.s 63] ∧
    InRange (lrDst { lr0 with t1 := 3, d := 62 } true) [srcOf true false 95] :=
  ⟨inRange (by decide), inRange (by decide), inRange (by decide)⟩
theorem witness_NarrowAndDotForms : InRange (.v 12) [.v 2, .v 3, .v 12] ∧ InRange (.v 12) [.v 2, .v 3, .v 12, .v 60, .v 61] ∧
    InRange (.v 63) ((List.range 4).map fun i => .v (60 + i)) ∧ InRange (.v 63) (((List.range 8).map fun i => .v (56 + i)) ++ [.v 60]) ∧
    (60 + 3 < team.nv ∧ 63 < team.nv) ∧ (56 + 32 / 4 - 1 < team.nv ∧ 60 < team.nv) :=
  ⟨inRange (by decide), inRange (by decide), inRange (by decide), inRange (by decide), by decide, by decide⟩
theorem witness_ShuffleForms : InRange (.v 63) [.v 63, .v 0] ∧ InRange (.v 63) [.v 63, .imm (imm6 0x3F)] ∧
    InRange (dstOf false true 62) [srcOf false true 62, srcOf true false 95] ∧ InRange (dstOf true true 94) [srcOf false true 62, .v 0] :=
  ⟨inRange (by decide), inRange (by decide), inRange (by decide), inRange (by decide)⟩
theorem witness_VoteAndElect : Running (at_ team) (issueOf team) team ∧ (0 : BitVec 3).toNat ≤ 2 ∧ (2 : BitVec 3).toNat ≤ 2 ∧
    ((3 : BitVec 3).toNat = 3 ∧ (62 : BitVec 6).toNat + 1 < team.ns) ∧ ((3 : BitVec 4).toNat = 3 ∧ (94 : BitVec 8).toNat + 1 < team.ns) ∧
    (0xFFFFF : Nat) < 2 ^ 20 := ⟨at_running scalars 0 0, by decide⟩
theorem witness_ReductionsAndFactoredMoment : InRange (.v 63) [.v 63] ∧ (team.w = 8 ∧ (63 : BitVec 6).toNat < team.nv) ∧
    InRange (dstOf true true 94) [srcOf false true 62] ∧ InRange (.v 63) [.s 95, .v 63, .v 62, .v 63] :=
  ⟨inRange (by decide), by decide, inRange (by decide), inRange (by decide)⟩
theorem witness_RegisterBeyondReservationTraps : let tm := { team with nv := 8 }
    Running (at_ tm) (issueOf tm) tm ∧ tm.nv ≤ (8 : BitVec 6).toNat := ⟨running rfl rfl (by decide) (by decide), by decide⟩

/-! ### Limbs -/

/-- The group with segments of two limbs. -/
def limbTeam : Team := teamOf { scalars with lcount := 2 } 0 0

theorem agree_of {is : Issue} {tm : Team} {g : Nat}
    (h : ∀ x ∈ segsOf is tm (tm.group is.grp).limbs, ∀ l ∈ x.lanes, ∀ k ∈ x.lanes, (is.guarded g).getLsbD l = (is.guarded g).getLsbD k) :
    segmentsAgree is tm g := h

theorem witness_CarryChains : Running (at_ limbTeam) (issueOf limbTeam) limbTeam ∧
    [Src.v 63, .v 62, .v 0].all (Src.inRange limbTeam.nv limbTeam.ns) = true ∧ segmentsAgree (issueOf limbTeam) limbTeam 1 :=
  ⟨at_running _ 0 0, by decide, agree_of (by decide)⟩
/-- The last limb of a segment of two. -/
theorem witness_LimbShiftsComparesAndMultiplyAdd : Running (at_ limbTeam) (issueOf limbTeam) limbTeam ∧
    [Src.v 63, .v 62, .v 0, .s 95].all (Src.inRange limbTeam.nv limbTeam.ns) = true ∧ segmentsAgree (issueOf limbTeam) limbTeam 0 ∧
    1 < (limbTeam.group 0).limbs := ⟨at_running _ 0 0, by decide, agree_of (by decide), by decide⟩
theorem witness_LimbsBindAndFree : Running (at_ team) (issueOf team) team ∧
    ((team.group 0).pend = [] ∧ (team.group 0).loads = 0 ∧ (team.group 0).pendRegs = [] ∧
      2 * 2 ^ (2 : BitVec 3).toNat ≤ team.w ∧ team.w % (2 * 2 ^ (2 : BitVec 3).toNat) = 0 ∧
      (issueOf team).mask = team.live 0 ∧ team.lanesWhere 0 (fun _ x => !x.exited && x.atMeet) = 0) ∧
    -- a load of v5 has returned, and no park has made v5 ready again
    let tm := teamOf { scalars with pendRegs := [{ reg := .v 0 5 }] } 0 0
    (Running (at_ tm) (issueOf tm) tm ∧ (tm.group 0).hasPending = true) :=
  ⟨at_running _ 0 0, by decide, at_running _ 0 0, by decide⟩

/-! ### Hypotheses that are met: memory -/

/-- What a group of lanes translated to: accesses with their targets, accesses refused, and the state after. -/
abbrev Lanes := Except State (List (LaneAcc × Target) × List (LaneAcc × TFault) × State)

/-- Whether no lane is refused or waits, and the state after passes a test. -/
def allGo (p : State → Bool) : Lanes → Bool
  | .ok x => x.2.1.isEmpty && p x.2.2
  | .error _ => false

theorem all_good {x : Lanes} {p : State → Bool} (h : allGo p x = true) : ∃ good s1, x = .ok (good, [], s1) ∧ p s1 = true := by
  cases x with
  | error _ => cases h
  | ok x =>
    obtain ⟨good, bad, s1⟩ := x
    cases bad with
    | nil => exact ⟨good, s1, rfl, h⟩
    | cons _ _ => cases h

/-- What `EntersLoad` asks of a state: no hold, a fresh word, translations that answer. -/
abbrev LoadEnters (s : State) (tm : Team) (m : MemSpec) (sectors : Bool) (accs : List LaneAcc) : Prop :=
  s.memHold (issueOf tm) tm (tm.group 0) m true accs = none ∧ (tm.group 0).partInstr = none ∧
    ∃ good s1, s.translateAll (tm.coreOf 0) (some (tm.group 0).partition) tm.ctx m.op.kind accs (stop := !sectors) = .ok (good, [], s1) ∧ true = true

/-- What `EntersStore` asks. -/
abbrev StoreEnters (s : State) (tm : Team) (m : MemSpec) (accs : List LaneAcc) : Prop :=
  s.memHold (issueOf tm) tm (tm.group 0) m false accs = none ∧
    (∃ good s1, s.translateAll (tm.coreOf 0) (some (tm.group 0).partition) tm.ctx m.op.kind accs = .ok (good, [], s1) ∧ true = true) ∧
    (s.core (tm.coreOf 0)).slog = [] ∧ (tm.tandem = true → (s.core tm.core).slog = [] ∧ (s.core (tm.core + 1)).slog = [])

theorem witness_GlobalLoadsEnter : let d := Dst.v 63; let e := eaSI 2 0x3F 4 4
    let accs := accesses (issueOf team) e (fun _ => 0) (loadLanes (issueOf team) team 1 d e)
    InRange d [] ∧ e.inRange team = true ∧ (∀ l ∈ accs, l.va.toNat % 4 = 0) ∧ accs.length = 8 ∧
    LoadEnters (at_ team) team { w := 4, op := .read, counts := true, guard := (issueOf team).guarded 1 } true accs ∧
    -- an acquire at device scope, from a scalar pair into a scalar
    let d := Dst.s 95; let e := eaLR { lr0 with a := 4, ka := true } false 4
    let accs := accesses (issueOf team) e (fun _ => 0) (loadLanes (issueOf team) team 1 d e)
    InRange d [] ∧ e.inRange team = true ∧ (∀ l ∈ accs, l.va.toNat % 4 = 0) ∧
    LoadEnters (at_ team) team { w := 4, op := .read, scope := 3, acq := true, counts := true, guard := (issueOf team).guarded 1, one := true } true accs :=
  ⟨inRange (by decide), by decide, by decide, by decide, ⟨by decide, by decide, all_good (p := fun _ => true) (by decide)⟩,
    inRange (by decide), by decide, by decide, by decide, by decide, all_good (p := fun _ => true) (by decide)⟩
theorem witness_GlobalStoresEnter : let e := eaSI 2 0 4 4
    let accs := accesses (issueOf team) e (fun l => ((Src.v 7).read (issueOf team).snap l).toNat % 256 ^ 4)
      (lanesOf ((team.group 0).remaining ((issueOf team).guarded 1)))
    InRange (.v 7) [.v 7] ∧ e.inRange team = true ∧ (∀ l ∈ accs, l.va.toNat % 4 = 0) ∧
    StoreEnters (at_ team) team { w := 4, op := .write, scope := 5, rel := true, guard := (issueOf team).guarded 1 } accs :=
  ⟨inRange (by decide), by decide, by decide, by decide, all_good (p := fun _ => true) (by decide), rfl, nofun⟩

/-- A local load of a doubleword at the last 8 bytes of the reservation, and one that begins at its end. -/
def localLr : LR := { lr0 with t1 := 7, t2 := 8, d := 62, a := 11, ka := true, c := 1 }
def atLm (a : Word) : Team := teamOf { scalars with s := [(11, a)] } 0 0
theorem witness_LocalLoadsReadAtIssue : let o := localLr
    let go := fun (tm : Team) => let d := dstOf o.kd true o.d.toNat
      let e := eaLR o true 8
      let accs := accesses (issueOf tm) e (fun _ => 0) (loadLanes (issueOf tm) tm o.g.toNat d e)
      o.t2.getLsbD 3 = true ∧ (tm.group 0).partInstr = none ∧ d.inRange tm.nv tm.ns = true ∧ e.inRange tm = true ∧
        (∀ l ∈ accs, l.va.toNat % 8 = 0) ∧ (at_ tm).acquiring 3 0 = false ∧ (tm.group 0).loads < 32
    Running (at_ (atLm 0xFF0)) (issueOf (atLm 0xFF0)) (atLm 0xFF0) ∧ go (atLm 0xFF0) ∧ go (atLm 0xFF8) ∧ go (atLm 0x1000000) ∧
      go (atLm 0x800000) ∧ (0xFF0 + 8 + 8 = team.lmem) :=
  ⟨at_running _ 0 0, by decide⟩
theorem witness_LocalStoresWriteAtIssue : let tm := atLm 0xFF0
    let e := eaLR localLr true 8
    let accs := accesses (issueOf tm) e (fun l => ((srcOf false true 6).read (issueOf tm).snap l).toNat % 256 ^ 8)
      (lanesOf ((tm.group 0).remaining ((issueOf tm).guarded 0)))
    Running (at_ tm) (issueOf tm) tm ∧ localLr.t2.getLsbD 3 = true ∧ localLr.rm = 0 ∧ (srcOf false true 6).inRange tm.nv tm.ns = true ∧
    e.inRange tm = true ∧ (∀ l ∈ accs, l.va.toNat % 8 = 0) ∧ (∀ l ∈ accs, localOk tm 8 l.va = true) ∧ (at_ tm).acquiring 3 0 = false :=
  ⟨at_running _ 0 0, by decide⟩
theorem witness_PrefetchAndMisalignedAccess : let e := eaSI 2 0 4 4
    let accs := accesses (issueOf team) e (fun _ => 0) (lanesOf ((issueOf team).guarded 0))
    Running (at_ team) (issueOf team) team ∧ e.inRange team = true ∧ (∀ l ∈ accs, l.va.toNat % 4 = 0) ∧
    -- v7 holds the lane's number and 1: lane 0 is the first that is misaligned
    (((accesses (issueOf team) (eaSI 7 0 4 4) (fun _ => 0) (lanesOf ((issueOf team).guarded 0))).find?
      (fun l => l.va.toNat % 4 != 0)).map (·.lane) = some 0 ∧ (7 : BitVec 6).toNat + 1 < team.nv) ∧
    ((srcOf false true 2).inRange team.nv team.ns = true ∧ 60 + 16 / 4 ≤ team.nv ∧
      ((lanesOf ((issueOf team).guarded 0)).map fun l => (l, (srcOf false true 7).read (issueOf team).snap l)).find?
        (fun x => x.2.toNat % 16 != 0) = some (0, 1)) :=
  ⟨at_running _ 0 0, by decide⟩
theorem witness_AtomicsEnter : let o : LR := { lr0 with t1 := 2, a := 2, b := 60, d := 60, c := 3, rm := 3 }
    let accs := fun (a : BitVec 8) (w : Nat) (ret : Bool) => (lanesOf ((team.group 0).remaining ((issueOf team).guarded o.g.toNat))).map fun l =>
      ({ lane := l, va := (srcOf o.ka true a.toNat).read (issueOf team).snap l,
         data := regRunVal (issueOf team).snap l o.kb o.b.toNat (max 1 (w / 4)) % 256 ^ w,
         cmp := if ret then regRunVal (issueOf team).snap l false o.d.toNat (max 1 (w / 4)) % 256 ^ w else 0 } : LaneAcc)
    Running (at_ team) (issueOf team) team ∧ ((srcOf o.ka true o.a.toNat).inRange team.nv team.ns = true ∧ o.b.toNat + 16 / 4 ≤ team.nv ∧
      o.d.toNat + 16 / 4 ≤ team.nv ∧ ∀ l ∈ accs 2 16 true, l.va.toNat % 16 = 0) ∧
    LoadEnters (at_ team) team { w := 16, op := .cas, scope := 3, acq := true, rel := true, counts := true, closes := true, guard := (issueOf team).guarded 0 } false (accs 2 16 true) ∧
    (∀ l ∈ accs 2 4 false, l.va.toNat % 4 = 0) ∧
    StoreEnters (at_ team) team { w := 4, op := .atom 0 2 false false, scope := 3, acq := true, rel := true, closes := true, guard := (issueOf team).guarded 0 } (accs 2 4 false) ∧
    -- the BFP32 add, past the word that holds its block's exponent
    (∀ l ∈ accs 10 4 false, l.va.toNat % 4 = 0 ∧ l.va.toNat % 128 / 4 ≠ 0) ∧
    StoreEnters (at_ team) team { w := 4, op := .bfp, scope := 3, acq := true, rel := true, closes := true, guard := (issueOf team).guarded 0 } (accs 10 4 false) :=
  ⟨at_running _ 0 0, by decide, ⟨by decide, by decide, all_good (p := fun _ => true) (by decide)⟩, by decide, ⟨by decide, all_good (p := fun _ => true) (by decide), rfl, nofun⟩, by decide,
    by decide, all_good (p := fun _ => true) (by decide), rfl, nofun⟩

/-- A tenant whose lowest GiB is mapped to itself on pages of decay class 3. -/
def tenantTeam : Team := { team with ctx := 1 }
def tenantAt (tm : Team) : State :=
  { ({ at_ tm with mem := Memory.write mapped.mem 0x32000 8 (0xFF + 3 * 2 ^ 51) } : State).updCtx 1 (fun c =>
    { c with created := true, root := 0x30000, ranges := [(0, 0x8F + 512 * 2 ^ 64)], classes := [(3, 0x358000003E8000003F40000000000001)] }) with
    teams := [(3, tm)] }

theorem witness_DecayAndOdometer : let e := eaSI 2 1 8 8
    let tm := tenantTeam
    let accs := accesses (issueOf tm) e (fun _ => 0) (loadLanes (issueOf tm) tm 1 (.v 63) e)
    Running (tenantAt tm) (issueOf tm) tm ∧ (Dst.v 63).inRange tm.nv tm.ns = true ∧ (Src.v 63).inRange tm.nv tm.ns = true ∧
    e.inRange tm = true ∧ (∀ l ∈ accs, l.va.toNat % 8 = 0) ∧
    LoadEnters (tenantAt tm) tm { w := 8, op := .decay .dld { de64 := true, step := 0 }, counts := true, guard := (issueOf tm).guarded 1 } false accs ∧
    StoreEnters (tenantAt tm) tm { w := 8, op := .decay .dadd { de64 := true, step := 0 }, closes := true, guard := (issueOf tm).guarded 1 } accs ∧
    Guarded (at_ team) (issueOf team) team 0 ∧ (63 : BitVec 6).toNat < team.ns :=
  ⟨running rfl rfl (by decide) (by decide), by decide, by decide, by decide, by decide,
    ⟨by decide, by decide, all_good (p := fun _ => true) (by decide +kernel)⟩, ⟨by decide, all_good (p := fun _ => true) (by decide +kernel), rfl, nofun⟩, ⟨at_running _ 0 0, by decide⟩, by decide⟩

/-! ### Hypotheses that are met: step, traps and control -/

theorem ok_of {α ε : Type} {e : Except ε α} (h : e.isOk = true) : ∃ x, e = .ok x := by
  cases e with
  | ok x => exact ⟨x, rfl⟩
  | error _ => cases h

theorem error_of {α ε : Type} {e : Except ε α} (h : e.isOk = false) : ∃ x, e = .error x := by
  cases e with
  | ok _ => cases h
  | error x => exact ⟨x, rfl⟩

/-- A word at issue in slot 1 of its packet. -/
def wordAt (ws : List Word) (rep : Option Nat) : State :=
  { at_ team with issue := some { issueOf team with pc := 28, wpc := 28, words := ws, rep := rep } }

theorem witness_StepRunsDecoded : let tbl := ((at_ team).ctx 0).decode.op false
    (∃ d, decodeSlot tbl true ([0x30A00000, 0x0210A241, 0x30600000] : List Nat) 1 = .ok d) ∧
    (∃ r, decodeSlot tbl true ([0x30A00000, 0x3FF00000, 0x30600000] : List Nat) 1 = .error r) ∧
    (∃ d, decodeRepeat tbl true ([0x30A00000, 0x30B00900, 0x00108086] : List Nat) 1 0 = .ok d) ∧
    (∃ r, decodeRepeat tbl true ([0x30A00000, 0x30B3F800, 0x0013F086] : List Nat) 1 1 = .error r) ∧
    (wordAt [0x30A00000, 0x0210A241, 0x30600000] none).team? 3 = some team ∧
    (wordAt [0x30A00000, 0x30B00900, 0x00108086] (some 0)).issue.isSome = true :=
  ⟨ok_of (by decide), error_of (by decide), ok_of (by decide), error_of (by decide), rfl, rfl⟩

/-- The machine about to fetch `iadd v5, v2, 4`. -/
def fetching : State := State.reset.withFetchWord 32 0x02105084

theorem witness_IssueFetchesThenRuns : let g := State.reset.nextId
    let s1 := (({ fetching with sched := [] } : State).countWaits 0 0 g 0).updGroup g 0 Group.unpark
    fetching.issue = none ∧ fetching.sched = [.issue 0 0 0] ∧ fetching.fw.thermtrip = false ∧ fetching.fw.powered = true ∧
    oldest (({ fetching with sched := [] } : State).readyGroups 0 0) = some (1000000, 0, g, 0) ∧
    (match s1.team? g with
      | some tm => decide ((tm.subsets 0)[0 % (tm.subsets 0).length]? = some (0xFFFFFFFFFFFFFFFF, 0)) && (tm.group 0).held.isNone &&
          (tm.group 0).numTraps.isEmpty && (tm.group 0).storeTraps.isEmpty &&
          match s1.fetchPacket g 0 tm (((s1.gridOf tm).map (·.segbase)).getD 0) 0 0xFFFFFFFFFFFFFFFF with
          | .words ws _ => ws == [0x02105084, 0, 0]
          | _ => false
      | none => false) = true :=
  ⟨rfl, rfl, rfl, rfl, by decide +kernel, by decide +kernel⟩

theorem witness_StepsKeepMemoryCanonical : State.reset.Canonical ∧ ∃ t, exec (.nop 0) (at_ team) = .next t :=
  ⟨⟨Sparse.wf_nil 0, Sparse.wf_nil 0⟩, _, rfl⟩

/-- The team's grid, with a handler or without. -/
def gridOf (thv : Bool) : Grid := { ctx := 0, gid := 0, odo := 0, segbase := 0x10000, entry := 0, thv := thv, thandler := 0xFFFFF }

theorem witness_TrapsEnterTheHandlerOrReport : let s := { at_ team with grids := [(4, gridOf true)] }
    Running s (issueOf team) team ∧ s.gridOf team = some (gridOf true) ∧ (gridOf true).thv = true ∧ (team.group 0).inh = false ∧
    (issueOf team).guarded 3 ≠ 0 ∧ ((teamOf { scalars with inh := true } 0 0).group 0).inh = true ∧
    (∃ gd, ({ at_ team with grids := [(4, gridOf false)] } : State).gridOf team = some gd ∧ gd.thv = false) ∧
    (at_ team).gridOf team = none :=
  ⟨running rfl rfl (by decide) (by decide), rfl, rfl, rfl, by decide, rfl, ⟨_, rfl, rfl⟩, rfl⟩

theorem witness_BranchesGoToTheirTargets : let is := issueOf team
    Running (at_ team) is team ∧ reachable is (-2) ∧ reachable is (2 ^ 20 - 3) ∧ together is team 1 ∧ ¬ reachable is (-3) ∧
    ¬ reachable is (2 ^ 20 - 2) ∧ (team.group 0).lcount = 0 ∧ is.guarded 1 ≠ 0 ∧ (Src.s 95).inRange team.nv team.ns = true ∧
    (let tm := atLm 0xBFFFF4
     let off := fun l => ((Src.s 11).read (issueOf tm).snap l).toNat % 2 ^ 32
     ∀ l ∈ lanesOf ((issueOf tm).guarded 0), off l % 12 = 0 ∧ off l < 12 * 2 ^ 20) ∧
    let tm := atLm 0xC00000
    let off := fun l => ((Src.s 11).read (issueOf tm).snap l).toNat % 2 ^ 32
    (lanesOf ((issueOf tm).guarded 0)).find? (fun l => off l % 12 != 0 || decide (12 * 2 ^ 20 ≤ off l)) = some 0 := by
  refine ⟨at_running _ 0 0, by unfold reachable; decide, by unfold reachable; decide, Or.inl rfl, by unfold reachable; decide,
    by unfold reachable; decide, rfl, by decide⟩

/-- Lane 3 has a full hardware stack and no room to spill, or none has an entry. -/
def stackTeam : Team :=
  { team with threads := team.threads.mapIdx fun i x => if i = 3 then { x with stack := List.replicate 16 ⟨1, 2⟩, depth := 16 } else
    { x with stack := [⟨1, 2⟩], depth := 1 } }
/-- Every lane is to return to packet `p`. -/
def deepTeam (p : Word) : Team := { team with threads := team.threads.map fun x => { x with stack := [⟨p, 2⟩], depth := 1 } }
/-- Every lane but the first is to return to packet 2^20. -/
def mixedTeam : Team :=
  { team with threads := team.threads.mapIdx fun i x => if i = 0 then x else { x with stack := [⟨2 ^ 20, 2⟩], depth := 1 } }
theorem witness_CallsAndReturns : Running (at_ team) (issueOf team) team ∧ (issueOf team).rep = none ∧ (team.group 0).lcount = 0 ∧
    reachable (issueOf team) 5 ∧
    (∀ l, ((issueOf team).guarded 0).getLsbD l = true → (team.thread (team.tid 0 l)).depth < 16 + team.d) ∧
    (lanesOf ((issueOf stackTeam).guarded 0)).find? (fun l => (stackTeam.thread (stackTeam.tid 0 l)).depth == 16 + stackTeam.d) = some 3 ∧
    let good := fun (tm : Team) (l : Nat) => (tm.thread (tm.tid 0 l)).stack.head?.any fun e => decide (e.packet.toNat < 2 ^ 20)
    let empty := fun (tm : Team) (l : Nat) => (tm.thread (tm.tid 0 l)).stack.isEmpty
    (∀ l ∈ lanesOf ((issueOf stackTeam).guarded 0), good stackTeam l = true) ∧
    -- no lane has an entry; lane 0 has none and lane 1 one that is out of range
    ((∀ k ∈ lanesOf ((issueOf team).guarded 0), (team.thread (team.tid 0 k)).stack ≠ [] → good team k = true) ∧
      (lanesOf ((issueOf team).guarded 0)).find? (fun l => empty team l) = some 0) ∧
    (empty mixedTeam 0 = true ∧ (lanesOf ((issueOf mixedTeam).guarded 0)).find? (fun l => !empty mixedTeam l && !good mixedTeam l) = some 1) ∧
    ∀ l ∈ lanesOf ((issueOf (deepTeam (2 ^ 20 - 1))).guarded 0), good (deepTeam (2 ^ 20 - 1)) l = true :=
  ⟨at_running _ 0 0, rfl, rfl, by unfold reachable; decide,
    fun l hl => (by decide : ∀ l, l < 64 → ((issueOf team).guarded 0).getLsbD l = true → (team.thread (team.tid 0 l)).depth < 16 + team.d)
      l (BitVec.lt_of_getLsbD hl) hl, by decide⟩

theorem witness_IssueOrderInstructions : Running (at_ team) (issueOf team) team ∧ (issueOf team).rep = none ∧
    reachable (issueOf team) (2 ^ 17 - 1) ∧ together (issueOf team) team 1 ∧ (issueOf team).guarded 0 ≠ 0 ∧ (team.group 0).inh = false ∧
    (team.group 0).lcount = 0 ∧ team.wmin ≤ 8 * 2 ^ (0 : BitVec 2).toNat ∧ team.waitingCode = none ∧
    team.rolesKept (8 * 2 ^ (0 : BitVec 2).toNat) = true ∧ (issueOf team).closed = false :=
  ⟨at_running _ 0 0, rfl, by unfold reachable; decide, Or.inl rfl, by decide, rfl, rfl, by decide, by decide, by decide, rfl⟩

/-- A barrier slot at local offset 0x40, initialised for `n` arrivals. -/
def slotTeam (n : Nat) (ph : Nat) : Team :=
  { team with lm0 := { bytes := Memory.write [] 0x40 16 (n * 2 ^ 44 + n * 2 ^ 32 + ph) } }
theorem witness_BarriersStepTheirSlot : let a := ((issueOf team).snap.sca 12).setWidth 64
    let slot := fun (tm : Team) => Memory.read (localOf tm (onSecond tm 0 a)) (a.toNat % 2 ^ 23) 16
    Running (at_ (slotTeam 4095 0)) (issueOf (slotTeam 4095 0)) (slotTeam 4095 0) ∧ 12 < team.ns ∧ (issueOf team).guarded 1 ≠ 0 ∧
    a.toNat % 16 = 0 ∧ localOk team 16 a = true ∧ (at_ team).covered team 3 0 2 = false ∧ (at_ team).storesAtScope team 3 0 2 = true ∧
    (at_ team).loadsWaiting 3 0 = false ∧ slotClean (slot (slotTeam 4095 0)) ∧ slotClean (slot (slotTeam 1 1)) ∧
    ¬ slotClean (slot (slotTeam 1 2)) ∧
    -- every arrival at once, and one too many
    (slotInit (slot (slotTeam 4095 0)) ≠ 0 ∧ 4095 ≤ slotArrc (slot (slotTeam 4095 0)) ∧ slotPend (slot (slotTeam 4095 0)) + 0 < 2 ^ 35) ∧
    ¬ 2 ≤ slotArrc (slot (slotTeam 1 0)) ∧ slotInit (slot team) = 0 ∧
    ((issueOf team).snap.sca 10).toNat = 1 ∧ (team.group 0).hold ≠ some (.answered 0) ∧
    ((slot (slotTeam 1 0) % 2 == 1) ≠ true) ∧ (slot (slotTeam 1 1) % 2 == 1) = true :=
  ⟨running rfl rfl (by decide) (by decide), by decide⟩

/-- The lowest GiB stands for that of peer 1, cached under token: the token held or not. -/
def peerAt (held : List (Nat × Nat)) : State :=
  { at_ team with mem := Memory.write mapped.mem 0x32000 8 (0x1FF + 0x101 * 2 ^ 55), heldTokens := held }
theorem witness_FencesAndTokens : let va := (Src.sp 4).read (issueOf team).snap 0
    Running (at_ team) (issueOf team) team ∧ (issueOf team).guarded 1 ≠ 0 ∧ 6 < team.ns ∧ 4 + 1 < team.ns ∧
    (at_ team).fenceMet team 3 0 2 = true ∧ (at_ team).fenceMet team 3 0 5 = true ∧
    (let tm := teamOf { scalars with loads := 32 } 0 0
     Running (at_ tm) (issueOf tm) tm ∧ (at_ tm).fenceMet tm 3 0 1 = false) ∧
    (team.group 0).hold = none ∧ (team.group 0).partition = 0 ∧ (at_ team).acquiring 3 0 = false ∧
    (match (at_ team).translate 0 (some 0) 0 .load va with | .ok x => !x.1.c && decide (x.2.mem = (at_ team).mem) | _ => false) = true ∧
    (match (peerAt [(regionKey 1 0, 0)]).translate 0 (some 0) 0 .load va with | .ok x => x.1.c | _ => false) = true ∧
    (match (peerAt []).translate 0 (some 0) 0 .load va with | .error (.fault f) => f.cause == 0x0A | _ => false) = true ∧
    ((peerAt []).lookup 0 (some 0) 0 .load va).isOk = true ∧
    ((teamOf { scalars with hold := some (.answered 5) } 0 0).group 0).hold = some (.answered 5) :=
  ⟨at_running _ 0 0, by decide, by decide, by decide, by decide, by decide, ⟨at_running _ 0 0, by decide⟩, rfl, rfl, by decide,
    by decide +kernel, by decide +kernel, by decide +kernel, by decide +kernel, rfl⟩

theorem witness_SystemRegisterReads : Running (at_ team) (issueOf team) team ∧ (issueOf team).guarded 1 ≠ 0 ∧ 95 < team.ns ∧
    (94 % 2 = 0 ∧ 94 + 1 < team.ns) ∧ (0x20 ≤ 0x20 ∧ 0x3F ≤ 0x3F) ∧ ((issueOf team).snap.sca 12).toNat = 0x40 :=
  ⟨at_running _ 0 0, by decide⟩

/-- The number of a system register in s12, and the group in its handler. -/
def sysTeam (n : Word) (inh : Bool) : Team := teamOf { scalars with s := [(4, 0x80001), (6, 2), (12, n)], inh := inh } 0 0
theorem witness_SystemRegisterWritesAndKernelSpace : let num := fun n inh => ((issueOf (sysTeam n inh)).snap.sca 12).toNat
    Running (at_ (sysTeam 0x43 true)) (issueOf (sysTeam 0x43 true)) (sysTeam 0x43 true) ∧ (issueOf team).guarded 1 ≠ 0 ∧
    (num 0x43 true = 0x43 ∧ ((sysTeam 0x43 true).group 0).inh = true ∧ ((issueOf (sysTeam 0x43 true)).snap.sca 6).toNat < 3) ∧
    num 0x10 false = 0x10 ∧ num 0x3F false = 0x3F ∧ num 0x201 false = 0x201 ∧ num 0x441 false = 0x440 + 1 ∧ num 0x47F false = 0x440 + 63 ∧
    num 0x1FF false < 0x200 ∧ (at_ team).inv = none ∧ 94 + 1 < team.ns ∧
    num 0x200 false = 0x200 ∧ (num 0x10140 false < 0x10900 ∧ (at_ (sysTeam 0x10140 false)).kernelReg (num 0x10140 false) ≠ none) ∧
    ((0x17800000000 - 1) / 2 ^ 21 < 0xBC000 ∧ ¬ 0x17800000000 / 2 ^ 21 < 0xBC000) :=
  ⟨at_running _ 0 0, by decide, by decide, by decide, by decide, by decide, by decide, by decide, by decide, rfl, by decide, by decide, by decide, by decide⟩

theorem witness_LaunchTimeAndCounters : let va := (Src.sp 4).read (issueOf team).snap 0
    Running (at_ team) (issueOf team) team ∧ (issueOf team).guarded 0 ≠ 0 ∧ 4 + 1 < team.ns ∧ va.toNat % 128 = 0 ∧
    ((Src.sp 4).read (issueOf (sysTeam 0 false)).snap 0).toNat % 128 ≠ 0 ∧
    (at_ team).logHas (team.coreOf 0) 3 (some 0) = false ∧ (at_ team).resultsIn 3 0 = true ∧
    (at_ team).storesAtScope team 3 0 3 = true ∧
    (match (at_ team).engLoad { kind := 8, id := 3, part := 0 } hubCore 0 (va + 24) 8 with | .ok (v, s1) => s1.queueRoom 0 (v / 2 ^ 42 % 16) | _ => false) = true ∧
    (at_ (teamOf { scalars with loads := 1 } 0 0)).resultsIn 3 0 = false ∧ (at_ team).counter team 0 0x15 = some 0 :=
  ⟨at_running _ 0 0, by decide, by decide, by decide, by decide, by decide, by decide, by decide, by decide +kernel, by decide, by decide⟩

/-! ### Hypotheses that are met: engines -/

/-- The blocks of the spec's matrix example: `mma` in s16 to s31, the drain in s32 to s47; two accumulator blocks. -/
def matrixTeam (cnt : Nat) : Team :=
  { teamOf { scalars with mmaCnt := cnt, s := [(4, 0x0), (6, 5), (16, 0x30000000), (17, 0x0AA20020), (18, 0x00400000), (33, 0x4A06C000),
    (34, 0x00400000), (35, 0x3E800000), (36, 0x4000), (38, 0x1000), (39, 0x80), (40, 7), (41, 0x40000000), (43, 0x200), (44, 0x5EED),
    (48, 0xC0000000)] } 0 1 with lmem := 0x8000, acc0 := { blocks := [0, 1] } }

theorem matrix_running (n : Nat) : Running (at_ (matrixTeam n)) (issueOf (matrixTeam n)) (matrixTeam n) :=
  running rfl rfl (show 0 < 1 from Nat.one_pos) fun l hl hm =>
    have h : l < 8 := (by decide : ∀ l, l < 64 → (0xFF : BitVec 64).getLsbD l = true → l < 8) l hl hm
    ⟨h, show 0 * 8 + l < 8 by omega⟩

theorem witness_MatrixCommandsEnter : let tm := matrixTeam 7
    let is := issueOf tm
    let d := parBlock is tm 16 false
    let e := parBlock is tm 32 false
    Running (at_ tm) is tm ∧ is.guarded 3 ≠ 0 ∧ tm.role 0 = .matrix ∧ 16 + 15 < tm.ns ∧ 32 + 15 < tm.ns ∧
    (Par.mmaReason d = none ∧ Par.tileOk d tm.acc0.blocks.length = true ∧ Par.mmaTop d < tm.nv) ∧
    (Par.drainReason e tm = none ∧ Par.tileOk e tm.acc0.blocks.length = true ∧ 0 < tm.nv) ∧
    (Par.mmaReason (parBlock is tm 48 false)).isSome = true ∧ (at_ tm).logHas 0 3 (some 0) = false ∧ (tm.group 0).mmaCnt < 8 ∧
    ((at_ tm).matQueue 0 1).length < 8 ∧
    -- the block in local memory at 0
    ((is.snap.sca 4).toNat % 64 = 0 ∧ localOk tm 64 ((is.snap.sca 4).setWidth 64) = true) ∧
    (tm.group 0).mmaCnt ≤ (7 : BitVec 3).toNat ∧ (6 : BitVec 3).toNat < (tm.group 0).mmaCnt ∧ (at_ tm).resultsIn 3 0 = true ∧
    (at_ (teamOf { scalars with loads := 1 } 0 1)).resultsIn 3 0 = false :=
  ⟨matrix_running 7, by decide⟩

theorem idle_of {s : State} (h : s.mats = []) (team core row col : Nat) : s.inFlight team core row col = false := by
  simp [State.inFlight, h]

theorem witness_AccumulatorImmediates : let tm := matrixTeam 0
    let is := issueOf tm
    Running (at_ tm) is tm ∧ tm.role 0 = .matrix ∧ is.guarded 1 ≠ 0 ∧ 18 < tm.ns ∧
    -- the tile of s18: 64 columns at row 64
    (let x := (is.snap.sca 18).toNat
     x / 2 ^ 28 < 3 ∧ x / 2 ^ 26 % 4 = 0 ∧ x / 2 ^ 8 % 2 ^ 8 = 0 ∧ x / 2 ^ 16 % 2 ^ 10 % 64 = 0 ∧ x / 2 ^ 16 % 2 ^ 10 < 64 * 2 ∧
       x % 2 ^ 8 % 64 = 0 ∧ x % 2 ^ 8 + 64 * 2 ^ (x / 2 ^ 28 % 4) ≤ 256) ∧
    (∀ row col, (at_ tm).inFlight 3 0 row col = false) ∧
    -- columns 252 to 255 of the last block
    (60 + 4 ≤ tm.nv ∧ 64 * 1 % 64 = 0 ∧ 64 * 1 + 64 ≤ 64 * tm.acc0.blocks.length ∧ 252 + 4 ≤ 256) ∧ tm.tandem = false ∧
    (2 + 14 ≤ 16 ∧ ((at_ tm).accUsed tm.core).length + 14 ≤ 16) ∧ ¬ 2 + 15 ≤ 16 :=
  ⟨matrix_running 0, by decide, by decide, by decide, by decide, fun r c => idle_of rfl 3 0 r c, by decide, rfl, by decide, by decide⟩

theorem witness_CopyCommandsEnter : let tm := teamOf { scalars with copyCnt := 15 } 1 0
    Running (at_ tm) (issueOf tm) tm ∧ (issueOf tm).guarded 1 ≠ 0 ∧ 4 + 1 < tm.ns ∧ 8 + 1 < tm.ns ∧ tm.role 0 = .copy ∧ team.role 0 ≠ .copy ∧
    ((Src.sp 4).read (issueOf tm).snap 0).toNat % 128 = 0 ∧ (at_ tm).logHas 0 3 (some 0) = false ∧ (tm.group 0).copyCnt < 16 ∧
    (at_ tm).copyQueue 0 < 64 ∧ (tm.group 0).copyCnt ≤ (15 : BitVec 6).toNat ∧ (14 : BitVec 6).toNat < (tm.group 0).copyCnt :=
  ⟨at_running _ 1 0, by decide⟩

/-- Flow 5 of context 0: a send end with three transfers queued, or a receive end at generation 0x80000005. -/
def flowAt (e : FlowEnd) : State := { at_ team with flows := [(5, e)] }
def sendEnd : FlowEnd := { v := true, ew := 2, maxlen := 256, queue := List.replicate 3 { src := 0, len := 256, key := false } }
def recvEnd : FlowEnd := { v := true, dir := true, gen := 0x80000005 }
theorem witness_FlowInstructions : let is := issueOf team
    Running (flowAt sendEnd) is team ∧ is.guarded 1 ≠ 0 ∧ 6 < team.ns ∧ 8 + 1 < team.ns ∧ 12 < team.ns ∧
    (let e := (flowAt sendEnd).flow (1024 * team.ctx + (is.snap.sca 6).toNat)
     (is.snap.sca 6).toNat < 1024 ∧ e.v = true ∧ e.dir = false ∧ e.mc = false ∧ (is.snap.sca 12).toNat ≤ e.maxlen ∧
       (is.snap.sca 12).toNat % 2 ^ e.ew = 0 ∧ ((Src.sp 8).read is.snap 0).toNat % 2 ^ e.ew = 0 ∧
       e.queue.length + (if e.run.isSome then 1 else 0) < 4) ∧ (flowAt sendEnd).logHas 0 3 (some 0) = false ∧
    (let x := (flowAt recvEnd).flow (1024 * team.ctx + (is.snap.sca 6).toNat)
     x.v = true ∧ x.dir = true ∧ (x.gen - is.snap.sca 6).toNat = 2 ^ 31 ∧ (x.gen - (is.snap.sca 6 + 1)).toNat = 2 ^ 31 - 1) ∧
    (team.group 0).hold = none ∧ ¬ ((at_ team).flow 5).v = true :=
  ⟨running rfl rfl (by decide) (by decide), by decide, by decide, by decide, by decide, by decide, by decide, by decide, rfl, by decide⟩

/-- Peloton 0 of context 0, whose number the descriptor at s4 names: memory there reads 0. -/
def pelotonAt (cnt : Nat) : State :=
  { at_ (teamOf { scalars with collCnt := cnt } 0 0) with pelotons := [(9, { v := true, members := 1 })] }
theorem witness_CollectiveInstructions : let tm := teamOf { scalars with collCnt := 7 } 0 0
    let is := issueOf tm
    Running (pelotonAt 7) is tm ∧ is.guarded 1 ≠ 0 ∧ 4 + 1 < tm.ns ∧ ((Src.sp 4).read is.snap 0).toNat % 128 = 0 ∧
    (match (pelotonAt 7).engLoad { kind := 8, id := 3, part := 0 } hubCore 0 ((Src.sp 4).read is.snap 0 + 24) 8 with
      | .ok (v, s1) => (s1.pelotons.any fun p => p.2.v && p.2.ctx == 0 && p.2.pnum == v / 2 ^ 36 % 16) && !s1.logHas 0 3 (some 0)
      | _ => false) = true ∧
    (match (at_ tm).engLoad { kind := 8, id := 3, part := 0 } hubCore 0 ((Src.sp 4).read is.snap 0 + 24) 8 with
      | .ok (_, s1) => s1.pelotons.isEmpty
      | _ => false) = true ∧
    (tm.group 0).collCnt < 8 ∧ (tm.group 0).collCnt ≤ (7 : BitVec 3).toNat ∧ (6 : BitVec 3).toNat < (tm.group 0).collCnt ∧
    (is.snap.sca 14).toNat = 0 ∧ ((pelotonAt 7).peloton 0 0).isSome = true :=
  ⟨running rfl rfl (by decide) (by decide), by decide, by decide, by decide, by decide +kernel, by decide +kernel, by decide⟩

/-- A trigger record at 0x20000: that of a launch at 0x20080, kept beside 63 others; or with a reserved bit. -/
def trigAt (n : Nat) (d0 : Nat) : State :=
  { at_ team with mem := Memory.write (Memory.write mapped.mem 0x20000 8 d0) 0x20008 8 0x20080
                  trigs := List.replicate n (1, { ctx := 0, collective := false, addr := 0, at_ := none, watch := none }) }
theorem witness_TriggersAreArmed : let is := issueOf team
    let reads := fun (s : State) (d : DWord) => (match s.engLoadDws { kind := 8, id := 3, part := 0 } hubCore 0 0x20000 4 with
      | .ok (ds, s1) => decide (ds = [d, 0x20080, 0, 0]) && (s1.engLoad { kind := 8, id := 3, part := 0 } hubCore 0 0x20100 8).isOk
      | _ => false)
    Running (trigAt 63 0) is team ∧ is.guarded 1 ≠ 0 ∧ 4 + 1 < team.ns ∧ 8 + 1 < team.ns ∧ 6 < team.ns ∧
    (Src.sp 4).read is.snap 0 = 0x20000 ∧ (0x20000 : DWord).toNat % 32 = 0 ∧ (Src.sp 8).read is.snap 0 = 0x20100 ∧
    (0x20100 : DWord).toNat % 128 = 0 ∧ (trigAt 63 0).logHas 0 3 (some 0) = false ∧
    reads (trigAt 63 0) 0 = true ∧ reads (trigAt 0 0x4000000000000000) 0x4000000000000000 = true ∧ reads (trigAt 0 1) 1 = true ∧
    ((trigAt 63 0).trigs.filter fun t => t.2.ctx == 0).length < 64 ∧ 64 ≤ ((trigAt 64 0).trigs.filter fun t => t.2.ctx == 0).length :=
  ⟨running rfl rfl (by decide) (by decide), by decide, by decide, by decide, by decide, by decide, by decide, by decide, by decide,
    by decide, by decide +kernel, by decide +kernel, by decide +kernel, by decide, by decide⟩

/-! ### Hypotheses that are met: kernel, counters, memory steps -/

theorem witness_HandlerEndingsAndKernelAnswers : let tm := teamOf { scalars with inh := true, numTraps := [0], faults := [5] } 0 0
    let pend := fun (c : List Nat) (a : List DWord) => teamOf { scalars with numTraps := c, storeTraps := a } 0 0
    let rec_ := fun (f : FaultFor) => ({ ctx := 0, core := 0, team := 3, grp := 0, info := 0, addr := 0, mask := 0, what := f } : FaultRec)
    let s := fun (f : FaultFor) => { at_ tm with faultQ := [(5, rec_ f)] }
    (at_ tm).team? 3 = some tm ∧ (tm.group 0).inh = true ∧ 0 < tm.groups.length ∧
    (∀ l, l < tm.w → tm.tid 0 l < tm.threads.length) ∧
    ((at_ (pend [8] [])).ready 3 (pend [8] []) 0 = true ∧ (pend [8] []).subsets 0 = [(0xFF, 24)] ∧
      ((pend [8] []).group 0).held = none ∧ ((pend [8] []).group 0).numTraps = [8]) ∧
    ((at_ (pend [] [64, 128])).ready 3 (pend [] [64, 128]) 0 = true ∧ ((pend [] [64, 128]).group 0).storeTraps = 64 :: [128]) ∧
    Held (s .retry) 5 (rec_ .retry) tm ∧ Held (s .skip) 5 (rec_ .skip) tm ∧ (rec_ .retry).what = .retry ∧ (rec_ .skip).what = .skip ∧
    (let tr : Trigger := { ctx := 0, collective := true, addr := 0x20000, at_ := some 5, fault := some 5 }
     let t := { s (.engine 7 1) with trigs := [(1, tr)] }
     look t.faultQ 5 = some (rec_ (.engine 7 1)) ∧ (t.ctx 0).res = .running ∧ look t.trigs 1 = some tr ∧ tr.fault = some 5) ∧
    -- an answer while the context is saved
    (let t := (s .retry).updCtx 0 fun c => { c with res := .saved }
     look t.faultQ 5 = some (rec_ .retry) ∧ (t.ctx 0).res ≠ .running) :=
  ⟨rfl, rfl, by decide, by decide, by decide, by decide, ⟨rfl, by decide, rfl, by decide, by decide⟩,
    ⟨rfl, by decide, rfl, by decide, by decide⟩, rfl, rfl, by decide, by decide⟩

/-- Context 0 with one exception counter armed at a threshold of 1, and increments of class 4 from the team. -/
def excAt (en : Bool) (count : Nat) : State :=
  { (at_ team).updCtx 0 (fun c => { c with exc := setAt c.exc 4 { en := en, thresh := 1, act := 1, window := 5 } }) with
    excQ := [{ ctx := 0, cls := 4, count := count, src := some (3, 0) }], time := 5000 }
theorem witness_CountersLateResultsAndSideLog :
    let tm := teamOf { scalars with pend := [{ instr := 3, writes := [(.v 7 6, 0x3F800000), (.s 6, 5)] }], pendRegs := [{ reg := .v 7 6 }] } 0 0
    let entry : SideEntry := { seq := 0, ctx := 0, team := 3, grp := 0, w := 4, lanes := [⟨0, 0x20000, 7, .write, false⟩], scope := 0, rel := false, cause := 2, epc := 0 }
    let logged := (at_ team).updCore 0 (fun c => { c with slog := [entry] })
    -- the level passes the threshold, reaches it only, or the class is not counted
    (((excAt true 2).excQ.map (·.cls)) = [4] ∧ 4 < ((excAt true 2).ctx 0).exc.length ∧ (((excAt true 2).ctx 0).exc.getD 4 {}).en = true ∧
      (((excAt false 2).ctx 0).exc.getD 4 {}).en = false ∧ (((excAt true 2).ctx 0).exc.getD 4 {}).act = 1 ∧
      (excAt true 2).team? 3 = some team ∧ team.live 0 ≠ 0) ∧
    ((((excAt true 1).ctx 0).exc.getD 4 {}).window ≠ 0 ∧ (excAt true 1).time.toNat % (1000 * 5) = 0) ∧
    ((0x0000000100000503 : DWord).toNat / 2 ^ 2 % 4 ≠ 3 ∧ (0x0000000100000501 : DWord).getLsbD 1 = false) ∧
    ((at_ tm).team? 3 = some tm ∧ (tm.group 0).pend.length = 1 ∧
      (∀ p ∈ (tm.group 0).pend, (p.writes.map (·.1)).Nodup) ∧ tm.tid 0 7 < tm.threads.length ∧ tm.role 0 ≠ .matrix ∧
      (tm.group 0).pendReg (.v 7 6) = some { reg := .v 7 6 } ∧ (tm.group 0).pendReg (.v 6 6) = none) ∧
    (let s := { at_ team with hostdbs := [{ ctx := 0, core := 0, team := 3, grp := 0, instr := 0, value := 9 }] }
     s.storesBefore 0 0 = false ∧ s.earlierDone 0 3 0 0 = true ∧ s.covered team 3 0 5 = false) ∧
    (let s := { at_ team with teams := [], hostdbs := [{ ctx := 0, core := 0, team := 3, grp := 0, instr := 0, value := 9 }] }
     s.team? 3 = none ∧ s.logHas 0 3 none = false ∧ s.storesBefore 0 0 = false ∧ s.earlierDone 0 3 0 0 = true) ∧
    (∀ e ∈ ((at_ team).core 0).slog, e.ctx ≠ 0) ∧ (logged.core 0).slog = [entry] ∧ entry.ctx = 0 ∧ entry.doubt = none ∧
    (match logged.translateLanes 0 0 entry.lanes with
      | .ok (_, s1) => decide ((s1.core 0).slog = [entry] ∧ ∀ a ∈ s1.reqs, a.core = 0 → a.instr ≤ entry.instr)
      | .error _ => false) = true :=
  ⟨by decide, by decide, by decide, by decide, by decide, by decide, by decide, by decide, by decide, rfl, by decide +kernel⟩

/-- A request of lane 0 to plain memory at 0x20000. -/
def reqOf (op : MemOp) (st : ReqState) : Req :=
  { instr := 0, ctx := 0, core := 0, team := 3, grp := 0, lane := 0, op := op, va := 0x20000, tgt := { ap := 0, pa := 0x20000 }, w := 4,
    data := 1, cmp := 0, dsts := [⟨some 0, 0, 4, 63, false⟩], state := st }
theorem witness_AccessesArePerformedAtHome : let s := fun (op : MemOp) (st : ReqState) => { at_ team with reqs := [reqOf op st] }
    AtHome (s .read .waiting) 0 (reqOf .read .waiting) ∧ AtHome (s .write .waiting) 0 (reqOf .write .waiting) ∧
    AtHome (s .cas .waiting) 0 (reqOf .cas .waiting) ∧
    AtHome (s (.atom 0 2 false true) .waiting) 0 (reqOf (.atom 0 2 false true) .waiting) ∧
    ((s .read (.done 5)).reqs[0]? = some (reqOf .read (.done 5)) ∧ (reqOf .read (.done 5)).isStore = false ∧ team.tid 0 0 < team.threads.length) ∧
    ((reqOf .write (.done 0)).isStore = true ∧ (reqOf .write (.done 0)).performed = true) ∧
    ((s .read (.done 5)).behind (reqOf .read (.done 5)) = false ∧ (s .write (.done 0)).ackBehind 0 (reqOf .write (.done 0)) = false ∧
      ((reqOf .read (.done 5)).dsts.flatMap fun d => d.writes 5).map (·.1) = [.v 0 63] ∧ (team.group 0).pendReg (.v 0 63) = none) ∧
    (0 < (s .write (.refused 11)).logRoom 0 ((s .write (.refused 11)).core 0).logCtxs ∧ (s .write (.refused 11)).team? 3 = some team ∧
      reqOf .write (.refused 11) ∉ ([] : List Req)) :=
  have h (op : MemOp) (hm : ({ at_ team with reqs := [reqOf op .waiting] } : State).mayPerform 0 (reqOf op .waiting) = true) :
      AtHome { at_ team with reqs := [reqOf op .waiting] } 0 (reqOf op .waiting) :=
    ⟨rfl, hm, show ((at_ team).ctx 0).res = .running from by decide, ⟨rfl, rfl, rfl, show 0x20000 < Config.memBytes by decide⟩, ⟨rfl, rfl, rfl⟩, rfl⟩
  ⟨h _ (by decide), h _ (by decide), h _ (by decide), h _ (by decide), by decide⟩

theorem witness_InvalidationDropsTranslations : let s := { at_ team with inv := some (5, 0) }
    let done := { s with reqs := [{ reqOf .write (.done 0) with instr := 4 }, { reqOf .write .waiting with instr := 5 }] }
    let open_ := { s with reqs := [{ reqOf .write .waiting with instr := 4 }] }
    (at_ team).inv = none ∧ (0 < 1 ∧ 2 ^ 45 - 1 + 1 ≤ 2 ^ 45) ∧ s.inv = some (5, 0) ∧
    (∀ r ∈ done.reqs, r.state = .done 0 ∨ 5 ≤ r.instr) ∧ done.outst = [] ∧ done.waitQ = [] ∧
    (∃ r ∈ open_.reqs, r.instr < 5 ∧ r.ctx = 0 ∧ r.state = .waiting) ∧
    -- a completion record sent to a peer before and after the command, and one that waits for a route
    (let m := Msg.completion { kind := 1, id := 0, part := 1 } 0 0x101 0 0 0 0
     m.translated = true ∧ (∃ o ∈ [({ tid := 0, dst := 1, port := none, via := none, msg := m, born := 4 } : Outst)], o.born < 5 ∧ o.msg.ctx = 0) ∧
       ∃ w ∈ [({ dst := 1, msg := m, born := 4 } : Wait)], w.born < 5 ∧ w.msg.ctx = 0) :=
  ⟨rfl, by decide, rfl, by decide, rfl, rfl, ⟨_, .head _, by decide⟩, by decide, ⟨_, .head _, by decide⟩, _, .head _, by decide⟩

/-- A module of a pod of one row and two columns, its port to module 1 up. -/
def podAt : State :=
  { mapped with podRows := 1, podCols := 2, ports := mapped.ports.map fun p => { p with st := 2 } }
/-- A sweep range of context 1: one 2 MiB of DE32 elements in class 3, a pass at every step. -/
def sweepEntry : BitVec 128 := 1 + 3 * 2 ^ 3 + 1 * 2 ^ 7 + 1 * 2 ^ 43 + 1 * 2 ^ 64
def sweepAt (p : List (Nat × (Word × List Nat))) : State :=
  { (tenantAt tenantTeam).updCtx 1 (fun c => { c with odometer := 1 }) with sweeps := [(0, sweepEntry)], passes := p }
theorem witness_MigrationsAndSweeps : let m : Migration := { page := 0x40000000, size := 2 ^ 12, dstMod := 1, dstPa := 0x40000000 }
    let s := { podAt with migrations := [(63, m)] }
    (0x40000000 % 2 ^ 30 = 0 ∧ 0x40000000 + 2 ^ 30 ≤ Config.memBytes ∧ 1 ≠ podAt.modId.toNat ∧ podAt.inPod 1 = true ∧ podAt.migrations = [] ∧
      podAt.freeMigration = some 0 ∧ podAt.tokenDir = []) ∧
    (look s.migrations 63 = some m ∧ 128 * 31 < m.size ∧ m.copied.contains 31 = false ∧ s.poisoned (m.page + 128 * 31) 128 = false ∧
      s.routes 1 ≠ []) ∧
    2 ^ 12 ≤ ({ m with copied := List.range 32 } : Migration).copied.length * 128 ∧
    (let s := sweepAt []
     (s.sweep 0).getLsbD 0 = true ∧ (s.sweep 0).getLsbD 1 = false ∧
       swPace (s.sweep 0) ≤ ((s.ctx (swCtx (s.sweep 0))).odometer - swPstep (s.sweep 0)).toNat ∧ 0 < swCount (s.sweep 0)) ∧
    let s := sweepAt [(0, (1, [0]))]
    look s.passes 0 = some (1, [0]) ∧ 2 ^ 19 - 1 < swCount (s.sweep 0) ∧ ([0] : List Nat).contains (2 ^ 19 - 1) = false ∧
      [0].length + 1 < swCount (s.sweep 0) ∧ s.tokenDir = [] ∧ s.migrations = [] ∧ s.poison = [] :=
  ⟨by decide +kernel, by decide +kernel, by decide, by decide +kernel, rfl, by decide +kernel, by decide, by decide +kernel, rfl, rfl, rfl⟩


/-! ### Hypotheses that are met: tables, fabric and links -/

/-- The tenant of `tenantAt` with its team saved, and no sweep. -/
def tenantSaved : State := tenantAt { tenantTeam with saved := true }
/-- A range entry of 512 units of 2 MiB from unit `hbase` of aperture 0, in the main aperture. -/
def rangeAt (hbase : Nat) : BitVec 128 := BitVec.ofNat 128 (0x8F + 2 ^ 21 + 512 * 2 ^ 64 + hbase * 2 ^ 85 + 512 * 2 ^ 21)

theorem witness_TableWrites :
    isPriv 0x3F4 = true ∧ isPriv 0x3F5 = false ∧
    ((∀ t ∈ tenantSaved.teams, t.2.ctx = 1 → t.2.saved = true) ∧ ∃ t ∈ (tenantAt tenantTeam).teams, t.2.ctx = 1 ∧ t.2.saved = false) ∧
    (tenantSaved.rangeOk 1 47 (rangeAt (0xBC000 - 512) &&& 0x0FFFFFFFFFFFFFFF0007FFFFFFE3FFFF) = true ∧
      tenantSaved.rangeOk 1 47 (rangeAt (0xBC000 - 511) &&& 0x0FFFFFFFFFFFFFFF0007FFFFFFE3FFFF) = false) ∧
    (classOk 0x358000003E8000003F80000000000001 = true ∧ classOk 0x358000003E8000003F80000100000001 = false ∧
      (0x358000003E8000003F80000100000001 : BitVec 128).getLsbD 0 = true) ∧
    (tenantSaved.sweepOk 255 sweepEntry = true ∧ sweepEntry.getLsbD 0 = true ∧ tenantSaved.sweepOk 255 (sweepEntry - 2 ^ 64) = false ∧
      (sweepEntry - 2 ^ 64).getLsbD 0 = true) ∧
    (podAt.pannierOk (1 + 0x101 * 2 ^ 88 + 4096 * 2 ^ 136 + 4096 * 2 ^ 176) = true ∧
      podAt.pannierOk (1 + 0x100 * 2 ^ 88 + 4096 * 2 ^ 136 + 4096 * 2 ^ 176) = false ∧
      podAt.pannierOk (1 + 0x101 * 2 ^ 88 + 4096 * 2 ^ 136 + 4097 * 2 ^ 176) = false) ∧
    (tenantSaved.colls = [] ∧ tenantSaved.inv = none ∧
      ((0x101 : BitVec 192).toNat / 2 ^ 8 % 2 ^ 12 ≠ 0 ∧ (0x101 : BitVec 192).toNat / 2 ^ 64 % 128 = 0 ∧ (0x101 : BitVec 192).toNat / 2 ^ 128 % 128 = 0) ∧
      (0x1 : BitVec 192).toNat / 2 ^ 8 % 2 ^ 12 = 0) ∧
    (0x17800000000 - 1 : DWord).toNat / 2 ^ 18 * 2 ^ 18 < 0x17800000000 ∧ 0x17800000000 ≤ (0x17800000000 : DWord).toNat / 2 ^ 18 * 2 ^ 18 ∧
    State.reset.ports.length = 30 ∧ ∀ p ∈ State.reset.ports, p.up = false :=
  ⟨rfl, rfl, ⟨by decide, _, .head _, by decide⟩, by decide +kernel, by decide +kernel, by decide +kernel, by decide +kernel,
    ⟨rfl, rfl, by decide +kernel, by decide +kernel⟩, by decide +kernel⟩

/-- The pod with memory granted to module 1 whole. -/
def grantedAt (perm : BitVec 4) : State := { podAt with grants := [⟨9, 1, 0, 0xC0000, perm⟩] }
/-- A load of this module at peer memory, sent, and its message. -/
def sentLoad : Req := { reqOf .read .sent with tgt := { ap := 0x101, pa := 0x1000 } }
def awaiting : State :=
  { podAt with reqs := [sentLoad], outst := [⟨1, 5, some 0, none, .request 0x101 0x1000 sentLoad, false, 0⟩] }
theorem pod_still : Still podAt := ⟨rfl, rfl, by decide⟩

theorem witness_FabricEvents : let g := grantedAt
    let held := { g 8 with tokenDir := [(3, 7)] }
    let recalling := fun (d : Nat) => { g 3 with recalls := [(9, 1, d)] }
    Heard (g 7) 1 5 0 ∧ AtRest (g 7) 0x17FFFFFFF80 ∧ ((g 7).granted 1 0x17FFFFFFF80 &&& 7 = 7 ∧ (1 : Nat) ∉ (g 7).denies) ∧
    (g 4).granted 1 0 &&& 1 = 0 ∧ podAt.tagOk 9 = false ∧
    -- an acquire of a peer on a line without a tag, and on one whose tagged release a store still precedes
    ((g 7).peerPromoted { acq := true } 0x17FFFFFFF80 = true ∧
      ({ g 7 with promote := [(sectorKey 0 0x1000, { mod := (g 7).modId.toNat, core := 0, before := 9 })], reqs := [reqOf .write .waiting] } : State).peerPromoted { acq := true } 0x1000 = false ∧
      ({ acq := true } : PeerHow).token = false) ∧
    ({ podAt with answered := [⟨1, 5, 0, [7], some 0, none⟩] } : State).answeredTo 1 5 = some ⟨1, 5, 0, [7], some 0, none⟩ ∧
    podAt.openRoutes 1 (.response 1 5 0 [7]) = [(0, none)] ∧
    (awaiting.outst.find? (fun o => o.dst == 1 && o.tid == 5) = some ⟨1, 5, some 0, none, .request 0x101 0x1000 sentLoad, false, 0⟩ ∧
      (∀ o ∈ awaiting.outst, o.dst = 256 ∨ o.port ≠ none) ∧ Still awaiting ∧
      awaiting.reqs.findIdx? (fun r => ({ dst := 1, tid := 5, port := some 0, via := none, msg := .request 0x101 0x1000 sentLoad } : Outst).isFor r)
        = some 0 ∧ awaiting.reqs[0]? = some sentLoad ∧ sentLoad.acq = false ∧ sentLoad.rel = false ∧ awaiting.waitQ = [] ∧
      (List.replicate 32 (1 : Byte)).length = sentLoad.answerBytes) ∧
    (∀ o ∈ awaiting.outst, o.dst ≠ 1 ∨ o.tid ≠ 6) ∧
    -- a token that is free, refused, or with module 7
    (Heard (g 8) 1 5 0 ∧ ((1 : Nat), 5, 3) ∉ (g 8).tokenWait ∧ 3 * 2 ^ 21 < Config.memBytes ∧ (g 8).granted 1 (3 * 2 ^ 21) &&& 8 = 8 ∧
      look (g 8).tokenDir 3 = none ∧ (g 8).tokenDir.length < 16384 ∧ (g 7).granted 1 (3 * 2 ^ 21) &&& 8 ≠ 8 ∧
      look held.tokenDir 3 = some 7 ∧ held.outst = [] ∧ held.waitQ = []) ∧
    (∃ s : State, s = { g 8 with tokenDir := (List.range 16384).map fun k => (k + 4, 1) } ∧ look s.tokenDir 3 = none ∧ 16384 ≤ s.tokenDir.length) ∧
    (∀ w ∈ ({ g 8 with tokenDir := [(3, 1)] } : State).tokenWait, w.2.2 ≠ 3) ∧
    (podAt.peerLines = [] ∧ podAt.peerMem = [] ∧ podAt.relPend = [] ∧ podAt.outst = [] ∧ podAt.waitQ = [] ∧ ({ podAt with cores := [] } : State).cores = [] ∧
      podAt.reqs = []) ∧
    podAt.mayLeave 1 (.grant 1 9 0 1 3) = true ∧ podAt.mayLeave 1 (.deny 1) = true ∧ podAt.mayLeave 1 (.tokenRecall 1 3) = true ∧ (g 3).grants.find? (fun x => x.id == 9 && x.mod == 1) = some ⟨9, 1, 0, 0xC0000, 3⟩ ∧
    (1 : Nat) ∈ ({ g 8 with denies := [1] } : State).denies ∧
    (let r := recalling 5000
     r.outst = [] ∧ r.waitQ = [] ∧ (∀ w ∈ r.tokenWait, w.1 ≠ 1) ∧ r.answeredTo 1 5 = none ∧ r.tokenDir = []) ∧
    -- the clock of port 0 in the course of an exchange
    (let s := { podAt with ptp := { podAt.ptp with port := some 0, t1 := some 5, t2 := some 7, t3 := some 9 } }
     s.ptp.port = some 0 ∧ s.ptp.t2.isSome = true ∧ s.ptp.port ≠ some 1) ∧
    (∃ s : State, s = { podAt with grants := List.replicate 4096 ⟨1, 2, 0, 1, 3⟩ } ∧
      4096 ≤ (s.grants.filter fun x => !(x.id == 9 && x.mod == 1)).length) ∧
    ((recalling 5000).recalls = [(9, 1, 5000)] ∧ (recalling 5000).time.toNat < 5000 ∧ 5000 ≤ ({ recalling 5000 with time := 5000 } : State).time.toNat) ∧
    podAt.trigs = [] ∧ podAt.time.toNat < (1 : DWord).toNat :=
  ⟨⟨rfl, by decide⟩, ⟨by decide, rfl, rfl, rfl⟩, by decide +kernel, by decide +kernel, by decide +kernel, by decide +kernel, by decide,
    by decide +kernel, ⟨by decide +kernel, by decide, pod_still, by decide +kernel⟩, by decide,
    ⟨⟨rfl, by decide⟩, by decide, by decide, by decide +kernel, rfl, by decide, by decide +kernel, rfl, rfl, rfl⟩,
    ⟨_, rfl, by decide +kernel, by decide +kernel⟩, by decide, ⟨rfl, rfl, rfl, rfl, rfl, rfl, rfl⟩, by decide +kernel, by decide +kernel, by decide +kernel, by decide +kernel,
    by decide, by decide +kernel, by decide, ⟨_, rfl, by decide +kernel⟩, by decide +kernel, rfl, by decide⟩

/-- The pod with port 0 as given. -/
def portOf (x : Port) : State := { podAt with ports := setAt podAt.ports 0 x }
/-- A request to module 2 whose direct link has failed, in a pod of three columns, as it was sent. -/
def toTwo : Outst := ⟨2, 5, some 1, none, .grantAck 2 9, false, 0⟩
def threeAt (bad : List (Nat × Nat)) (o : List Outst) : State :=
  { podAt with podCols := 3, badLinks := bad, outst := o }

/-- The swap of lane 0 for lane `d`, made in both directions. -/
def swapMade (d : Nat) : Shift := { lane := 0, to_ := d, n := 300, n' := some 600, tries := 1, at_ := 0, sent := true, taken := true }

theorem port_idle (x : Port) : Idle (portOf x) := ⟨rfl, rfl, rfl, pod_still⟩

theorem witness_LinkEvents : let up : Port := { st := 2 }
    PortAt (portOf up) 0 up ∧ up.up = true ∧ Idle (portOf up) ∧
    Roomy up ∧ (10000 ≤ (({ portOf up with time := 10000 } : State).time - up.heard).toNat ∧
      (({ portOf up with time := 9999 } : State).time - up.heard).toNat < 10000) ∧
    -- the replay of one flit for the 16th and the 17th time
    ({ up with replay := (7, 15) } : Port).replay.2 + 1 ≤ 16 ∧ 17 ≤ ({ up with replay := (7, 16) } : Port).replay.2 + 1 ∧
    (PortAt (portOf {}) 0 {} ∧ (({} : Port).up = false ∧ ({} : Port).st = 0) ∧
      100000000 ≤ (({ portOf {} with time := 100000000 } : State).time - ({} : Port).since).toNat ∧
      (({ portOf {} with time := 99999999 } : State).time - ({} : Port).since).toNat < 100000000) ∧
    (PortAt (portOf { st := 1 }) 0 { st := 1 } ∧ ((List.range 5).filter fun l => [0, 4].contains l).length < 3 ∧
      3 ≤ ((List.range 5).filter fun l => [0, 2, 4].contains l).length) ∧
    -- a route around the link, and none
    (let s := threeAt [] [toTwo]
     s.linkOk 0 2 = true ∧ ((1, none) ∉ ({ s with badLinks := s.badLinks ++ [(0, 2)] } : State).routes 2) ∧
      ({ s with badLinks := s.badLinks ++ [(0, 2)] } : State).openRoutes 2 (.grantAck 2 9) = [(0, some 1)] ∧ toTwo.dst ≠ 256 ∧
      toTwo.doubt = false) ∧
    (let s := threeAt [(0, 1)] [toTwo]
     s.linkOk 0 2 = true ∧ ({ s with badLinks := s.badLinks ++ [(0, 2)] } : State).routes 2 = [] ∧ (Msg.tokenRecall 2 3).fails = false ∧
      s.untagged (.tokenRecall 2 3) = false) ∧
    (let s := threeAt [(0, 1), (0, 2)] [{ toTwo with doubt := true, port := none }]
     ({ s with badLinks := s.badLinks.filter fun l => l ≠ (0, 2) ∧ l ≠ (2, 0) } : State).openRoutes 2 (.grantAck 2 9) = [(1, none)]) ∧
    -- a lane weak for the second window or by its margin, the first of those in use
    (up.shift = none ∧ FirstWeak { up with win := [0, 2, 0, 0, 0] } 1 ∧ FirstWeak { up with margins := [some 14, none, none, none, none] } 0 ∧
      ∀ l ∈ ({ up with margins := [some 15, none, none, none, some 0] } : Port).active,
        ¬ Weak { up with margins := [some 15, none, none, none, some 0] } l) ∧
    (let w : Port := { up with win := [0, 2, 0, 0, 0] }
     w.st = 2 ∧ ∀ q, w.spare = some q → ¬ Weak w q) ∧
    -- the swap of lane 0: asked for, answered to, and made in both directions
    (let z : Shift := { lane := 0, to_ := 4, n := 300, tries := 2, at_ := 0 }
     let sh : Port := { up with shift := some z }
     PortAt (portOf sh) 0 sh ∧ sh.shift = some z ∧ z.n' = none ∧ z.tries < 3 ∧ (portOf sh).modId.toNat < portPeer (portOf sh).modId.toNat 0 ∧
      (({ portOf sh with time := 100000 } : State).time - z.at_).toNat = 100000 ∧ up.shift = none ∧
      ({ z with n' := some 600 } : Shift).sent = false ∧ reached ((299 + 1) % 2 ^ 32) 300 = true ∧ reached ((298 + 1) % 2 ^ 32) 300 = false) ∧
    (∀ d ∈ [4, 7], ∃ y : Port, y = { up with lmap := laneMap [d, 1, 2, 3], shift := some (swapMade d) } ∧ PortAt (portOf y) 0 y ∧ y.up = true ∧ ∀ b ∈ y.active, ¬ Weak y b) ∧
    (let p : Peloton := { v := true, ctx := 1, members := 3, beats := [(1, 0)] }
     let s := { podAt with pelotons := [(0, p)], time := 1500000 }
     s.partners = [1] ∧ (∀ r ∈ s.routes 1, s.mayLeave 1 (.heartbeat 1) (some r) = true) ∧ s.outstanding 1 + (s.routes 1).length ≤ 512 ∧ s.answeredTo 1 5 = none ∧ (0, p) ∈ s.pelotons ∧ p.members.getLsbD 1 = true ∧
      p.beats.find? (fun b => b.1 == 1) = some (1, 0) ∧ 1500000 ≤ (s.time - (0 : DWord)).toNat ∧
      ({ s with badLinks := [(0, 1)] } : State).routes 1 = []) ∧
    -- a flit that carries the answer of module 1, and one that was lost before it
    (let s := { portOf { up with rseq := 9 } with sched := [.flitIn 0 9 true (.event (.fabricResponse 1 5 0 []))] }
     s.issue = none ∧ arrives (.fabricResponse 1 5 0 []) = true ∧ (overPort (.fabricResponse 1 5 0 [])).all (· == 0) = true ∧
      (s.port 0).up = true ∧ s.fw.powered = true ∧ (s.port 0).rseq = 9 ∧ (s.port 0).rseq ≠ 8) ∧
    (let s := { portOf up with sched := [.arrived 0], inbox := [.tokenRelease 1 5 0 3] }
     s.issue = none ∧ s.inbox[0]? = some (.tokenRelease 1 5 0 3) ∧ s.fw.powered = true) :=
  ⟨rfl, rfl, port_idle _, by unfold Roomy; decide, by decide, by decide, by decide, ⟨rfl, by decide⟩, ⟨rfl, by decide, by decide⟩, by decide +kernel,
    by decide +kernel, by decide +kernel,
    ⟨rfl, ⟨[0], [2, 3], by decide, .inl (by decide), by simp [Weak]⟩, ⟨[], [1, 2, 3], by decide, .inr ⟨14, rfl, by decide⟩, nofun⟩, by
      intro l hl
      have h : ∀ l ∈ ({ ({ st := 2 } : Port) with margins := [some 15, none, none, none, some 0] } : Port).active,
        l = 0 ∨ l = 1 ∨ l = 2 ∨ l = 3 := by decide
      rcases h l hl with rfl | rfl | rfl | rfl <;> simp [Weak]⟩,
    ⟨rfl, by
      have h : ∀ q, ({ ({ st := 2 } : Port) with win := [0, 2, 0, 0, 0] } : Port).spare = some q → q = 4 := by decide
      intro q hq
      rw [h q hq]; simp [Weak]⟩,
    ⟨rfl, by decide +kernel⟩, by
      intro d hd
      refine ⟨_, rfl, rfl, rfl, fun b hb => ?_⟩
      rcases (by simpa using hd : d = 4 ∨ d = 7) with rfl | rfl <;>
      · have h : b = 1 ∨ b = 2 ∨ b = 3 ∨ b = 4 := by revert hb; revert b; decide
        rcases h with rfl | rfl | rfl | rfl <;> simp [Weak],
    by decide +kernel, by decide +kernel, ⟨rfl, rfl, rfl⟩⟩

/-! ### Hypotheses that are met: flow and collective events -/

/-- Flow 5 of context 0, tag 7, in the pod, as given. -/
def flowPod (e : FlowEnd) : State := { (podAt.updCtx 0 fun c => { c with dtag := 7 }) with flows := [(5, e)] }
/-- A send end of 4-byte elements to module 1, its history at 0x40000, and a receive end from it. -/
def toOne : FlowEnd := { v := true, ew := 2, maxlen := 512, hbase0 := 0x40, hbase1 := 0x41, peer := 1, pflow := 3, slot := 9 }
def fromOne : FlowEnd := { toOne with dir := true }
def recvOne : FlowRecv := { idx := 0, mod := 1, slot := 3, keys := false }
/-- A transfer of 512 bytes at 0x20000, of which the first block is next. -/
def runOne : FlowRun := { x := { src := 0x20000, len := 512 }, g := 4, recvs := [recvOne] }
def rxOne : FlowRx := { g := 4, len := 512, src := 1, lag := false, kboth := false }

theorem reaches (e : FlowEnd) (h : e.v = true ∧ e.slot = 9) : Reaching (flowPod e) 1 5 7 9 5 e :=
  ⟨rfl, by simp [flowPod, h], rfl, by decide, show (7 : Nat) = 7 ∧ (7 : Nat) ≠ 0 by decide, rfl, rfl, rfl, rfl⟩

theorem witness_FlowEvents : let sending := { toOne with run := some runOne }
    let run2 : FlowRun := { runOne with next := 2, crcs := [1, 2], tailAt := some 0 }
    let tailed := { toOne with run := some run2 }
    let receiving := fun (r : FlowRx) => { fromOne with rx := some r, busy := true, gen := 4 }
    -- a transfer at the head of the queue; a source block read; an answer of the peer; the deadline
    (let e := { toOne with queue := [{ src := 0x20000, len := 512 }] }
     look (flowPod e).flows 5 = some e ∧ ((flowPod e).ctx 0).res = .running ∧ ((flowPod e).ctx 0).dtag ≠ 0 ∧ (flowPod e).routes e.peer ≠ [] ∧
       (flowPod e).issuerDone none = true ∧ (flowPod e).mayLeave e.peer (.flow 0 e.peer (header 1 e.pflow 0 1) [] none) = true) ∧
    (look (flowPod sending).flows 5 = some sending ∧ Sending sending runOne recvOne ∧ runOne.next + 1 < blocksOf runOne.x.len ∧
      (match (flowPod sending).engLoadSpan (flowWho 5) hubCore 0 4 0x20000 256 with
        | .ok (_, s1) => decide (look s1.flows 5 = some sending) && (s1.poison.isEmpty && s1.tokenDir.isEmpty && s1.migrations.isEmpty)
        | .error _ => false) = true) ∧
    (Reaching (flowPod tailed) 1 5 7 9 5 tailed ∧ Sending tailed run2 recvOne ∧ run2.tailAt = some 0 ∧ recvOne.mod = 1 ∧ run2.resync = [] ∧
      1 < run2.next ∧ ((flowPod tailed).ctx 0).res = .running ∧
      (flowPod tailed).mayLeave 1 (.flow 0 1 (header 0 3 1 1) (List.replicate 260 0) none) = true) ∧
    (((flowPod tailed).ctx 0).flowDl.toNat = 1000 ∧ (({ flowPod tailed with time := 1000000 } : State).time - (0 : DWord)).toNat = 1000 * 1000) ∧
    -- a header that fits the end; blocks in the course of a transfer, its last, and of one that lags
    Reaching (flowPod fromOne) 1 5 7 9 5 fromOne ∧ (flowPod fromOne).mayLeave 1 (.flow 0 1 (header 3 3 0 1) (List.replicate 12 0) none) = true ∧ (fromOne.dir = true ∧ fromOne.zeroing = false ∧ fromOne.peer = 1 ∧ fromOne.early = []) ∧
    (0 = fromOne.pred ∧ 2 = fromOne.ew ∧ 512 ≤ fromOne.maxlen ∧ ¬ 513 ≤ fromOne.maxlen) ∧
    (Reaching (flowPod (receiving rxOne)) 1 5 7 9 5 (receiving rxOne) ∧ Receiving (receiving rxOne) rxOne 1 1 ∧
      rxOne.applied.length + 1 < blocksOf rxOne.len) ∧
    (∀ r ∈ [{ rxOne with applied := [(0, 0)] }, { rxOne with lag := true }], Receiving (receiving r) r 1 1) ∧
    -- the write of its last block to its history; a transfer of nothing
    (∀ k ∈ [1, 2], ∃ r : FlowRx, ∃ e : FlowEnd, r = { rxOne with applied := (List.range k).map fun b => (b, 0) } ∧
      e = { receiving r with wq := [{ parts := [(0x40100, 256, 7)] }] } ∧ look (flowPod e).flows 5 = some e ∧ e.run = none ∧ e.rx = some r ∧
      r.todo = [] ∧ r.applied.length = k ∧ blocksOf r.len = 2 ∧ Home (flowPod e) ∧ ((flowPod e).ctx 0).dtag ≠ 0 ∧
      (flowPod e).sent (histWrites 5) = .nothing) ∧
    (let e := receiving { rxOne with len := 0 }
     Reaching (flowPod e) 1 5 7 9 5 e ∧ e.rx = some { rxOne with len := 0 }) ∧
    -- an entry that is not valid
    (∃ e : FlowEnd, e = { toOne with v := false } ∧ look (flowPod e).flows 5 = some e ∧ e.v = false) ∧
    -- a slot that no end has; a tag that its context has not; the kernel's writes
    (∀ x ∈ (flowPod fromOne).flows, x.2.v = false ∨ x.2.slot ≠ 8) ∧ ((flowPod fromOne).ctx 0).dtag ≠ 8 ∧
    (let v : BitVec 256 := 1 + 2 * 2 ^ 6 + 512 * 2 ^ 192
     v.getLsbD 0 = true ∧ podAt.flowRefused 5 v ((podAt.flow 5).write 9 v) = false ∧ (podAt.flow 5).v = false ∧
      podAt.flowRefused 5 (v + 2 ^ 192) ((podAt.flow 5).write 9 (v + 2 ^ 192)) = true) ∧
    (∃ e : FlowEnd, e = { toOne with zeroing := true } ∧ look (flowPod e).flows 5 = some e ∧ e.v = true ∧ e.zeroing = true ∧
      (flowPod e).tokenDir = [] ∧ (flowPod e).migrations = [] ∧ (flowPod e).sent (histWrites 5) = .nothing) ∧
    (∃ x ∈ (flowPod { toOne with mc := true, busy := true }).flows, x.2.v = true ∧ x.2.mc = true ∧ x.2.mgrp = 0 ∧ x.2.busy = true) :=
  have sends (e : FlowEnd) (r : FlowRun) (h : e = { toOne with run := some r }) (y : r.recvs = [recvOne] ∧ r.x.chunk = none ∧ r.fault = none) :
      Sending e r recvOne := by
    subst h; exact ⟨⟨rfl, rfl, rfl, rfl⟩, ⟨rfl, y.2.2⟩, ⟨y.1, rfl, rfl⟩, y.2.1⟩
  have takes (e : FlowEnd) (r : FlowRx) (h : e = { fromOne with rx := some r, busy := true, gen := 4 })
      (y : (r.src = 1 ∧ r.refused = false ∧ r.fault = none ∧ r.todo = []) ∧ 1 < blocksOf r.len ∧ look r.applied 1 = none) : Receiving e r 1 1 := by
    subst h; exact ⟨⟨rfl, rfl, rfl, rfl, rfl⟩, rfl, y.1, y.2⟩
  ⟨⟨rfl, by decide, by decide, by decide +kernel⟩, ⟨rfl, sends _ _ rfl ⟨rfl, rfl, rfl⟩, by decide, by decide +kernel⟩,
    ⟨reaches _ ⟨rfl, rfl⟩, sends _ _ rfl ⟨rfl, rfl, rfl⟩, rfl, rfl, rfl, by decide +kernel⟩, by decide +kernel,
    reaches _ ⟨rfl, rfl⟩, by decide +kernel, ⟨rfl, rfl, rfl, rfl⟩, by decide, ⟨reaches _ ⟨rfl, rfl⟩, takes _ _ rfl (by decide), by decide⟩,
    fun r h => by
      rcases List.mem_cons.1 h with rfl | h
      · exact takes _ _ rfl (by decide)
      · cases List.mem_singleton.1 h; exact takes _ _ rfl (by decide),
    fun k h => by
      rcases (by simpa using h : k = 1 ∨ k = 2) with rfl | rfl <;>
        exact ⟨_, _, rfl, rfl, rfl, rfl, rfl, rfl, rfl, by decide, ⟨rfl, rfl, rfl⟩, by decide, by decide⟩,
    ⟨reaches _ ⟨rfl, rfl⟩, rfl⟩, ⟨_, rfl, rfl, rfl⟩, by decide, by decide, by decide +kernel, ⟨_, rfl, rfl, rfl, rfl, rfl, rfl, by decide⟩,
    ⟨_, .head _, rfl, rfl, rfl, rfl⟩⟩

/-- Context 1 with peloton 2 of modules 0 and 1, its collective number 6 started by team 3, two arrivals outstanding. -/
def pelOne : Peloton := { v := true, ctx := 1, pnum := 2, members := 3 }
def collOne : Coll := { ctx := 1, src := some (3, 0), desc := 0x20000, pel := 4, ord := 0, dws := [0], left := 2 }
def collAt (c : Coll) : State :=
  { (tenantAt { tenantTeam with groups := [{ scalars with collCnt := 1 }] }) with
    podRows := 1, podCols := 2, pelotons := [(4, pelOne)], colls := [(6, c)], time := 1000000 }
/-- A trigger on a time, or on a record. -/
def trig (c : Bool) (at_ : Option DWord) (w : Option (DWord × Word)) : Trigger := { ctx := 0, collective := c, addr := 0x20000, at_ := at_, watch := w }

theorem witness_CollectiveAndTriggerEvents : let tm := { tenantTeam with groups := [{ scalars with collCnt := 1 }] }
    let s := { collAt collOne with colls := [] }
    -- a new entry; a smaller and a larger one
    (let v : BitVec 256 := 1
     v.getLsbD 0 = true ∧ v.extractLsb' 1 255 = 0) ∧
    (let v : BitVec 512 := BitVec.ofNat 512 0x30000000000000000000128000000000000000000000000000000000000000001
     v.getLsbD 0 = true ∧ (v.extractLsb' 256 256).getLsbD s.modId.toNat = true ∧ bits v 181 176 = 1 ∧ bits v 170 1 = 0) ∧
    (s.peloton 1 2 = some (4, pelOne) ∧ s.colls = [] ∧
      ((1 : BitVec 256) &&& pelOne.members = 1 ∧ 1 ≠ pelOne.members ∧ (1 : BitVec 256).getLsbD s.modId.toNat = true) ∧
      (7 : BitVec 256) &&& pelOne.members = pelOne.members) ∧
    -- a collective in flight, open while its context is saved, and one to be run again
    (let c := (collAt collOne).updCtx 1 fun c => { c with res := .saved }
     c.peloton 1 2 = some (4, pelOne) ∧ c.colls = [(6, collOne)] ∧ collOne.inFlight 1 2 4 = true ∧ collOne.open_ 4 = true ∧ (c.ctx 1).res = .saved) ∧
    ((collAt { collOne with retry := true }).peloton 1 2 = some (4, pelOne) ∧ collOne.pel = 4 ∧ collOne.ctx = 1) ∧
    (OneColl (collAt collOne) 6 collOne 3 0 tm ∧ (collAt collOne).answeredTo 1 5 = none ∧
      (collAt collOne).pelotons.find? (fun p => p.2.v && p.2.pnum == 2 && ((collAt collOne).ctx p.2.ctx).dtag == 0) = some (4, pelOne) ∧
      0 < collOne.left ∧ 1000 * ((collAt collOne).ctx 1).flowDl.toNat ≤ ((collAt collOne).time - collOne.since).toNat) ∧
    (∀ p ∈ (collAt collOne).pelotons, p.2.v = true → p.2.pnum = 2 → ((collAt collOne).ctx p.2.ctx).dtag ≠ 7) ∧
    -- a trigger that is due, and a record whose value is the target
    ((trig false (some 5) none).fault = none ∧ (at_ team).issuerDone (trig false (some 5) none).by_ = true ∧
      (trig false (some 5) none).at_ = some 5 ∧ (5 : DWord).toNat ≤ ({ at_ team with time := 5 } : State).time.toNat) ∧
    (match (at_ team).engLoad (trigWho 6 0) hubCore 0 0x20000 8 with
      | .ok (n, _) => decide ((BitVec.ofNat 32 n - (0 : Word)).toNat < 2 ^ 31) && decide (2 ^ 31 ≤ (BitVec.ofNat 32 n - (1 : Word)).toNat)
      | .error _ => false) = true ∧
    (match (at_ team).engLoad (trigWho 6 1) hubCore 0 (0x20000 + 24) 8 with
      | .ok (v, s1) => s1.queueRoom 0 (v / 2 ^ 42 % 16)
      | .error _ => false) = true :=
  ⟨by decide, by decide +kernel, by decide +kernel, by decide +kernel, ⟨by decide, rfl, rfl⟩, ⟨⟨rfl, rfl, ⟨rfl, Nat.one_pos⟩, by decide, ⟨rfl, rfl, rfl, rfl, rfl, rfl⟩, ⟨rfl, rfl, rfl⟩, ⟨by decide, rfl, rfl, rfl, rfl⟩⟩, rfl,
    by decide⟩, by decide, by decide, by decide +kernel, by decide +kernel⟩

/-! ### Hypotheses that are met: launch, engines, pre-emption and firmware -/

/-- A launch record of `t` teams of 64 threads in one group, entry packet 2, 64 vector and 96 scalar registers, 4 KiB of local memory. -/
def lrec (t : Nat) (wait : Bool) : List DWord :=
  [0x10000, BitVec.ofNat 64 (0x40F0 + 2 * 2 ^ 40 + (t - 1) * 2 ^ 20), BitVec.ofNat 64 (7 * 2 ^ 59 + 11 * 2 ^ 55 + 16 * 2 ^ 44 + 2 * 2 ^ 20),
    if wait then 0x20000 else 0, 0x20400, 0, 0, 0, 0x0000000900000007, 0, 0, 0, 0, 0, 0, 0]
/-- Queue 3 of context 0 with a head, its record in memory at 0x20000. -/
def queueAt (h : QRec) (d : List DWord) : State :=
  { (mapped.updCtx 0 fun c => { c with queues := [(3, { en := true, recs := [h] })] }) with
    mem := (d.zipIdx).foldl (fun m x => Memory.write m (0x20000 + 8 * x.2) 8 x.1.toNat) mapped.mem }
/-- What the head reads of its record. -/
def headReads (d : List DWord) : Bool :=
  match (queueAt { addr := 0x20000 } d).engLoadDws (headWho 0 3 0) hubCore 0 0x20000 16 with
  | .ok (x, s1) => decide (x = d) && (s1.ctx 0).queue 3 == { en := true, recs := [{ addr := 0x20000 }] } && s1.teams.isEmpty
  | .error _ => false
/-- Team 3 with every thread gone, the last of its grid but `n`. -/
def endingAt (killed : Bool) (n : Nat) : State :=
  { at_ team with
    teams := [(3, { team with killed := killed, threads := team.threads.map fun x => { x with exited := true } })]
    grids := [(4, { gridOf false with dws := lrec n false })] }
/-- Team 3 at a `regroup` to 16 lanes. -/
def regroupTeam : Team :=
  let tm := teamOf { s := [] } 0 0
  { tm with t := 16, threads := (List.range 16).map fun l => { lane l with waiting := some 1 }, groups := [scalars, scalars] }

theorem witness_LaunchAndPlacement : let ready : QRec := { addr := 0x20000, dws := lrec 2 false, met := true, grid := some 9, placed := 1 }
    let waits : QRec := { addr := 0x20000, dws := lrec 2 true }
    let doorbells := (tenantAt tenantTeam).updCtx 1 fun c => { c with queues := [(15, { en := true })] }
    ((doorbells.ctx 1).created = true ∧ doorbells.hostQ = [] ∧ (doorbells.ctx 1).resetting = false ∧ doorbells.outst = [] ∧ doorbells.waitQ = [] ∧ ((doorbells.ctx 1).queue 15).en = true ∧
      (0x20080 : DWord).toNat % 128 = 0 ∧ (0x20081 : DWord).toNat % 128 ≠ 0) ∧
    (HeadOf (queueAt { addr := 0x20000 } []) 0 3 { addr := 0x20000 } [] ∧ headReads (lrec 2 false) = true ∧
      LRec.malformed (lrec 2 false) false = false ∧ LRec.unplaceable (lrec 2 false) = false ∧ LRec.waitv (lrec 2 false) = false) ∧
    (LRec.malformed (lrec 2 false ++ [0]) false = false ∧ LRec.malformed ((lrec 2 false).set 15 1) false = true ∧
      headReads ((lrec 2 false).set 15 1) = true) ∧
    (let d := ((lrec 2 false).set 1 0x800F0).set 2 (BitVec.ofNat 64 (31 * 2 ^ 59 + 11 * 2 ^ 55))
     LRec.malformed d false = false ∧ LRec.unplaceable d = true ∧ headReads d = true) ∧
    (HeadOf (queueAt waits []) 0 3 waits [] ∧ LRec.waitv waits.dws = true ∧
      waits.target = none ∧ (match (queueAt waits []).engTarget hubCore 0 .engRead 0x20400 with
        | .ok (tg, s1) => tg.ap == 0 && !tg.nowhere && (match s1.physRead (headWho 0 3 1) 0 tg.pa 8 with
          | .ok (_, s2) => (s2.ctx 0).queue 3 == ((queueAt waits []).ctx 0).queue 3 && s2.teams.isEmpty
          | .error _ => false)
        | .error _ => false) = true) ∧
    (let s := { queueAt ready [] with ctxs := ((queueAt ready []).updCtx 0 fun c => { c with admits := true }).ctxs }
     s.nextPlacement = some (0, .head 3) ∧ HeadOf s 0 3 ready [] ∧ ((s.ctx 0).queue 3).placeable = some ready ∧ s.colls = [] ∧
      s.fitsAt (s.ctx 0) 0 ready.dws 191 = true ∧ s.fitsAt (s.ctx 0) 0 ready.dws 192 = false) ∧
    (∀ k, k ∈ [true, false] → ∃ tm gd, (endingAt k 1).team? 3 = some tm ∧ (endingAt k 1).grids = [(tm.grid, gd)] ∧
      (endingAt k 1).teamDone 3 tm = true ∧ tm.killed = k ∧ LRec.cdesc gd.dws = 0 ∧ gd.ended + 1 = LRec.teams gd.dws ∧ gd.clean = gd.ended ∧
      LRec.done gd.dws = 0 ∧ (endingAt k 1).reqs = [] ∧ ((endingAt k 1).ctx gd.ctx).image.slog = []) ∧
    (∃ gd, (endingAt false 2).grids = [(4, gd)] ∧ gd.ended + 1 < LRec.teams gd.dws) ∧ (at_ team).teamDone 3 team = false ∧
    regroupTeam.waitingCode = some 1 ∧ regroupTeam.regroupReady = true ∧ team.regroupReady = false :=
  ⟨by decide +kernel, ⟨rfl, by decide +kernel, by decide +kernel, by decide +kernel, by decide +kernel⟩, by decide +kernel, by decide +kernel,
    ⟨rfl, by decide, by decide +kernel⟩, by unfold HeadOf; decide +kernel, fun k hk => by
      rcases List.mem_cons.1 hk with rfl | hk
      · exact ⟨_, _, rfl, rfl, by decide, rfl, by decide, by decide, rfl, by decide, rfl, rfl⟩
      · cases List.mem_singleton.1 hk; exact ⟨_, _, rfl, rfl, by decide, rfl, by decide, by decide, rfl, by decide, rfl, rfl⟩,
    ⟨_, rfl, by decide⟩, by decide⟩

/-- A shape record: four words from `src` to `dst`, spaces as given. -/
def shape (src dst space : DWord) : List DWord := [src, dst, 0x0040002000200004, 0, 0, space, 0, 0, 0, 0, 0, 0, 0, 0, 0, 0]
/-- Copy command 6 of team 3, its record at 0x20000. -/
def copyCmd (d : List DWord) (started : Bool) : CopyCmd :=
  { core := 0, ctx := 0, team := 3, grp := 0, kind := 0, instr := 0, recAddr := 0x20000, started := started, dws := d }
def copyAt (d : List DWord) (c : CopyCmd) : State :=
  { at_ (teamOf { scalars with copyCnt := 1 } 1 0) with
    copies := [(6, c)], mem := (d.zipIdx).foldl (fun m x => Memory.write m (0x20000 + 8 * x.2) 8 x.1.toNat) mapped.mem }
/-- The record of a waiting command is read as it stands, the command and its team unchanged. -/
def shapeReads (d : List DWord) : Bool :=
  match (copyAt d (copyCmd [] false)).engLoadDws (copyRec 6) 0 0 0x20000 16 with
  | .ok (x, s1) => decide (x = d) && look s1.copies 6 == some (copyCmd [] false) && s1.teams == (copyAt d (copyCmd [] false)).teams
  | .error _ => false
/-- Command 6 of the matrix example at the head of its array: the `mma` of s16, or the drain of s32. -/
def matCmd (drain : Bool) : MatCmd :=
  let tm := matrixTeam 1
  { core := 0, ctx := 0, team := 3, grp := 0, instr := 0, arr := 1, drain := drain, atIssue := (tm.snap 0).lanes,
    dws := parBlock (issueOf tm) tm (if drain then 32 else 16) false }
def matAt (c : MatCmd) : State := { at_ (matrixTeam 1) with mats := [(6, c)] }

theorem witness_EnginesWork : let tm := teamOf { scalars with copyCnt := 1 } 1 0
    let localRec := shape 0 0x100 5
    let global := shape 0x20000 0x20200 0
    let waiting := copyAt localRec (copyCmd [] false)
    (waiting.nextCopy 0 = some (6, copyCmd [] false) ∧ waiting.team? 3 = some tm ∧ waiting.copiesRunning 0 < 8 ∧
      waiting.earlierDone 0 3 0 0 = true ∧ shapeReads localRec = true ∧ Shape.malformed localRec 0 = false ∧ Shape.ssp localRec = 1 ∧
      Shape.dsp localRec = 1 ∧ localOk tm (Shape.srcExtent localRec) (Shape.src localRec) = true ∧
      localOk tm (Shape.dstExtent localRec 0) (Shape.dst localRec) = true) ∧
    (shapeReads (shape 0 0x101 5) = true ∧ Shape.malformed (shape 0 0x101 5) 0 = true ∧ Shape.ck (shape 0 0x101 5) = 0) ∧
    (8 ≤ ({ waiting with copies := (List.range 8).map (fun k => (k + 10, copyCmd localRec true)) ++ waiting.copies } : State).copiesRunning 0) ∧
    Copying (copyAt [] (copyCmd localRec true)) 6 (copyCmd localRec true) tm 3 ∧
    Copying (copyAt [] (copyCmd global true)) 6 (copyCmd global true) tm 3 ∧ Shape.ssp global = 0 ∧ Shape.dsp global = 0 ∧
    (let s := copyAt [] (copyCmd global true)
     (match s.engLoad (copyWho 6 3) 0 0 (Shape.srcAddr global 3) 4 with
      | .ok (v, s1) => (match s1.engStoreAll (copyWho 6 3) 0 0 [(Shape.dstAddr global 0 3, 4, v)] with
        | .ok s2 => look s2.copies 6 == some (copyCmd global true) && s2.sent (copyWho 6 3) == .nothing
        | .error _ => false)
      | .error _ => false) = true) ∧
    ((matAt (matCmd false)).matHead 6 = some (matCmd false) ∧ (matAt (matCmd false)).team? 3 = some (matrixTeam 1) ∧
      (matCmd false).smash = [] ∧ (∀ x ∈ (matAt (matCmd false)).mats, x.2.lost = false) ∧
      Par.col (matCmd false).dws + Par.n (matCmd false).dws ≤ 256) ∧
    ((matAt (matCmd true)).matHead 6 = some (matCmd true) ∧ (matAt (matCmd true)).earlierDone 0 3 0 0 = true ∧ (matCmd true).stalled = [] ∧ (matCmd true).ending = none ∧
      Par.dsp (matCmd true).dws = 1 ∧ Par.ck (matCmd true).dws ≠ 2 ∧ 64 * Par.n (matCmd true).dws - 1 < 64 * Par.n (matCmd true).dws) :=
  ⟨by decide +kernel, by decide +kernel, by decide, ⟨rfl, rfl, ⟨rfl, rfl, rfl, rfl, rfl, rfl⟩, ⟨rfl, rfl, rfl, rfl⟩, by decide, by decide⟩,
    ⟨rfl, rfl, ⟨rfl, rfl, rfl, rfl, rfl, rfl⟩, ⟨rfl, rfl, rfl, rfl⟩, by decide, by decide⟩, by decide, by decide, by decide +kernel, by decide +kernel, by decide +kernel⟩

/-- Context 1 about to be saved, stopping, or saved: 32 MiB at 0x40000000 for its image, or 2 MiB, and a core mask of one core. -/
def saveAt (len : Nat) (st : Resident) (p : Option (Nat × Nat)) (tm : Team) : State :=
  { (tenantAt tm).updCtx 1 (fun c => { c with res := st, savearea := BitVec.ofNat 64 (0x200 * 2 ^ 34 + len * 2 ^ 18), cmask := 1, share := [5] }) with
    preempt := p }
theorem witness_Preemption : let s := saveAt 16 .running none tenantTeam
    let owing := { saveAt 16 .stopping (some (1, 1)) tenantTeam with reqs := [{ reqOf .cas .waiting with ctx := 1 }] }
    (saveAt 16 .stopping (some (1, 1)) tenantTeam).preempt ≠ none ∧
    (Saveable s 1 ∧ ¬ Saveable s 0 ∧ saveNeeds (s.ctx 1) ≤ saveLen (s.ctx 1).savearea ∧ s.tokenOps = [] ∧ s.teams = [(3, tenantTeam)] ∧
      tenantTeam.ctx = 1 ∧ ∀ gr ∈ tenantTeam.groups, gr.held = none ∧ gr.faults = []) ∧
    (let s := saveAt 1 .running none tenantTeam
     saveLen (s.ctx 1).savearea < saveNeeds (s.ctx 1)) ∧
    (owing.team? 3 = some tenantTeam ∧ (owing.ctx 1).res = .stopping ∧ tenantTeam.saved = false ∧ owing.owes 3 0 (tenantTeam.group 0) = true ∧
      owing.releasing 3 0 (tenantTeam.group 0) = false ∧ (tenantTeam.group 0).held = none ∧
      owing.time.toNat < (owing.ctx 1).saveAt.toNat + 10000 ∧
      (owing.ctx 1).saveAt.toNat + 10000 ≤ ({ owing with time := 10000 } : State).time.toNat) ∧
    (let s := saveAt 16 .writing (some (1, 1)) tenantTeam
     s.preempt = some (1, 1) ∧ (s.ctx 1).res = .writing ∧ (s.ctx 1).share = [5]) ∧
    (let s := saveAt 16 .saved none { tenantTeam with saved := true }
     (s.ctx 1).res = .saved ∧ (s.ctx 1).image.slog = [] ∧ s.toRetry 1 = [] ∧ s.flows = [] ∧ s.colls = [] ∧ s.answers = [] ∧ (∃ p ∈ s.teams, p.2.ctx = 1 ∧ p.2.saved = true)) ∧
    (∀ p ∈ (saveAt 16 .saved none tenantTeam).teams, p.2.ctx = 1 → p.2.saved = false) ∧
    (let c := { copyCmd (shape 0 0x100 5) true with ctx := 1, saved := true }
     let s := { saveAt 16 .saved none tenantTeam with copies := [(6, c)] }
     s.copies = [(6, c)] ∧ c.ctx = 1 ∧ s.preempt = none ∧ (s.ctx 1).image.slog = [] ∧ s.toRetry 1 = []) :=
  ⟨by decide, ⟨by unfold Saveable; decide, by unfold Saveable; decide, by decide +kernel, rfl, rfl, rfl, by decide⟩, by decide +kernel, by decide,
    by decide, ⟨rfl, rfl, rfl, rfl, rfl, rfl, _, .head _, rfl, rfl⟩, by decide, by decide⟩

/-- Firmware in recovery. -/
def recovering : State := { State.reset with fw := { State.reset.fw with st := 3 } }
/-- Flash with 8 bytes programmed from the staging area, the first of them as given. -/
def programming (st : Nat) (b : Byte) : State :=
  { State.reset with fw := { State.reset.fw with st := st, prog := some 8, flash := if b = 0 then [] else [(0, b)] } }
/-- The bytes of an image: a modulus of two primes, and a signature with salt 0 to 63 made by its private exponent. -/
def imageModulus : Nat := 0xebcbd0f9b177cfe39357e3d5d50f1210867b53cd02236946e82d3c734a68fc86d6fe72e17ebc40720bd2981fa38e7990f50387fc1465def87f9042ab63a81c35b4450977c5fb232557c77656904907a87592caa890965775abef3fcc664ec40941925b736a3a4ead0608300108f8a76c65a4d88b76fdc031d2c148a68e0e1629d4b671e005daba557930651fa0f21f28296e405eaf5a97742b9aae6fc4d3bcd033d2d9964483040f97c1a2fc4987b1f057e811b81ca31488003779b4cd66705db9d57fb71fc9e8f35583cd0af29f1acf07c16145ba39687754ceb31519095a6aa5163ec1b0a16644645a7e8e157764be455f92131e2cc81fb2b6fbb3991d8c3be26f8a44e8825c588484d9ca74205b45b576eee167e0780d9291cb2db36d8550cc6e6374ae79e23511eda5ea50d077547a605177afdb5d9d6a8946c4a0c03592805247e87e7265093804cec262755693115ffedbaa7ac18e5166f0025d5b58ec31fa8e49f96a475bc7e2c971bf454e41c40a9e89cf7f3b4ad037f4a4970e744cc09d3daa1545d38d509101826cc35ba8b6d8ca43a8517fd53b6321a0bd2f45f013c6418260a56c34ad3953e20fadaaa1993b6d1aef07a10e269966a2e6061c2ca81e6e0d6ae7837e350a8fc05aae20cf98d7a63af287977349893dc8ea02b4da4eb0f38aa2441337a6af89ebc8aee3b889e4931548e8e78948a5102cec6a760f
def imageSignature : Nat := 0x7dfc6771308e37d438ff6421eb0c77a10fcfc2965b164450c7fe4be02b884bac6d42d2e93dde0fd8deb05fd77dbd633a6cd0dcbcbd01384dcd1cf84a9f49fa3da096113621445a2911981057e3e13df0bc0e8294071ba9dd7eb10943bbeda3fccaca340a135d963acc791a5a649b04a43cb4b591b7d2c498fb62395da2ebe7789e61f17808c4cd4b09578cd5553ac855afe0d5940f088470388afa16bb1b93f94fc4cdce23e81c067f965e6ccca1cf1018eefa837edb791286adaea19f75bb0aab023959c27b56e9941f8040fb00c6356c8727e7464e7664e4b95a33ec1252f6b7d7fa1083d517d4cc92886c71e6336c2e4e8c036783053e3512a6048c403c1fdd1078194a31af931cf9d369d192a7b93738505fab2828e788e1f3379bb5b31c672edb4a712699dc535dd34509b5d2f20d62088ae884a263b76f07994a73dcb19e40acb2f8417d846779a0f0738285b1bcfcc4920e4680a0cc692cdf8271ddcf7eeff2fd5aa34ea08c5e31518d625ecf2152b488b8e0ab0c1a7b96e2bd7fa368da1683021868ac00059a5b06c7b907de2508db448a78523159f07ad18644919007503489cdc37ca9919f90bb505c4f417c9c6fbb6d50046a1ced10df0fe73ee444a1ca2ba74f0a191136e7a65960f24a75d5e76ebb3bfcc80e571e32f7b1846f0cfc332758372ff0dadab2b4e1f8814b20b8fb7d177817ccb9296b4920f946e0
def imageBytes : List Byte :=
  leBytes imageMagic 8 ++ leBytes 1 8 ++ leBytes 4 16 ++ beBytes imageModulus 512 ++ leBytes 65537 4 ++ List.replicate 3036 0 ++
    beBytes imageSignature 512 ++ leBytes 0x13 4
/-- The cells of bytes from an address. -/
def cellsFrom (k : Nat) : List Byte → List Host.Cell
  | [] => []
  | b :: r => if b = 0 then cellsFrom (k + 1) r else (k, b) :: cellsFrom (k + 1) r
def imageCells : List Host.Cell := cellsFrom 0 imageBytes

theorem cellsFrom_byte (bs : List Byte) (k a : Nat) : Memory.byte (cellsFrom k bs) a = if k ≤ a then bs.getD (a - k) 0 else 0 := by
  unfold Memory.byte
  induction bs generalizing k with
  | nil => simp [cellsFrom, Sparse.get]
  | cons b r ih =>
    have e : a - k = 0 ∨ a - k = (a - (k + 1)) + 1 := by omega
    simp only [cellsFrom]
    split
    · rename_i h
      rw [ih]
      rcases Nat.lt_trichotomy a k with x | x | x
      · rw [if_neg (by omega), if_neg (by omega)]
      · subst x; simp [h]
      · rw [if_pos (by omega), if_pos (by omega), show a - k = (a - (k + 1)) + 1 by omega]; simp
    · simp only [Sparse.get]
      split
      · rename_i h; subst h; simp
      · rw [ih]
        rcases Nat.lt_trichotomy a k with x | x | x
        · rw [if_neg (by omega), if_neg (by omega)]
        · omega
        · rw [if_pos (by omega), if_pos (by omega), show a - k = (a - (k + 1)) + 1 by omega]; simp

theorem imageStore (a n : Nat) : storeBytes imageCells a n = (List.range n).map (fun i => imageBytes.getD (a + i) 0) := by
  simp [storeBytes, imageCells, cellsFrom_byte]

theorem imageRange (bs : List Byte) (a n : Nat) (h : a + n ≤ bs.length) :
    (List.range n).map (fun i => bs.getD (a + i) 0) = (bs.drop a).take n := by
  apply List.ext_getElem
  · simp; omega
  · intro i h1 h2
    simp at h1 h2 ⊢
    rw [List.getElem?_eq_getElem (by omega)]; rfl

theorem imageStore' (a n : Nat) (h : a + n ≤ 4100) : storeBytes imageCells a n = (imageBytes.drop a).take n := by
  rw [imageStore, imageRange _ _ _ (by rw [show imageBytes.length = 4100 by decide +kernel]; exact h)]

theorem imageHash : sha512 (imageBytes.take 3584 ++ (imageBytes.drop 4096).take 4) = BitVec.ofNat 512 0xa1724f49a933f8f6904c0062d6af3baae5e218bd594ac3c6795d5d319e118d23efb8f48e31ea535d9b4978d69dc5983d41158e2cc984f24f7a72d7644853700f := by decide +kernel
theorem imageOpened : beBytes (rsaOpen imageModulus imageSignature) 512 = beBytes 0x729233e9ceaba802640d0179bb740cabaf98c7d8c0e9c57c13cefc6581a9165af66207a653c61d258216e66137e6ee85da57ab696bd6930b7d3a5c8ba9ca2a96314d51b78dc9fc0e53893cd709895b440d139caaf5c690be321391b79b23b161cdb567bb8b30bd1f4aa5cef5e3883d599b60a67d0f3ae04677148bc78c95caa17f87a22b664ad6199cb472c520338f7b25f28a0d0264f463eb284d9702215885192e4363de35de7e4cfcd6977f86d674f516907927114237bfee6affc9dc089d1b28c8656d0e3cf7c7ab96f2ae3fc553f0462fbb562fa4390947eec501ae4ee2471afe9361f35da5d8b5dac467a9c6a4f2ca59e3adc14212b21cbb15de692b978e5320b2ed62f4698742b53a3037cc834385423bf69efbc4c9f937f1646cf62134204944f89a6e0a5d2b02c271fba55c63af32f7f721192dea4e9cf53bd4596797f27270cd27fd77cd7d6228187a47e35137d1df4260f0b6473022d0d584067fcb117dc829e0d736c65e7997acdc1c8aa7ec4db244d24b8f5289d610b2ef866e7504191ffc8ba3b9e164a3e8eb2b5214522e1ed70a3f6a009bd3c55a18bac794c3076bd56cde8b6b7128f5360277431c20c0409c0d7229829dfac4b04c9592b7d0178263e3c64bb07d6b5adeb227e6869264902bb4510b82221c9fa125ba6444b10549e5895d8160abb4f1a1d9ffe211c5e50a54d4daa1cc61428c5f7bdebabc 512 := by decide +kernel
theorem imageMask : mgf1 (beBytes 0xb7d0178263e3c64bb07d6b5adeb227e6869264902bb4510b82221c9fa125ba6444b10549e5895d8160abb4f1a1d9ffe211c5e50a54d4daa1cc61428c5f7bdeba 64) 447 = beBytes 0x729233e9ceaba802640d0179bb740cabaf98c7d8c0e9c57c13cefc6581a9165af66207a653c61d258216e66137e6ee85da57ab696bd6930b7d3a5c8ba9ca2a96314d51b78dc9fc0e53893cd709895b440d139caaf5c690be321391b79b23b161cdb567bb8b30bd1f4aa5cef5e3883d599b60a67d0f3ae04677148bc78c95caa17f87a22b664ad6199cb472c520338f7b25f28a0d0264f463eb284d9702215885192e4363de35de7e4cfcd6977f86d674f516907927114237bfee6affc9dc089d1b28c8656d0e3cf7c7ab96f2ae3fc553f0462fbb562fa4390947eec501ae4ee2471afe9361f35da5d8b5dac467a9c6a4f2ca59e3adc14212b21cbb15de692b978e5320b2ed62f4698742b53a3037cc834385423bf69efbc4c9f937f1646cf62134204944f89a6e0a5d2b02c271fba55c63af32f7f721192dea4e9cf53bd4596797f27270cd27fd77cd7d6228187a47e35137d1df4260f0b6473022d0d584067fcb117dc829e0d736c65e7997acdc1c8aa7ec4db244d24b8f5289d610b2ef876e74061a1bf98da4b1e86ea8e4e6255d04433c0dc31f297d1882c9de4605a4d8b4e22548f149f8ac435802de1a2f596c2c11f273a838441ebaa4c0ff8c71abad 447 := by decide +kernel
theorem imageSalted : shaBytes (List.replicate 8 0 ++ leBytes 0xa1724f49a933f8f6904c0062d6af3baae5e218bd594ac3c6795d5d319e118d23efb8f48e31ea535d9b4978d69dc5983d41158e2cc984f24f7a72d7644853700f 64 ++ (List.range 64).map (BitVec.ofNat 8)) = beBytes 0xb7d0178263e3c64bb07d6b5adeb227e6869264902bb4510b82221c9fa125ba6444b10549e5895d8160abb4f1a1d9ffe211c5e50a54d4daa1cc61428c5f7bdeba 64 := by
  decide +kernel
theorem imageVerifies : pssVerify (BitVec.ofNat 512 0xa1724f49a933f8f6904c0062d6af3baae5e218bd594ac3c6795d5d319e118d23efb8f48e31ea535d9b4978d69dc5983d41158e2cc984f24f7a72d7644853700f) (beBytes imageModulus 512) (beBytes imageSignature 512) = true := by
  have e1 : beNat (beBytes imageModulus 512) = imageModulus := by decide +kernel
  have e2 : beNat (beBytes imageSignature 512) = imageSignature := by decide +kernel
  have e3 : ((beBytes 0x729233e9ceaba802640d0179bb740cabaf98c7d8c0e9c57c13cefc6581a9165af66207a653c61d258216e66137e6ee85da57ab696bd6930b7d3a5c8ba9ca2a96314d51b78dc9fc0e53893cd709895b440d139caaf5c690be321391b79b23b161cdb567bb8b30bd1f4aa5cef5e3883d599b60a67d0f3ae04677148bc78c95caa17f87a22b664ad6199cb472c520338f7b25f28a0d0264f463eb284d9702215885192e4363de35de7e4cfcd6977f86d674f516907927114237bfee6affc9dc089d1b28c8656d0e3cf7c7ab96f2ae3fc553f0462fbb562fa4390947eec501ae4ee2471afe9361f35da5d8b5dac467a9c6a4f2ca59e3adc14212b21cbb15de692b978e5320b2ed62f4698742b53a3037cc834385423bf69efbc4c9f937f1646cf62134204944f89a6e0a5d2b02c271fba55c63af32f7f721192dea4e9cf53bd4596797f27270cd27fd77cd7d6228187a47e35137d1df4260f0b6473022d0d584067fcb117dc829e0d736c65e7997acdc1c8aa7ec4db244d24b8f5289d610b2ef866e7504191ffc8ba3b9e164a3e8eb2b5214522e1ed70a3f6a009bd3c55a18bac794c3076bd56cde8b6b7128f5360277431c20c0409c0d7229829dfac4b04c9592b7d0178263e3c64bb07d6b5adeb227e6869264902bb4510b82221c9fa125ba6444b10549e5895d8160abb4f1a1d9ffe211c5e50a54d4daa1cc61428c5f7bdebabc 512).drop 447).take 64 = beBytes 0xb7d0178263e3c64bb07d6b5adeb227e6869264902bb4510b82221c9fa125ba6444b10549e5895d8160abb4f1a1d9ffe211c5e50a54d4daa1cc61428c5f7bdeba 64 := by decide +kernel
  have e4 : 2 ^ 4095 ≤ imageModulus ∧ imageSignature < imageModulus := by decide +kernel
  have e5 : ((((beBytes 0x729233e9ceaba802640d0179bb740cabaf98c7d8c0e9c57c13cefc6581a9165af66207a653c61d258216e66137e6ee85da57ab696bd6930b7d3a5c8ba9ca2a96314d51b78dc9fc0e53893cd709895b440d139caaf5c690be321391b79b23b161cdb567bb8b30bd1f4aa5cef5e3883d599b60a67d0f3ae04677148bc78c95caa17f87a22b664ad6199cb472c520338f7b25f28a0d0264f463eb284d9702215885192e4363de35de7e4cfcd6977f86d674f516907927114237bfee6affc9dc089d1b28c8656d0e3cf7c7ab96f2ae3fc553f0462fbb562fa4390947eec501ae4ee2471afe9361f35da5d8b5dac467a9c6a4f2ca59e3adc14212b21cbb15de692b978e5320b2ed62f4698742b53a3037cc834385423bf69efbc4c9f937f1646cf62134204944f89a6e0a5d2b02c271fba55c63af32f7f721192dea4e9cf53bd4596797f27270cd27fd77cd7d6228187a47e35137d1df4260f0b6473022d0d584067fcb117dc829e0d736c65e7997acdc1c8aa7ec4db244d24b8f5289d610b2ef866e7504191ffc8ba3b9e164a3e8eb2b5214522e1ed70a3f6a009bd3c55a18bac794c3076bd56cde8b6b7128f5360277431c20c0409c0d7229829dfac4b04c9592b7d0178263e3c64bb07d6b5adeb227e6869264902bb4510b82221c9fa125ba6444b10549e5895d8160abb4f1a1d9ffe211c5e50a54d4daa1cc61428c5f7bdebabc 512).take 447).zip (beBytes 0x729233e9ceaba802640d0179bb740cabaf98c7d8c0e9c57c13cefc6581a9165af66207a653c61d258216e66137e6ee85da57ab696bd6930b7d3a5c8ba9ca2a96314d51b78dc9fc0e53893cd709895b440d139caaf5c690be321391b79b23b161cdb567bb8b30bd1f4aa5cef5e3883d599b60a67d0f3ae04677148bc78c95caa17f87a22b664ad6199cb472c520338f7b25f28a0d0264f463eb284d9702215885192e4363de35de7e4cfcd6977f86d674f516907927114237bfee6affc9dc089d1b28c8656d0e3cf7c7ab96f2ae3fc553f0462fbb562fa4390947eec501ae4ee2471afe9361f35da5d8b5dac467a9c6a4f2ca59e3adc14212b21cbb15de692b978e5320b2ed62f4698742b53a3037cc834385423bf69efbc4c9f937f1646cf62134204944f89a6e0a5d2b02c271fba55c63af32f7f721192dea4e9cf53bd4596797f27270cd27fd77cd7d6228187a47e35137d1df4260f0b6473022d0d584067fcb117dc829e0d736c65e7997acdc1c8aa7ec4db244d24b8f5289d610b2ef876e74061a1bf98da4b1e86ea8e4e6255d04433c0dc31f297d1882c9de4605a4d8b4e22548f149f8ac435802de1a2f596c2c11f273a838441ebaa4c0ff8c71abad 447)).mapIdx
      (fun i x => if i = 0 then (x.1 ^^^ x.2) &&& 0x7F#8 else x.1 ^^^ x.2)) =
      List.replicate 382 0 ++ [1] ++ (List.range 64).map (BitVec.ofNat 8) := by decide +kernel
  have e6 : (List.replicate 382 (0 : Byte) ++ [1] ++ (List.range 64).map (BitVec.ofNat 8)).drop 383 = (List.range 64).map (BitVec.ofNat 8) := by
    decide +kernel
  have e7 : (BitVec.ofNat 512 0xa1724f49a933f8f6904c0062d6af3baae5e218bd594ac3c6795d5d319e118d23efb8f48e31ea535d9b4978d69dc5983d41158e2cc984f24f7a72d7644853700f).toNat = 0xa1724f49a933f8f6904c0062d6af3baae5e218bd594ac3c6795d5d319e118d23efb8f48e31ea535d9b4978d69dc5983d41158e2cc984f24f7a72d7644853700f := by decide +kernel
  unfold pssVerify pssDecode
  dsimp only
  rw [e1, e2, imageOpened, e3, imageMask, e5, e6, e7, imageSalted]
  decide +kernel

/-- An image that passes every check of R400, where the digest in the ROM is its key's. -/
theorem witness_imageAccepted (h1 : sha512 (beBytes imageModulus 512 ++ leBytes 65537 4) = Config.romDigest) :
    imageError imageCells 0 (2 ^ 29) 0 = 0 := by
  have e : (imageHeader imageCells 0).magic = imageMagic ∧ (imageHeader imageCells 0).format = 1 ∧ (imageHeader imageCells 0).svn = 0 ∧
      (imageHeader imageCells 0).len = 4 ∧ (imageHeader imageCells 0).load = 0 := by decide +kernel
  have em : (imageHeader imageCells 0).modulus = beBytes imageModulus 512 := by
    simp only [imageHeader]; rw [imageStore' _ _ (by omega)]; decide +kernel
  have ee : (imageHeader imageCells 0).exponent = leBytes 65537 4 := by
    simp only [imageHeader]; rw [imageStore' _ _ (by omega)]; decide +kernel
  have es : (imageHeader imageCells 0).signature = beBytes imageSignature 512 := by
    simp only [imageHeader]; rw [imageStore' _ _ (by omega)]; decide +kernel
  have er : (imageHeader imageCells 0).reserved = false := by
    simp only [imageHeader]; rw [imageStore' _ _ (by omega)]; decide +kernel
  have ed : imageDigest imageCells 0 4 = sha512 (imageBytes.take 3584 ++ (imageBytes.drop 4096).take 4) := by
    unfold imageDigest; rw [imageStore' _ _ (by omega), imageStore' _ _ (by omega)]; rfl
  unfold imageError
  simp [e, em, ee, es, er, ed, h1, imageHash, imageVerifies]


theorem witness_TenantsHostFirmware : let s := (tenantAt tenantTeam).updCtx 1 fun c => { c with ranges := [(0, 0x87 + 512 * 2 ^ 64)] }
    ((State.reset.ctx 1).created = false ∧ (s.ctx 1).created = true ∧ 0x30000 % 4096 = 0 ∧ s.colls = [] ∧ s.flows = [] ∧ s.fw.st ≠ 3 ∧
      s.hostQ = [] ∧ s.outst = [] ∧ s.waitQ = []) ∧
    ((s.updCtx 1 fun c => { c with resetting := true }).ctx 1).resetting = true ∧
    (windowAccess 1 0x20000 8 = true ∧ rangeHit (s.ctx 1).ranges 0 ((s.ctx 1).winbase.toNat + 0x20000) = some (0, 0x87 + 512 * 2 ^ 64) ∧
      rHit (0x87 + 512 * 2 ^ 64) 0 ((s.ctx 1).winbase.toNat + 0x20000 + 8 - 1) = true ∧ rTap (0x87 + 512 * 2 ^ 64) = 0 ∧
      rRd (0x87 + 512 * 2 ^ 64) = true ∧ rWr (0x87 + 512 * 2 ^ 64) = true ∧ rWr (0x83 + 512 * 2 ^ 64) = false ∧
      rRd (0x85 + 512 * 2 ^ 64) = false ∧
      rangeHit (s.ctx 1).ranges 0 ((s.ctx 1).winbase.toNat + 0x40000000) = none ∧ windowAccess 1 0x40000000 8 = true) ∧
    AtRest s (rTarget (0x87 + 512 * 2 ^ 64) ((s.ctx 1).winbase.toNat + 0x20000)) ∧
    (∃ t : State, t.fw.thermtrip = true) ∧ State.reset.fw.thermtrip = false ∧ imageError [] 0 (2 ^ 29) 0 ≠ 0 ∧
    -- flash that is being programmed, whole or not, in service and in recovery
    (∀ st ∈ [2, 3], ∀ b ∈ [0, 1], let s := programming st b
      s.fw.prog = some 8 ∧ s.fw.st = st ∧
        ((∀ k, k < 8 → Memory.byte s.fw.flash k = Memory.byte s.mem (Config.carveOut + k)) ↔ b = (0 : Byte))) ∧
    recovering.fw.prog = none ∧ (({ type := 2, sensor := 0x1000 + 291 } : Pldm).type = 2 ∧ ({ type := 5 } : Pldm).image = []) ∧
    recovering.fw.st = 3 ∧ imageError recovering.mem Config.carveOut (2 ^ 29) recovering.fw.fuses ≠ 0 ∧
    (wearOk 0x01000005 = false ∧ wearOk 0x0059000001000004 = true ∧ bits (0x0059000001000004 : BitVec 128) 63 48 < 90 ∧
      ({ State.reset with time := 86400000000000 } : State).time.toNat = State.reset.fw.wearAt.toNat + 86400000000000) :=
  ⟨by decide, by decide, by decide +kernel, ⟨by decide +kernel, rfl, rfl, rfl⟩, ⟨{ State.reset with fw := { thermtrip := true } }, rfl⟩, rfl, by decide +kernel,
    by decide +kernel, rfl, ⟨rfl, rfl⟩, rfl, by decide +kernel, by decide +kernel⟩

/-! ### Worked examples of the spec -/

/-- A vector register of a lane of team 3 after an instruction, its pending results written. -/
def vAfter (o : Out) (l r : Nat) : Option Word :=
  match o with
  | .next t => (t.team? 3).map fun tm =>
    (((tm.group 0).pend.flatMap (·.writes)).find? fun (w : RegRef × Word) => w.1 = .v l r).elim ((tm.snap 0).vec l r) (·.2)
  | _ => none
/-- Team 3 with the same registers in every lane, its word at issue. -/
def withRegs (w : Nat) (gr : Group) (mask : BitVec 64) (f : Nat → List (Nat × Word)) : State :=
  let tm := { teamOf gr 0 0 with t := w, w := w, threads := (List.range w).map fun l => { lane l with regs := { v := f l, p := 1 } } }
  { at_ tm with issue := some { issueOf tm with mask := mask } }

/-- Packet 0 of the machine about to fetch `iadd v5, v2, 4`: a step writes v5 of all 64 lanes and passes to the next word (R243, R46). -/
theorem test_step_runs_the_fetched_word : (match step fetching with
    | .next t => ((t.team? State.reset.nextId).map fun tm => decide (tm.readReg 0 (.v 0 5) = 4 ∧ tm.readReg 0 (.v 63 5) = 4 ∧ (tm.thread 63).pc = 4)).getD false
    | _ => false) = true := by decide +kernel

/-- 13, the scaled dot product of lane 0 (R259). -/
theorem test_dot8_scaled : vAfter (execDot8L { lr0 with t1 := 11, t2 := 11, d := 12, a := 2, b := 3, c := 9, x := true }
    (withRegs 8 scalars 0xFF fun _ => [(2, 0x7EB04038), (3, 0x00482844), (8, 0x7E00), (9, 0x8200), (12, 0x3F800000)])) 0 12 = some 0x40E00000 := by
  decide +kernel

/-- 13, the butterfly with a missing lane: lanes 4 and 5, and the sum over those that contribute (R264, R267). -/
theorem test_xbfly_missing_lane : let s := withRegs 8 scalars 0xDF fun l => [(4, BitVec.ofNat 32 (l + 1))]
    (List.range 8).map (vAfter (execXbflySi 0 5 4 1 s) · 5) = [2, 1, 4, 3, 5, 0, 8, 7].map some ∧
    (List.range 8).map (vAfter (execLredSr 0 7 4 s) · 7) = [30, 30, 30, 30, 30, 0, 30, 30].map some := by decide +kernel

/-- 14, the add across two segments: no carry passes from one to the other, and only the second overflows (R270, R276). -/
theorem test_ladd_two_segments : let s := withRegs 16 { scalars with lcount := 8 } 0xFFFF fun l =>
      [(2, if l < 8 then 0xFFFFFFFF else if l = 15 then 0x80000000 else 0), (4, if l = 0 then 1 else if l = 15 then 0x80000000 else 0)]
    let o := execLaddL { lr0 with t1 := 6, rm := 6, c := 5, d := 10, a := 2, b := 4 } s
    (List.range 16).all (fun l => vAfter o l 10 == some 0) ∧ (match o with
      | .next t => ((t.team? 3).map fun tm => (List.range 16).map fun l => ((tm.thread l).regs.p.getLsbD 5, (tm.thread l).regs.p.getLsbD 6))
      | _ => none) = some (List.replicate 8 (true, false) ++ List.replicate 8 (true, true)) := by decide +kernel

/-- 12, stochastic rounding to BF16: r just below and at the fraction (R230). -/
theorem test_stochastic_rounding : (bf16.round (.rs 0x3FFFFFFF) false (fp32.decode 0x3F804000)).code = 0x3F81 ∧
    (bf16.round (.rs 0x40000000) false (fp32.decode 0x3F804000)).code = 0x3F80 ∧
    (bf16.round .rn false (fp32.decode 0x3F804000)).code = 0x3F80 := by decide

/-- 12, one chunk: 2^16, 2^-18 and -2^16 sum exactly (R236). -/
theorem test_chunk_sums_exactly : (mmaChunk 0 ([(0x78, 0x78), (0x01, 0x01), (0x78, 0xF8)].map fun p =>
    (e4m3.decode p.1).mul (e4m3.decode p.2))).1 = 0x36800000 := by decide

/-- 7, Tables 7.7 and 7.8: either order of two adds ends at 4.1875 in step 2, and a reader of the older step sees it undecayed (R135, R136). -/
theorem test_decay_merge : let p := fun (t : Word) => ({ de64 := true, step := t, beta := 0x3F400000, alpha := 0x3E800000, thr := 0x35800000 } : DecaySnap)
    (decayOp .dadd (p 0x102) 0xFF40800000 0x3F800000).1 = some 0x2402C0000 ∧ (decayOp .dadd (p 0x101) 0x2402C0000 0x40000000).1 = some 0x240860000 ∧
    (decayOp .dadd (p 0x101) 0xFF40800000 0x40000000).1 = some 0x140880000 ∧ (decayOp .dadd (p 0x102) 0x140880000 0x3F800000).1 = some 0x240860000 ∧
    (decayOp .dld (p 0x101) 0x240860000 0).2.1 % 2 ^ 32 = 0x40860000 := by decide

/-- 13: 1.0, -2.0, 0.3 and 0 packed as E4M3 (R260). -/
theorem test_qpack_e4m3 : vAfter (execQpackL { lr0 with t1 := 11, d := 8, a := 16 }
    (withRegs 8 scalars 0xFF fun _ => [(16, 0x3F800000), (17, 0xC0000000), (18, 0x3E99999A)])) 0 8 = some 0x002AC038 := by decide +kernel

/-- 9, the two routes from module 0x23 to module 0x57 (R167): port 6 by way of 0x27, port 19 by way of 0x53. -/
theorem test_routes : ({ State.reset with modId := 0x23, podRows := 16, podCols := 16, ports := List.replicate 30 { st := 2 } } : State).routes 0x57
    = [(6, some 0x27), (19, some 0x53)] := by decide +kernel

/-- 4, the worked fault: guest 0x80000140 of aperture 0x124 lies at 0x104000000140 of module 0x24, and the entry permits no remote atomic. -/
theorem test_range_entry : let e : BitVec 128 := 0x09200010400002000000000080024807
    rHit e 0x124 0x80000140 = true ∧ rTarget e 0x80000140 = 0x1040000140 ∧ rTap e = 0x124 ∧ rRd e = true ∧ rWr e = true ∧ e.getLsbD 3 = false := by
  decide +kernel

/-- A long form with both of its words. -/
theorem witness_DecodeOfEncodeIsIdentity : WellFormed (.iaddL (.lr { lr0 with t1 := 2, d := 70, a := 2, b := 3 })) ∧
    Instr.isWord (.iaddL (.lr { lr0 with t1 := 2, d := 70, a := 2, b := 3 })) = true ∧ 3 < 4 := by decide

end Sys2Proof.Tests
end

section
/-!
PROOFS. A local load (R94, R100, R107, R111): which addresses lie in the reservation, what the load puts in flight, and what the rest of its
issue leaves alone.
-/

namespace Sys2Proof.Machine

open Sys2Proof.Claims

/-! ### Local addresses (R100, R202) -/

theorem bits_localOffset (a : DWord) : bits a 22 0 = a.toNat % 2 ^ 23 := by simp [bits]

theorem bits_aboveLocal_eq_zero (a : DWord) : bits a 63 24 = 0 ↔ a.toNat < 2 ^ 24 := by
  have := a.isLt
  simp only [bits]
  omega

theorem not_localOk (tm : Team) (w : Nat) (a : DWord) : (!localOk tm w a) =
    (decide (2 ^ 24 ≤ a.toNat) || decide (tm.lmem < a.toNat % 2 ^ 23 + w) || (a.getLsbD 23 && !tm.tandem)) := by
  have above : (bits a 63 24 == 0) = decide (a.toNat < 2 ^ 24) := by
    rw [Bool.eq_iff_iff, beq_iff_eq, bits_aboveLocal_eq_zero, decide_eq_true_iff]
  simp only [localOk, above, bits_localOffset, bit, Bool.not_and, Bool.not_or, Bool.not_not, ← decide_not, Nat.not_lt, Nat.not_le]

theorem onSecond_eq (tm : Team) (g : Nat) (a : DWord) :
    onSecond tm g a = if tm.coreOf g = tm.core then a.getLsbD 23 else !a.getLsbD 23 := by
  by_cases h : tm.coreOf g = tm.core
  · simp [onSecond, bit, h]
  · rw [onSecond, bne_iff_ne.2 h, if_neg h, Bool.true_xor, bit]

/-! ### Emptying L1 (R357) -/

namespace State

theorem flushL1_rest (s : State) (c : Nat) :
    s.flushL1 c = { s with cores := (s.flushL1 c).cores, reqs := (s.flushL1 c).reqs } := rfl

/-- Emptying an L1 keeps the requests in flight, but for whether their fill is kept. -/
theorem map_reqs_flushL1 {α : Type} (f : Req → α) (hf : ∀ r b, f { r with noFill := b } = f r) (s : State) (c : Nat) :
    (s.flushL1 c).reqs.map f = s.reqs.map f := by
  simp only [flushL1, noFill, reqs_updCore, List.map_map]
  refine List.map_congr_left fun r _ => ?_
  simp only [Function.comp_apply]
  split
  · exact hf r true
  · rfl

theorem flushFor_rest (s : State) (team core : Nat) :
    s.flushFor team core = { s with cores := (s.flushFor team core).cores, reqs := (s.flushFor team core).reqs } := by
  unfold flushFor
  generalize s.instOf team core = cs
  induction cs generalizing s with
  | nil => rfl
  | cons c cs ih => rw [List.foldl_cons, ih, flushL1_rest]

theorem map_reqs_flushFor {α : Type} (f : Req → α) (hf : ∀ r b, f { r with noFill := b } = f r) (s : State) (team core : Nat) :
    (s.flushFor team core).reqs.map f = s.reqs.map f := by
  unfold flushFor
  generalize s.instOf team core = cs
  induction cs generalizing s with
  | nil => rfl
  | cons c cs ih => rw [List.foldl_cons, ih, map_reqs_flushL1 f hf]

/-! ### The course of an issue around its requests -/

/-- Of team `id` no more than the groups' records differ from `tm`, and its group `g` has `n` loads outstanding: what holds between the
count of a load's instruction and its retirement (R112). -/
def Counted (s : State) (id : Nat) (tm : Team) (g n : Nat) : Prop :=
  ∃ b, s.team? id = some b ∧ b = { tm with groups := b.groups } ∧ (b.group g).loads = n

theorem Counted.congr {s t : State} {id : Nat} {tm : Team} {g n : Nat} (h : s.Counted id tm g n) (e : t.teams = s.teams) :
    t.Counted id tm g n := by
  obtain ⟨b, hb, hr, hn⟩ := h
  exact ⟨b, by rw [State.team?, e]; exact hb, hr, hn⟩

end State

theorem Group.startLoad_fresh {gr : Group} (h : gr.partInstr = none) : gr.startLoad true = { gr with loads := gr.loads + 1 } := by
  simp [Group.startLoad, h]

/-- An instruction of R112 that was not partly performed before notes its destinations and, unless it has no lane, counts once. -/
theorem State.destine_startLoad {s : State} {is : Issue} {tm : Team} (h : Running s is tm) (hp : (tm.group is.grp).partInstr = none)
    (rs : List RegRef) (n : Nat) (idle : Bool) :
    let s1 : State := { s.destine is true rs with nextInstr := n }
    let t := if idle then s1 else s1.updGroup is.team is.grp (fun gr => gr.startLoad true)
    t = { s with teams := t.teams, nextInstr := n } ∧
      t.Counted is.team tm is.grp ((tm.group is.grp).loads + if idle then 0 else 1) := by
  intro s1 t
  obtain ⟨a, rest, team, -, noted⟩ := State.destine_spec h true rs
  have rest1 : s1 = { s with teams := s1.teams, nextInstr := n } := by simp only [s1]; rw [rest]
  have loads : (a.group is.grp).loads = (tm.group is.grp).loads := by rw [noted.own]
  have fresh : (a.group is.grp).partInstr = none := by rw [noted.own]; exact hp
  cases idle with
  | true => exact ⟨rest1, a, team, noted.rest, loads⟩
  | false =>
    let b := a.updGroup is.grp fun gr => gr.startLoad true
    have ht : t = s1.setTeam is.team b := State.updTeam_of s1 team _
    have counted : (b.group is.grp).loads = (tm.group is.grp).loads + 1 := by
      rw [Team.group_updGroup_self a _ _ (by rw [noted.length]; exact h.group), Group.startLoad_fresh fresh, ← loads]
    refine ⟨?_, b, by rw [ht]; exact State.team?_setTeam_self .., ?_, counted⟩
    · rw [ht, State.setTeam, rest1]
    · rw [show b = { a with groups := b.groups } from rfl, noted.rest]

/-- Retiring a word leaves its group's load counter, the requests in flight and main memory alone. -/
theorem State.retire_counted {s : State} {is : Issue} {tm : Team} {n : Nat} (closes : Bool)
    (lanes : ∀ l, is.mask.getLsbD l = true → l < tm.w ∧ tm.tid is.grp l < tm.threads.length)
    (h : s.Counted is.team tm is.grp n) :
    (s.retire is closes).mem = s.mem ∧ (s.retire is closes).reqs = s.reqs ∧
      ∃ tm', (s.retire is closes).team? is.team = some tm' ∧ (tm'.group is.grp).loads = n := by
  obtain ⟨b, hb, hr, hn⟩ := h
  obtain ⟨t, tm', e, rest, -, team, quiet, -⟩ := State.retireTo_spec s is b closes (fun _ => none) hb
    fun l hl => by rw [hr]; exact lanes l hl
  rw [State.retire, e]
  refine ⟨by rw [rest], by rw [rest], tm', team, ?_⟩
  have own := quiet.own
  rw [Group.SameButRegs] at own
  rw [own, hn]

/-! ### A local load -/

/-- What a local load does where neither an acquire nor a full load counter holds it: one request for each lane's access goes in flight, with
the bytes of the local memory it names unless it waits for full granules, and the group counts the instruction once (R94, R107, R112). -/
theorem localLoad_spec {s : State} {is : Issue} {tm : Team} (h : Running s is tm) (m : MemSpec) (hm : m.counts = true) (wait clear : Bool)
    (ls : List LaneAcc) (dst : LaneAcc → Nat → List LaneDst) (hp : (tm.group is.grp).partInstr = none)
    (hacq : s.acquiring is.team is.grp = false) (hroom : (tm.group is.grp).loads < 32) :
    let t := localLoad is tm (tm.group is.grp) m wait clear ls dst s
    t.mem = s.mem ∧
    t.reqs.map (fun r => (Req.sig r, r.state)) = s.reqs.map (fun r => (Req.sig r, r.state)) ++ ls.map (fun l =>
      (sigOf l { ap := 1, pa := l.va.toNat % 2 ^ 23 } m.w m.op (dst l 0),
        if wait then .waitFull
        else .done (Memory.read (tm.lm (onSecond tm is.grp l.va)).bytes (l.va.toNat % 2 ^ 23) m.w))) ∧
    ∃ tm', t.team? is.team = some tm' ∧ (tm'.group is.grp).loads = (tm.group is.grp).loads + (if ls.isEmpty then 0 else 1) := by
  intro t
  obtain ⟨rest, counted⟩ := State.destine_startLoad h hp (ls.flatMap fun l => (dst l 0).flatMap LaneDst.regs) (s.nextInstr + 1) ls.isEmpty
  have ht : t = localLoad is tm (tm.group is.grp) m wait clear ls dst s := rfl
  simp only [localLoad, hacq, Bool.false_eq_true, if_false, decide_eq_true_eq, Nat.not_le.2 hroom, hm, bits_localOffset] at ht
  generalize (if ls.isEmpty = true then _ else _ : State) = s2 at ht rest counted
  generalize hs3 : (if (m.acq && decide (3 ≤ m.scope) && !wait) = true then _ else _ : State) = s3 at ht
  have flushed : s3.mem = s.mem ∧ s3.teams = s2.teams ∧
      s3.reqs.map (fun r => (Req.sig r, r.state)) = s.reqs.map (fun r => (Req.sig r, r.state)) := by
    subst hs3
    split
    · rw [State.map_reqs_flushFor _ fun _ _ => rfl, State.flushFor_rest, rest]
      exact ⟨rfl, rfl, rfl⟩
    · rw [rest]
      exact ⟨rfl, rfl, rfl⟩
  obtain ⟨hmem, hteams, hreqs⟩ := flushed
  obtain ⟨rmem, rreqs, rteam⟩ := State.retire_counted clear h.lanes (counted.congr (t := { s3 with reqs := s3.reqs ++ _ }) hteams)
  rw [ht]
  refine ⟨rmem.trans hmem, ?_, rteam⟩
  rw [rreqs, List.map_append, hreqs, List.map_map]
  rfl

/-- What an LR form of `ld` asks for beyond its address (Table 6.2). -/
def lrLoad (o : LR) : LoadSpec :=
  { w := 2 ^ (o.t1.toNat % 4), signed := decide (o.t1.toNat < 4), isLocal := o.t2.getLsbD 3, fe := o.t2.toNat % 8, scope := o.rm.toNat }

theorem exec_ldL_lr (o : LR) (s : State) : exec (.ldL (.lr o)) s =
    execLoad o.g.toNat (dstOf o.kd ((lrLoad o).w == 8) o.d.toNat) (eaLR o (lrLoad o).isLocal (lrLoad o).w) (lrLoad o) s := rfl

/-- What all lanes of a plain load have in common (R105, R106, R112). -/
def plainLoad (is : Issue) (g : Nat) (d : Dst) (e : EaSpec) (p : LoadSpec) : MemSpec :=
  { w := p.w, op := .read, scope := p.scope, acq := p.scope != 0, counts := true, guard := is.guarded g,
    one := d.isScalar || e.uniform }

/-- The course of a local load whose registers lie in the reservation and whose addresses are aligned: the first lane with an address outside
traps, else the load is performed (R100, R101). -/
theorem execLoad_local {s : State} {is : Issue} {tm : Team} (h : Running s is tm) (g : Nat) (d : Dst) (e : EaSpec) (p : LoadSpec)
    (hl : p.isLocal = true) (hd : d.inRange tm.nv tm.ns = true) (he : e.inRange tm = true) :
    let accs := accesses is e (fun _ => 0) (loadLanes is tm g d e)
    (∀ l ∈ accs, l.va.toNat % p.w = 0) →
    execLoad g d e p s = .next ((accs.find? fun l => !localOk tm p.w l.va).elim
      (localLoad is tm (tm.group is.grp)
        (plainLoad is g d e p) (p.fe != 0) (p.fe == 2) accs (loadPlaces is g d e p.w p.signed) s)
      fun l => s.trap is (laneTrap 0x03 .load l (is.guarded g))) := by
  intro accs ha
  have aligned : misaligned p.w accs = none := List.find?_eq_none.2 fun l hm => by simp [ha l hm]
  simp only [execLoad, withIssue, h.issue, h.team, hd, he, hl, Bool.and_self, Bool.not_true, Bool.false_eq_true, if_false, if_true]
  split
  · next l hf => exact absurd (hf.symm.trans aligned) nofun
  · split
    · next l hf =>
      have hf : (accs.find? fun l => !localOk tm p.w l.va) = some l := hf
      rw [hf]
      rfl
    · next hf =>
      have hf : (accs.find? fun l => !localOk tm p.w l.va) = none := hf
      rw [hf]
      rfl

/-- Settles O22: by `execLoad_local` a lane outside the reservation traps; with none, `localLoad_spec` gives the requests. -/
theorem localLoadsReadAtIssue : Obligations.LocalLoadsReadAtIssue := by
  unfold Obligations.LocalLoadsReadAtIssue
  intro s is tm h o hl hp w d e accs outside partner hd he ha
  have run : exec (.ldL (.lr o)) s = execLoad o.g.toNat d (eaLR o (o.t2.getLsbD 3) w) (lrLoad o) s := exec_ldL_lr o s
  have notOk : (fun l : LaneAcc => !localOk tm w l.va) = fun l => outside l.va := funext fun l => not_localOk tm w l.va
  rw [hl, execLoad_local h o.g.toNat d e (lrLoad o) hl hd he ha, show (lrLoad o).w = w from rfl, notOk] at run
  refine ⟨fun l first => ⟨AKind.load.code, ?_⟩, fun inside hacq hroom => ?_⟩
  · rw [first] at run
    exact run
  · rw [List.find?_eq_none.2 fun l hm => by simp [inside l hm]] at run
    obtain ⟨mem, reqs, team⟩ := localLoad_spec h (plainLoad is o.g.toNat d e (lrLoad o)) rfl ((lrLoad o).fe != 0) ((lrLoad o).fe == 2) accs
      (loadPlaces is o.g.toNat d e w (lrLoad o).signed) hp hacq hroom
    refine ⟨_, run, mem, reqs.trans (congrArg _ (List.map_congr_left fun l _ => Prod.ext rfl ?_)), team⟩
    rw [onSecond_eq]
    by_cases unqualified : o.t2.toNat % 8 = 0
    · rw [if_neg (by simp [lrLoad, unqualified]), if_pos unqualified]
      rfl
    · rw [if_pos (by simp [lrLoad, unqualified]), if_neg unqualified]

end Sys2Proof.Machine
end

section
/-!
PROOFS. `vote`, ballot and `elect` (R263, R265, R266): results put in flight for registers that need not exist, the lowest lane of a set,
and what the decoder reads from an `elect` word.
-/

namespace Sys2Proof.Machine

open Sys2Proof.Claims

/-! ### Results put in flight (R45, R46) -/

theorem setAt_setAt {α : Type} (l : List α) (i : Nat) (a b : α) : setAt (setAt l i a) i b = setAt l i b := by
  induction l generalizing i with
  | nil => rfl
  | cons x r ih =>
    cases i with
    | zero => rfl
    | succ n => simp [setAt, ih]

theorem Team.updGroup_updGroup {tm : Team} {g : Nat} (h : g < tm.groups.length) (f k : Group → Group) :
    (tm.updGroup g f).updGroup g k = tm.updGroup g fun gr => k (f gr) := by
  rw [updGroup, group_updGroup_self tm g f h]
  simp only [updGroup, setGroup, setAt_setAt]

/-- What a group's record becomes when an instruction, numbered `n`, has its results put in flight. -/
def Group.putInFlight (gr : Group) (n : Nat) (ws : List (List (RegRef × Word))) : Group :=
  let x := (ws.flatten.map (·.1)).foldl (fun gr r => gr.destine true n r) gr
  { x with pend := x.pend ++ ws.map fun l => { instr := n, writes := l } }

theorem Group.putInFlight_rest (gr : Group) (n : Nat) (ws : List (List (RegRef × Word))) :
    gr.putInFlight n ws = { gr with
      pend := gr.pend ++ ws.map fun l => { instr := n, writes := l }
      pendRegs := (gr.putInFlight n ws).pendRegs, chain := (gr.putInFlight n ws).chain } := by
  have noted := (gr.destine_all true n (ws.flatten.map (·.1))).1
  simp only [putInFlight]
  rw [noted]

/-- Exactly the destinations become pending (R46). -/
theorem Group.pendReg_putInFlight (gr : Group) (n : Nat) (ws : List (List (RegRef × Word))) (r : RegRef) :
    (gr.putInFlight n ws).pendReg r = none ↔ gr.pendReg r = none ∧ ∀ l ∈ ws, ∀ w ∈ l, w.1 ≠ r := by
  have noted := (gr.destine_all true n (ws.flatten.map (·.1))).2 r
  refine Iff.trans noted (and_congr_right fun _ => ?_)
  simp only [forall_true_left, List.forall_mem_map, List.forall_mem_flatten]

theorem State.giveResults_late {s : State} {is : Issue} {tm : Team} (h : Running s is tm) (ws : List (List (RegRef × Word))) :
    s.giveResults is true ws =
      ({ s with nextInstr := s.nextInstr + 1 } : State).updGroup is.team is.grp fun gr => gr.putInFlight s.nextInstr ws := by
  let s1 : State := { s with nextInstr := s.nextInstr + 1 }
  have both := Team.updGroup_updGroup h.group
    (fun gr => (ws.flatten.map (·.1)).foldl (fun gr r => gr.destine true s.nextInstr r) gr)
    (fun gr => { gr with pend := gr.pend ++ ws.map fun l => { instr := s.nextInstr, writes := l } })
  have late : s1.updGroup is.team is.grp (fun gr => gr.putInFlight s.nextInstr ws) = s1.setTeam is.team _ :=
    State.updTeam_of s1 (tm := tm) h.team _
  refine Eq.trans ?_ late.symm
  simp only [State.giveResults, State.destine, State.updGroup, Bool.true_or, if_true, State.updTeam_of s h.team,
    State.updTeam_setTeam, State.setTeam_setTeam]
  rw [show (s.setTeam is.team _).nextInstr = s.nextInstr from rfl, both]
  rfl

/-- Results put in flight and the word retired: unlike `giveResults_retire` for any destinations, since nothing is written yet. -/
theorem lateResults_retire {s : State} {is : Issue} {tm : Team} (h : Running s is tm) (ws : List (List (RegRef × Word))) :
    RegStep s ((s.giveResults is true ws).retire is) is tm [] ws [] := by
  let f (gr : Group) : Group := gr.putInFlight s.nextInstr ws
  let s1 : State := { s with nextInstr := s.nextInstr + 1 }
  have h1 : Running s1 is tm := ⟨h.issue, h.team, h.group, h.lanes⟩
  have noted (gr : Group) : f gr = _ := gr.putInFlight_rest s.nextInstr ws
  obtain ⟨t, ran, rest, fresh, nextInstr, mats, teams, tm', team, step⟩ := updGroup_retire h1 f f false (fun _ => none)
    (fun _ => by simp [Group.SameButRegs]) (fun gr => by rw [noted gr]) (fun gr => by rw [noted gr]) (fun _ _ => Iff.rfl)
  rw [State.giveResults_late h, State.retire, ran]
  refine ⟨rest, fresh, Nat.le_of_succ_le nextInstr, mats, teams, tm', team, { step with group := ?_, pending := fun r => ?_ }⟩
  · have own := step.group
    simp only [Group.SameButRegs, List.map_nil, List.append_nil] at own ⊢
    rw [own, noted]
    rfl
  · have pending := (step.pending r).trans (and_congr_left' (Group.pendReg_putInFlight _ s.nextInstr ws r))
    simpa using pending

/-! ### The lanes of a set -/

theorem lanesOf_eq_nil (m : BitVec 64) : lanesOf m = [] ↔ m = 0 := by
  constructor
  · intro empty
    refine BitVec.eq_of_getLsbD_eq fun l _ => ?_
    rw [BitVec.ofNat_eq_ofNat, BitVec.getLsbD_zero, Bool.eq_false_iff, ne_eq, ← mem_lanesOf, empty]
    exact List.not_mem_nil
  · rintro rfl
    decide

theorem lowLane_mem {m : BitVec 64} {l : Nat} (h : m.getLsbD l = true) : m.getLsbD (lowLane m) = true := by
  rw [← mem_lanesOf] at h ⊢
  rw [lowLane, List.headD_eq_head?_getD, List.head?_eq_some_head (List.ne_nil_of_mem h)]
  exact List.head_mem _

theorem lowLane_le {m : BitVec 64} {l : Nat} (h : m.getLsbD l = true) : lowLane m ≤ l := by
  have sorted : (lanesOf m).Pairwise (· < ·) := List.pairwise_lt_range.filter _
  rw [← mem_lanesOf] at h
  rw [lowLane]
  cases e : lanesOf m with
  | nil => exact Nat.zero_le l
  | cons x r =>
    rw [e] at h sorted
    rcases List.mem_cons.1 h with rfl | later
    · exact Nat.le_refl _
    · exact Nat.le_of_lt (List.rel_of_pairwise_cons sorted later)

/-- A lane of a set is its lowest where no lane below it is in the set. -/
theorem eq_lowLane_iff {m : BitVec 64} {l : Nat} (h : m.getLsbD l = true) : l = lowLane m ↔ ∀ k, k < l → m.getLsbD k = false := by
  constructor
  · intro low k below
    rw [Bool.eq_false_iff]
    intro inSet
    have := lowLane_le inSet
    omega
  · intro least
    by_contra other
    have below : lowLane m < l := Nat.lt_of_le_of_ne (lowLane_le h) (Ne.symm other)
    exact absurd (lowLane_mem h) (by simp [least _ below])

/-! ### `vote` and ballot (R265) -/

theorem exec_voteSf (g : BitVec 2) (m p : BitVec 3) (d : BitVec 6) (s : State) :
    exec (.voteSf g m p d) s = voteTo g.toNat m.toNat p.toNat d.toNat s := rfl

theorem exec_voteL (o : LR) (s : State) : exec (.voteL o) s = voteTo o.g.toNat o.t2.toNat (o.c.toNat % 8) o.d.toNat s := rfl

section Running

variable {s : State} {is : Issue} {tm : Team} (h : Running s is tm)
include h

/-- Modes any, all and eq: every contributing lane is to get what the lanes were polled for. -/
theorem voteTo_polled {mode : Nat} (hm : mode ≤ 2) (g ps d : Nat) :
    ∃ t, voteTo g mode ps d s = .next t ∧
      RegStep s t is tm [] ((lanesOf (is.guarded g)).map fun l => [(.p l d, polled is g mode ps)]) [] := by
  refine ⟨_, ?_, lateResults_retire h _⟩
  simp only [voteTo, withIssue, h.issue, h.team, if_neg (by omega : ¬mode = 3)]
  rfl

/-- Mode ballot: with the pair inside the reservation it is to get the set of the polled lanes, unless no lane contributes. -/
theorem voteTo_ballot {d : Nat} (hd : d + 1 < tm.ns) (g ps : Nat) :
    ∃ t, voteTo g 3 ps d s = .next t ∧ RegStep s t is tm [] (ballot is g ps d) [] := by
  refine ⟨_, ?_, lateResults_retire h _⟩
  have inside : (Dst.sp d).inRange tm.nv tm.ns = true := decide_eq_true hd
  have idle : (lanesOf (is.guarded g)).isEmpty = decide (is.guarded g = 0) := by
    rw [Bool.eq_iff_iff, List.isEmpty_iff, decide_eq_true_iff, lanesOf_eq_nil]
  simp only [voteTo, withIssue, h.issue, h.team, if_true, inside, Bool.not_true, Bool.false_eq_true, if_false, idle,
    decide_eq_true_eq]
  rfl

end Running

/-! ### `elect` (R266) -/

theorem decodeOp_elect (w x : Nat) : decodeOp 0x109 w x = if slc w 0 15 = 0 then .ok (.elect (fld 5 w 15)) else .error 5 := by
  have row : decodeOps 0x109 w x = if slc w 0 15 = 0 then some (.elect (fld 5 w 15)) else none := rfl
  rw [decodeOp, row]
  by_cases zero : slc w 0 15 = 0
  · rw [if_pos zero, if_pos zero]
    rfl
  · rw [if_neg zero, if_neg zero]

/-- An `elect` word of the module's map: the five bits above the zero field are its guard and its predicate. -/
theorem decodeTableWord_elect {w : Nat} (hw : w < 2 ^ 20) : decodeTableWord 32 (0x109 * 2 ^ 20 + w) =
    if w % 2 ^ 15 = 0 then some (.elect (BitVec.ofNat 5 (w / 2 ^ 15))) else none := by
  obtain ⟨v, hv⟩ : ∃ v, v = 0x109 * 2 ^ 20 + w := ⟨_, rfl⟩
  have word : (0x109 * 2 ^ 20 + w) % 2 ^ 32 % 2 ^ 32 = v := by omega
  have chain : (slc v 31 1 == 1) = false := by rw [beq_eq_false_iff_ne]; simp only [slc]; omega
  have opcode : slc v 20 10 = 0x109 := by simp only [slc]; omega
  have entry : m3Op 0x109 = some 0x109 := by decide
  have zeros : slc v 0 15 = w % 2 ^ 15 := by simp only [slc]; omega
  have operand : fld 5 v 15 = BitVec.ofNat 5 (w / 2 ^ 15) := fld_of (by rw [BitVec.toNat_ofNat]; omega)
  have place (ws : List Nat) : placeBad m3Op ws 0 0x109 false = none := rfl
  simp only [decodeTableWord, decodeSlot, List.getD_cons_zero, word, decodeWith, chain, opcode, entry, Bool.false_and,
    Bool.false_eq_true, if_false, place, decodeOp_elect, zeros, operand,
    if_neg (by decide : ¬(0x109 : Nat) = opRep), (by decide : (isPriv 0x109 && !true) = false)]
  by_cases zero : w % 2 ^ 15 = 0
  · rw [if_pos zero, if_pos zero]
  · rw [if_neg zero, if_neg zero]

theorem exec_elect {s : State} {is : Issue} {tm : Team} (h : Running s is tm) (g : BitVec 2) (p : BitVec 3) :
    exec (.elect (g ++ p)) s = .next ((s.giveResults is true ((lanesOf (is.guarded g.toNat)).map fun l =>
      [(.p l p.toNat, if l = lowLane (is.guarded g.toNat) then 1 else 0)])).retire is) := by
  have run : exec (.elect (g ++ p)) s = execElect (g ++ p) s := rfl
  have joined : (g ++ p).toNat = g.toNat * 8 + p.toNat := by
    rw [BitVec.toNat_append, ← Nat.shiftLeft_add_eq_or_of_lt p.isLt, Nat.shiftLeft_eq]
  have guard : (g ++ p).toNat / 8 = g.toNat := by omega
  have dest : (g ++ p).toNat % 8 = p.toNat := by omega
  rw [run, execElect, guard, dest]
  simp only [withIssue, h.issue, h.team]

/-- The lowest contributing lane is to get 1 and every other contributing lane 0. -/
theorem elect_lowest {s : State} {is : Issue} {tm : Team} (h : Running s is tm) (g : BitVec 2) (p : BitVec 3) :
    ∃ t, exec (.elect (g ++ p)) s = .next t ∧
      RegStep s t is tm [] ((lanesOf (is.guarded g.toNat)).map fun l =>
        [(.p l p.toNat, if ∀ k, k < l → (is.guarded g.toNat).getLsbD k = false then 1 else 0)]) [] := by
  refine ⟨_, exec_elect h g p, ?_⟩
  have lowest : ((lanesOf (is.guarded g.toNat)).map fun l =>
        [(RegRef.p l p.toNat, if l = lowLane (is.guarded g.toNat) then (1 : Word) else 0)]) =
      (lanesOf (is.guarded g.toNat)).map fun l =>
        [(RegRef.p l p.toNat, if ∀ k, k < l → (is.guarded g.toNat).getLsbD k = false then (1 : Word) else 0)] :=
    List.map_congr_left fun l contributes => by simp only [eq_lowLane_iff ((mem_lanesOf _ l).1 contributes)]
  rw [lowest]
  exact lateResults_retire h _

/-- Settles O14: each form puts its results in flight and retires (`lateResults_retire`); `voteTo_polled`, `voteTo_ballot` and
`elect_lowest` say which results, `decodeTableWord_elect` which words elect, and `Team.writeReg_p0` is the write of p0. -/
theorem voteAndElect : Obligations.VoteAndElect := by
  unfold Obligations.VoteAndElect
  intro s is tm h
  refine ⟨fun g m p d hm => ?_, fun g m p d hm hd => ?_, fun o hm => ?_, fun o hm hd => ?_, fun w hw => decodeTableWord_elect hw,
    fun grp l x r => Team.writeReg_p0 tm grp l r x, elect_lowest h⟩
  · exact voteTo_polled h hm g.toNat p.toNat d.toNat
  · rw [exec_voteSf, hm]
    exact voteTo_ballot h hd g.toNat p.toNat
  · exact voteTo_polled h hm o.g.toNat (o.c.toNat % 8) o.d.toNat
  · rw [exec_voteL, hm]
    exact voteTo_ballot h hd o.g.toNat (o.c.toNat % 8)

end Sys2Proof.Machine
end

section
/-!
PROOFS. Taking a trap (R348, R377 to R384): what the end of the issue leaves, the group in its handler, the record for the module kernel.
At the widths of Table 11.1 a trap does what O32 says (`trap_enters_handler`, `trap_reports`, `exec_trap_brk`); O32 is refuted by a width
that it does not exclude.
-/

namespace Sys2Proof.Machine

open Sys2Proof.Claims

/-! ### The region-entry snapshot and the issue's end (R57, R387) -/

namespace Team

/-- Of group `g` only what its region-entry snapshot holds differs (R387). -/
structure SameButSnapshot (a b : Team) (g : Nat) : Prop where
  rest : b = { a with threads := b.threads, groups := b.groups }
  threads : b.threads.length = a.threads.length
  groups : b.groups.length = a.groups.length
  group : ∀ j, j ≠ g → b.group j = a.group j
  own : b.group g = { a.group g with
    snapLcount := (b.group g).snapLcount, snapRepidx := (b.group g).snapRepidx, snapRepMask := (b.group g).snapRepMask,
    snapW := (b.group g).snapW }
  thread : ∀ j, b.thread j = { a.thread j with restart := (b.thread j).restart, restartMeet := (b.thread j).restartMeet }

theorem SameButSnapshot.refl (a : Team) (g : Nat) : a.SameButSnapshot a g := ⟨rfl, rfl, rfl, fun _ _ => rfl, rfl, fun _ => rfl⟩

theorem SameButSnapshot.w {a b : Team} {g : Nat} (h : a.SameButSnapshot b g) : b.w = a.w := by rw [h.rest]

theorem SameButSnapshot.tid {a b : Team} {g : Nat} (h : a.SameButSnapshot b g) (k l : Nat) : b.tid k l = a.tid k l := by
  rw [Team.tid, h.w, Team.tid]

theorem snapshot_sameButSnapshot (tm : Team) (g : Nat) (m : BitVec 64) : tm.SameButSnapshot (tm.snapshot g m) g where
  rest := rfl
  threads := (snapshot_quiet tm g m).threads
  groups := (snapshot_quiet tm g m).groups
  group := (snapshot_quiet tm g m).group
  own := by
    rw [snapshot, group_updGroup]
    split <;> rfl
  thread j := by
    rw [snapshot, thread_updGroup, thread_updLanes]
    split
    · split <;> rfl
    · rfl

/-- A register reads the same where the group's scalars and every thread's registers do. -/
theorem readReg_congr {a b : Team} {g : Nat} (w : b.w = a.w) (scalars : (b.group g).s = (a.group g).s)
    (regs : ∀ j, (b.thread j).regs = (a.thread j).regs) (r : RegRef) : b.readReg g r = a.readReg g r := by
  cases r with
  | s n => simp only [readReg, scalars]
  | v l n => simp only [readReg, tid, w, regs]
  | p l n => simp only [readReg_p, tid, w, regs]

/-- A live lane of the set is restarted where it stands, any other as before (R387). -/
theorem thread_snapshot (tm : Team) {g l : Nat} (lane : l < tm.w) (present : tm.tid g l < tm.threads.length) (m : BitVec 64) :
    (tm.snapshot g m).thread (tm.tid g l) =
      let x := tm.thread (tm.tid g l)
      if m.getLsbD l && !x.exited then { x with restart := x.pc, restartMeet := x.meet } else x := by
  rw [snapshot, thread_updGroup, thread_updLanes, if_pos ⟨present, tid_div tm lane⟩, tid_mod tm lane]

end Team

theorem State.closeIssue_sameButSnapshot {s : State} {is : Issue} {tm : Team} (h : s.team? is.team = some tm) :
    ∃ b, s.closeIssue is = { s with teams := (s.closeIssue is).teams, issue := none } ∧ (s.closeIssue is).team? is.team = some b ∧
      (∀ id, id ≠ is.team → (s.closeIssue is).team? id = s.team? id) ∧ tm.SameButSnapshot b is.grp := by
  by_cases closed : is.closed = true
  · simp only [State.closeIssue, closed, if_true, State.updTeam_of s h]
    exact ⟨_, rfl, State.team?_setTeam_self .., fun id other => State.team?_setTeam_other _ _ other,
      Team.snapshot_sameButSnapshot ..⟩
  · simp only [State.closeIssue, closed]
    exact ⟨tm, rfl, h, fun _ _ => rfl, Team.SameButSnapshot.refl ..⟩

/-! ### Where a trap goes (R377, R382) -/

theorem programLevel_iff (cls : Nat) : programLevel cls = true ↔ 1 ≤ cls ∧ cls ≤ 0x10 := by simp [programLevel]

theorem programLevel_eq_false (cls : Nat) : programLevel cls = false ↔ cls = 0 ∨ 0x10 < cls := by
  rw [Bool.eq_false_iff, ne_eq, programLevel_iff]
  omega

section TrapAt

variable {s : State} {id : Nat} {tm : Team} (team : s.team? id = some tm)
include team

theorem State.trapAt_handler {g : Nat} {k : TrapInfo} {gd : Grid} (level : programLevel k.cls = true) (grid : s.gridOf tm = some gd)
    (named : gd.thv = true) (outside : (tm.group g).inh = false) (m : BitVec 64) (epc : BitVec 24) (len : Nat) :
    s.trapAt id g m epc len k = s.setTeam id (tm.enterHandler g m k epc len gd.thandler) := by
  simp [State.trapAt, team, grid, level, named, outside]

/-- The record of a trap that goes to the module kernel (R384). -/
def TrapInfo.record (k : TrapInfo) (tm : Team) (id g : Nat) (epc : BitVec 24) : FaultRec :=
  { ctx := tm.ctx, core := tm.coreOf g, team := id, grp := g, info := k.word (tm.group g).repidx (tm.group g).inh epc,
    addr := k.addr, mask := k.lmask, what := if k.cls = 0x0E || k.cls = 0x11 then .skip else .retry }

/-- A group held by fault record `rid`, its frame written (R384). -/
def Group.report (gr : Group) (k : TrapInfo) (epc : BitVec 24) (len rid : Nat) : Group :=
  { gr with frame := k.frame gr.repidx epc, skipLen := len, hold := none, held := none, faults := gr.faults ++ [rid], wait := 0 }

theorem State.trapAt_report {g : Nat} {k : TrapInfo}
    (kernel : (tm.group g).inh = true ∨ programLevel k.cls = false ∨ ∀ gd, s.gridOf tm = some gd → gd.thv = false)
    (m : BitVec 64) (epc : BitVec 24) (len : Nat) :
    s.trapAt id g m epc len k = (s.report (k.record tm id g epc)).1.setTeam id
      (tm.updGroup g fun gr => gr.report k epc len s.nextId) := by
  cases grid : s.gridOf tm with
  | none => simp only [State.trapAt, team, grid]; rfl
  | some gd =>
    have toKernel : (programLevel k.cls && gd.thv && !(tm.group g).inh) = false := by
      rcases kernel with inside | level | noHandler
      · simp [inside]
      · simp [level]
      · simp [noHandler gd grid]
    simp only [State.trapAt, team, grid, toKernel]
    rfl

end TrapAt

/-! ### Entering the handler (R380) -/

/-- A thread as its group enters the handler: at the handler where its lane is of the trapping issue, else held (R380). -/
def Thread.divert (x : Thread) (on : Bool) (handler : Nat) : Thread :=
  if on then { x with pc := BitVec.ofNat 24 (12 * handler) } else { x with held := true }

namespace Thread

variable (x : Thread) (on : Bool) (handler : Nat)

@[simp] theorem regs_divert : (x.divert on handler).regs = x.regs := by cases on <;> rfl
@[simp] theorem meet_divert : (x.divert on handler).meet = x.meet := by cases on <;> rfl
@[simp] theorem stack_divert : (x.divert on handler).stack = x.stack := by cases on <;> rfl
@[simp] theorem depth_divert : (x.divert on handler).depth = x.depth := by cases on <;> rfl
@[simp] theorem exited_divert : (x.divert on handler).exited = x.exited := by cases on <;> rfl
@[simp] theorem pc_divert_true : (x.divert true handler).pc = BitVec.ofNat 24 (12 * handler) := rfl
@[simp] theorem pc_divert_false : (x.divert false handler).pc = x.pc := rfl
@[simp] theorem held_divert_false : (x.divert false handler).held = true := rfl

end Thread

/-- A group's record as it enters the handler: frame and INH written, a repeat or a held word given up (R380). -/
def Group.enter (gr : Group) (k : TrapInfo) (epc : BitVec 24) (len : Nat) : Group :=
  { gr with
    frame := k.frame gr.repidx epc, skipLen := len, inh := true, repidx := 0, repMask := 0, held := none, hold := none,
    lanesDone := 0, laneSnaps := [] }

/-- A group's record after a snapshot of its region's entry, in groups of width `w` (R387). -/
def Group.snapshot (gr : Group) (w : Nat) : Group :=
  { gr with snapLcount := gr.lcount, snapRepidx := gr.repidx, snapRepMask := gr.repMask, snapW := w }

namespace Team

/-- Entering the handler before R217 and the snapshot: the group's record and its lanes. -/
def divert (tm : Team) (g : Nat) (m : BitVec 64) (k : TrapInfo) (epc : BitVec 24) (len handler : Nat) : Team :=
  (tm.updGroup g fun gr => gr.enter k epc len).updLanes g fun l x => x.divert (m.getLsbD l) handler

theorem enterHandler_eq (tm : Team) (g : Nat) (m : BitVec 64) (k : TrapInfo) (epc : BitVec 24) (len handler : Nat) :
    tm.enterHandler g m k epc len handler =
      ((tm.divert g m k epc len handler).settle g).snapshot g (((tm.divert g m k epc len handler).settle g).live g) := rfl

@[simp] theorem w_settle (tm : Team) (g : Nat) : (tm.settle g).w = tm.w := rfl
@[simp] theorem group_settle (tm : Team) (g j : Nat) : (tm.settle g).group j = tm.group j := rfl
@[simp] theorem groups_settle (tm : Team) (g : Nat) : (tm.settle g).groups = tm.groups := rfl
@[simp] theorem length_settle (tm : Team) (g : Nat) : (tm.settle g).threads.length = tm.threads.length := (settle_quiet tm g).threads

@[simp] theorem w_snapshot (tm : Team) (g : Nat) (m : BitVec 64) : (tm.snapshot g m).w = tm.w := rfl
@[simp] theorem length_snapshot (tm : Team) (g : Nat) (m : BitVec 64) : (tm.snapshot g m).threads.length = tm.threads.length :=
  (snapshot_quiet tm g m).threads

theorem group_snapshot {tm : Team} {g : Nat} (h : g < tm.groups.length) (m : BitVec 64) :
    (tm.snapshot g m).group g = (tm.group g).snapshot tm.w := group_updGroup_self _ g _ h

theorem group_snapshot_other (tm : Team) {g j : Nat} (h : j ≠ g) (m : BitVec 64) : (tm.snapshot g m).group j = tm.group j :=
  (snapshot_quiet tm g m).group j h

section Divert

variable (tm : Team) (g : Nat) (m : BitVec 64) (k : TrapInfo) (epc : BitVec 24) (len handler : Nat)

@[simp] theorem w_divert : (tm.divert g m k epc len handler).w = tm.w := rfl
@[simp] theorem lengthGroups_divert : (tm.divert g m k epc len handler).groups.length = tm.groups.length := by
  simp [divert]
@[simp] theorem length_divert : (tm.divert g m k epc len handler).threads.length = tm.threads.length := by simp [divert]

@[simp] theorem w_enterHandler : (tm.enterHandler g m k epc len handler).w = tm.w := by simp [enterHandler_eq]
@[simp] theorem length_enterHandler : (tm.enterHandler g m k epc len handler).threads.length = tm.threads.length := by
  simp [enterHandler_eq]

@[simp] theorem tid_enterHandler (j l : Nat) : (tm.enterHandler g m k epc len handler).tid j l = tm.tid j l := by
  rw [tid, w_enterHandler, tid]

theorem group_enterHandler (h : g < tm.groups.length) :
    (tm.enterHandler g m k epc len handler).group g = ((tm.group g).enter k epc len).snapshot tm.w := by
  have entered : (tm.divert g m k epc len handler).group g = (tm.group g).enter k epc len :=
    group_updGroup_self tm g (fun gr => gr.enter k epc len) h
  rw [enterHandler_eq, group_snapshot (by simpa using h), group_settle, entered, w_settle, w_divert]

theorem group_enterHandler_other {j : Nat} (h : j ≠ g) : (tm.enterHandler g m k epc len handler).group j = tm.group j := by
  rw [enterHandler_eq, group_snapshot_other _ h, group_settle]
  exact group_updGroup_other tm (fun gr => gr.enter k epc len) h

end Divert

/-- R217 releases a thread only where it stands at its meeting packet. -/
theorem meet_settle (tm : Team) (g j : Nat) : ((tm.settle g).thread j).meet = (tm.thread j).meet ∨
    ((tm.settle g).thread j).meet = 0xFFFFFFFF#32 ∧ (tm.thread j).pc.toNat = 12 * (tm.thread j).meet.toNat := by
  rw [settle, thread_updLanes]
  split
  · split
    · next released =>
      simp only [Bool.and_eq_true, Thread.atMeet, decide_eq_true_eq] at released
      obtain ⟨⟨⟨-, stands⟩, -⟩, -⟩ := released
      exact .inr ⟨rfl, stands⟩
    · exact .inl rfl
  · exact .inl rfl

theorem thread_settle (tm : Team) (g j : Nat) :
    (tm.settle g).thread j = { tm.thread j with meet := ((tm.settle g).thread j).meet } := by
  rw [settle, thread_updLanes]
  split
  · split <;> rfl
  · rfl

theorem thread_snapshot_regs (tm : Team) (g j : Nat) (m : BitVec 64) : ((tm.snapshot g m).thread j).regs = (tm.thread j).regs := by
  rw [(snapshot_quiet tm g m).thread j]

theorem thread_settle_regs (tm : Team) (g j : Nat) : ((tm.settle g).thread j).regs = (tm.thread j).regs := by rw [thread_settle]

/-- Taking the handler keeps every thread's registers. -/
theorem regs_enterHandler (tm : Team) (g j : Nat) (m : BitVec 64) (k : TrapInfo) (epc : BitVec 24) (len handler : Nat) :
    ((tm.enterHandler g m k epc len handler).thread j).regs = (tm.thread j).regs := by
  rw [enterHandler_eq, thread_snapshot_regs, thread_settle_regs, divert, thread_updLanes]
  split
  · rw [Thread.regs_divert, thread_updGroup]
  · rfl

theorem getLsbD_live (tm : Team) (g l : Nat) :
    (tm.live g).getLsbD l = (decide (l < 64) && (decide (l < tm.w) && !(tm.thread (tm.tid g l)).exited)) := by
  rw [live, lanesWhere, getLsbD_maskOf]

/-- A lane after the release of R217 and a snapshot of the live lanes: only its %meet and its restart point may differ. -/
theorem thread_settle_snapshot (tm : Team) {g l : Nat} (lane : l < tm.w) (present : tm.tid g l < tm.threads.length) :
    let x := tm.thread (tm.tid g l)
    let y := ((tm.settle g).snapshot g ((tm.settle g).live g)).thread (tm.tid g l)
    y = { x with meet := y.meet, restart := y.restart, restartMeet := y.restartMeet } ∧
      (y.meet = x.meet ∨ y.meet = 0xFFFFFFFF#32 ∧ x.pc.toNat = 12 * x.meet.toNat) ∧
      (l < 64 → x.exited = false → y.restart = y.pc ∧ y.restartMeet = y.meet) := by
  intro x y
  have released : (tm.settle g).thread (tm.tid g l) = { x with meet := ((tm.settle g).thread (tm.tid g l)).meet } :=
    thread_settle tm g _
  have same : y = { (tm.settle g).thread (tm.tid g l) with restart := y.restart, restartMeet := y.restartMeet } :=
    (snapshot_sameButSnapshot ..).thread _
  have meet : y.meet = ((tm.settle g).thread (tm.tid g l)).meet := by rw [same]
  refine ⟨by rw [same, released], meet ▸ meet_settle tm g _, fun low alive => ?_⟩
  have alive : ((tm.settle g).thread (tm.tid g l)).exited = false := by rw [released]; exact alive
  have live : ((tm.settle g).live g).getLsbD l = true := by
    rw [getLsbD_live, decide_eq_true low, decide_eq_true (show l < (tm.settle g).w from lane),
      show ((tm.settle g).thread ((tm.settle g).tid g l)).exited = false from alive]
    rfl
  have now : y = _ := thread_snapshot (tm.settle g) lane (by rw [length_settle]; exact present) _
  simp only [live, show ((tm.settle g).thread ((tm.settle g).tid g l)).exited = false from alive, Bool.not_false, Bool.and_self,
    if_true] at now
  rw [now]
  exact ⟨rfl, rfl⟩

/-- A lane of the group in the handler: diverted, released where R217 says, and, if live and below 64, restarted where it now stands. -/
theorem thread_enterHandler (tm : Team) {g l : Nat} (lane : l < tm.w) (present : tm.tid g l < tm.threads.length) (m : BitVec 64)
    (k : TrapInfo) (epc : BitVec 24) (len handler : Nat) :
    let x := (tm.thread (tm.tid g l)).divert (m.getLsbD l) handler
    let y := (tm.enterHandler g m k epc len handler).thread (tm.tid g l)
    y = { x with meet := y.meet, restart := y.restart, restartMeet := y.restartMeet } ∧
      (y.meet = x.meet ∨ y.meet = 0xFFFFFFFF#32 ∧ x.pc.toNat = 12 * x.meet.toNat) ∧
      (l < 64 → x.exited = false → y.restart = y.pc ∧ y.restartMeet = y.meet) := by
  intro x y
  have diverted : (tm.divert g m k epc len handler).thread (tm.tid g l) = x := by
    rw [divert, thread_updLanes, w_updGroup, if_pos ⟨present, tid_div tm lane⟩, tid_mod tm lane, thread_updGroup]
  have here : (tm.divert g m k epc len handler).tid g l < (tm.divert g m k epc len handler).threads.length := by
    rw [divert, length_updLanes]
    exact present
  rw [← diverted]
  exact thread_settle_snapshot (tm.divert g m k epc len handler) lane here

/-- A lane of an active set, where no word is held, is live and not held (R214). -/
theorem lane_of_mem_subsets {tm : Team} {g : Nat} (noWord : (tm.group g).held = none) {a : BitVec 64 × BitVec 24}
    (active : a ∈ tm.subsets g) {l : Nat} (on : a.1.getLsbD l = true) :
    l < tm.w ∧ (tm.thread (tm.tid g l)).exited = false ∧ (tm.thread (tm.tid g l)).held = false := by
  obtain ⟨pc, rfl⟩ : ∃ pc, a = (tm.activeAt g pc, pc) := by
    simp only [subsets, noWord] at active
    split at active
    · obtain ⟨pc, -, rfl⟩ := List.mem_map.1 active
      exact ⟨pc, rfl⟩
    · obtain ⟨pc, -, rfl⟩ := List.mem_map.1 (List.mem_filter.1 active).1
      exact ⟨pc, rfl⟩
  simp only [activeAt, lanesWhere, getLsbD_maskOf, Bool.and_eq_true, decide_eq_true_eq, Bool.not_eq_true'] at on
  obtain ⟨-, lane, ⟨⟨⟨alive, free⟩, -⟩, -⟩, -⟩ := on
  exact ⟨lane, alive, free⟩

theorem exited_of_length_le {tm : Team} {j : Nat} (h : tm.threads.length ≤ j) : (tm.thread j).exited = true := by
  rw [thread, List.getD_eq_default _ _ h]

/-- In the handler only lanes of the trapping issue are active (R380). -/
theorem active_enterHandler {tm : Team} {g : Nat} (h : g < tm.groups.length) (m : BitVec 64) (k : TrapInfo) (epc : BitVec 24)
    (len handler : Nat) : ∀ a ∈ (tm.enterHandler g m k epc len handler).subsets g, ∀ l, a.1.getLsbD l = true → m.getLsbD l = true := by
  intro a active l on
  obtain ⟨lane, alive, free⟩ := lane_of_mem_subsets (by rw [group_enterHandler _ _ _ _ _ _ _ h]; rfl) active on
  rw [w_enterHandler] at lane
  rw [tid_enterHandler] at alive free
  by_contra off
  have present : tm.tid g l < tm.threads.length := by
    by_contra absent
    have gone := exited_of_length_le (tm := tm.enterHandler g m k epc len handler) (j := tm.tid g l)
      (by rw [length_enterHandler]; exact Nat.le_of_not_lt absent)
    exact absurd (alive.symm.trans gone) (by decide)
  obtain ⟨same, -⟩ := thread_enterHandler tm lane present m k epc len handler
  have held : ((tm.thread (tm.tid g l)).divert (m.getLsbD l) handler).held = false := (congrArg Thread.held same).symm.trans free
  rw [Bool.eq_false_iff.2 off, Thread.held_divert_false] at held
  exact absurd held (by decide)

end Team

/-! ### The word at issue traps -/

section Running

variable {s : State} {is : Issue} {tm : Team} (h : Running s is tm)
include h

/-- Outside its handler, with a handler named and a program-level class, the group enters the handler (R379, R380). The width is any; the
restart point is said of the lanes below 64, which are those that a set of lanes can name. -/
theorem trap_enters_handler {f : TrapInfo} {gd : Grid} (low : 1 ≤ f.cls) (high : f.cls ≤ 0x10) (grid : s.gridOf tm = some gd)
    (named : gd.thv = true) (outside : (tm.group is.grp).inh = false) :
    ∃ t tm', t = s.trap is f ∧ t = { s with teams := t.teams, issue := none } ∧ t.team? is.team = some tm' ∧
      (∀ id, id ≠ is.team → t.team? id = s.team? id) ∧ (∀ j, j ≠ is.grp → tm'.group j = tm.group j) ∧
      (tm'.group is.grp).frame = ⟨tfinfo f (tm.group is.grp).repidx false is.pc, f.addr, f.lmask⟩ ∧
      (tm'.group is.grp).inh = true ∧ (tm'.group is.grp).repidx = 0 ∧ (tm'.group is.grp).skipLen = is.len ∧
      (tm'.group is.grp).lcount = (tm.group is.grp).lcount ∧ (∀ r, tm'.readReg is.grp r = tm.readReg is.grp r) ∧
      (∀ a ∈ tm'.subsets is.grp, ∀ l, a.1.getLsbD l = true → is.mask.getLsbD l = true) ∧
      ∀ l, l < tm.w → tm.tid is.grp l < tm.threads.length →
        let x := tm.thread (tm.tid is.grp l)
        let y := tm'.thread (tm.tid is.grp l)
        (y.meet = x.meet ∨ y.meet = 0xFFFFFFFF#32 ∧ y.pc.toNat = 12 * x.meet.toNat) ∧ y.stack = x.stack ∧ y.depth = x.depth ∧
          y.exited = x.exited ∧ (is.mask.getLsbD l = true → y.pc = BitVec.ofNat 24 (12 * gd.thandler)) ∧
          (is.mask.getLsbD l = false → y.held = true ∧ y.pc = x.pc) ∧
          (l < 64 → x.exited = false → y.restart = y.pc ∧ y.restartMeet = y.meet) := by
  obtain ⟨b, rest, team, others, closed⟩ := State.closeIssue_sameButSnapshot (is := is) h.team
  have group : is.grp < b.groups.length := by rw [closed.groups]; exact h.group
  have grid : (s.closeIssue is).gridOf b = some gd := by rw [rest, closed.rest]; exact grid
  have outside : (b.group is.grp).inh = false := by rw [closed.own]; exact outside
  have level : programLevel f.cls = true := (programLevel_iff f.cls).2 ⟨low, high⟩
  have taken : s.trap is f = _ := State.trapAt_handler team level grid named outside is.mask is.pc is.len
  have own := Team.group_enterHandler b is.grp is.mask f is.pc is.len gd.thandler group
  refine ⟨s.trap is f, b.enterHandler is.grp is.mask f is.pc is.len gd.thandler, rfl, by rw [taken, rest]; rfl,
    by rw [taken]; exact State.team?_setTeam_self .., fun id other => ?_, fun j other => ?_, ?_, ?_, ?_, ?_, ?_, fun r => ?_,
    Team.active_enterHandler group is.mask f is.pc is.len gd.thandler, fun l lane present => ?_⟩
  · rw [taken, State.team?_setTeam_other _ _ other, others id other]
  · rw [Team.group_enterHandler_other _ _ _ _ _ _ _ other, closed.group j other]
  · rw [own, closed.own]; rfl
  · rw [own]; rfl
  · rw [own]; rfl
  · rw [own]; rfl
  · rw [own, closed.own]; rfl
  · refine Team.readReg_congr (by rw [Team.w_enterHandler, closed.w]) ?_ (fun j => ?_) r
    · rw [own, closed.own]; rfl
    · rw [Team.regs_enterHandler, closed.thread]
  · have start := closed.thread (tm.tid is.grp l)
    rw [← closed.w] at lane
    rw [← closed.tid, ← closed.threads] at present
    obtain ⟨same, meet, restart⟩ := Team.thread_enterHandler b lane present is.mask f is.pc is.len gd.thandler
    rw [closed.tid] at same meet restart
    intro x y
    have pc : y.pc = ((b.thread (tm.tid is.grp l)).divert (is.mask.getLsbD l) gd.thandler).pc :=
      (congrArg Thread.pc same).trans rfl
    have x_meet : (b.thread (tm.tid is.grp l)).meet = x.meet := by rw [start]
    have x_exited : (b.thread (tm.tid is.grp l)).exited = x.exited := by rw [start]
    rw [← pc, Thread.meet_divert, x_meet] at meet
    rw [Thread.exited_divert, x_exited] at restart
    refine ⟨meet, (congrArg Thread.stack same).trans ?_, (congrArg Thread.depth same).trans ?_, (congrArg Thread.exited same).trans ?_,
      fun on => ?_, fun off => ⟨(congrArg Thread.held same).trans ?_, ?_⟩, restart⟩
    · rw [Thread.stack_divert, start]
    · rw [Thread.depth_divert, start]
    · rw [Thread.exited_divert, start]
    · rw [pc, on, Thread.pc_divert_true]
    · rw [off, Thread.held_divert_false]
    · rw [pc, off, Thread.pc_divert_false, start]

/-- The other half: with INH = 1, without a handler, and for a class that is not program level, the trap is a record that holds the
group (R382, R384). -/
theorem trap_reports {f : TrapInfo} (kernel : (tm.group is.grp).inh = true ∨ f.cls = 0 ∨ 0x10 < f.cls ∨ s.gridOf tm = none ∨
      ∃ gd, s.gridOf tm = some gd ∧ gd.thv = false) :
    ∃ t tm' rec, t = s.trap is f ∧ t.faultQ = s.faultQ ++ [(s.nextId, rec)] ∧ t.mem = s.mem ∧ t.team? is.team = some tm' ∧
      rec.team = is.team ∧ rec.grp = is.grp ∧ rec.ctx = tm.ctx ∧ rec.addr = f.addr ∧ rec.mask = f.lmask ∧
      rec.info = tfinfo f (tm.group is.grp).repidx (tm.group is.grp).inh is.pc ∧
      rec.what = (if f.cls = 0x0E ∨ f.cls = 0x11 then .skip else .retry) ∧
      (tm'.group is.grp).frame = ⟨tfinfo f (tm.group is.grp).repidx false is.pc, f.addr, f.lmask⟩ ∧
      (tm'.group is.grp).inh = (tm.group is.grp).inh ∧ (tm'.group is.grp).faults = (tm.group is.grp).faults ++ [s.nextId] ∧
      t.ready is.team tm' is.grp = false ∧ (∀ r, tm'.readReg is.grp r = tm.readReg is.grp r) ∧
      ∀ j, (tm'.thread j).pc = (tm.thread j).pc ∧ (tm'.thread j).held = (tm.thread j).held := by
  obtain ⟨b, rest, team, -, closed⟩ := State.closeIssue_sameButSnapshot (is := is) h.team
  have group : is.grp < b.groups.length := by rw [closed.groups]; exact h.group
  have kernel : (b.group is.grp).inh = true ∨ programLevel f.cls = false ∨
      ∀ gd, (s.closeIssue is).gridOf b = some gd → gd.thv = false := by
    rw [closed.own, closed.rest, rest]
    rcases kernel with inside | zero | beyond | noGrid | ⟨gd, grid, noHandler⟩
    · exact .inl inside
    · exact .inr (.inl ((programLevel_eq_false _).2 (.inl zero)))
    · exact .inr (.inl ((programLevel_eq_false _).2 (.inr beyond)))
    · exact .inr (.inr fun gd grid => nomatch noGrid.symm.trans grid)
    · exact .inr (.inr fun gd' grid' => Option.some.inj (grid.symm.trans grid') ▸ noHandler)
  have taken : s.trap is f = _ := State.trapAt_report team kernel is.mask is.pc is.len
  have own := Team.group_updGroup_self b is.grp (fun gr => gr.report f is.pc is.len (s.closeIssue is).nextId) group
  have id : (s.closeIssue is).nextId = s.nextId := by rw [rest]
  have faults : ((b.updGroup is.grp fun gr => gr.report f is.pc is.len (s.closeIssue is).nextId).group is.grp).faults =
      (tm.group is.grp).faults ++ [s.nextId] := by
    rw [own, closed.own, id]
    rfl
  refine ⟨s.trap is f, _, f.record b is.team is.grp is.pc, rfl, ?_, ?_, by rw [taken]; exact State.team?_setTeam_self .., rfl, rfl,
    ?_, rfl, rfl, ?_, ?_, ?_, ?_, faults, ?_, fun r => ?_, fun j => ?_⟩
  · rw [taken, rest]; rfl
  · rw [taken, rest]; rfl
  · rw [TrapInfo.record, closed.rest]
  · rw [TrapInfo.record, closed.own]; rfl
  · simp [TrapInfo.record]
  · rw [own, closed.own]; rfl
  · rw [own, closed.own]; rfl
  · simp [State.ready, faults]
  · refine Team.readReg_congr (by rw [Team.w_updGroup, closed.w]) ?_ (fun j => ?_) r
    · rw [own, closed.own]; rfl
    · rw [Team.thread_updGroup, closed.thread]
  · rw [Team.thread_updGroup, closed.thread]
    exact ⟨rfl, rfl⟩

/-- `trap` and `brk`, where a lane's guard reads 1, take a trap of class 0x0E or 0x11 with their number as its detail (R348). -/
theorem exec_trap_brk {g : BitVec 2} (guarded : is.guarded g.toNat ≠ 0) (n : BitVec 8) :
    ∀ p ∈ [(Instr.trap, 0x0E), (.brk, 0x11)], exec (p.1 g n) s = .next (s.trap is
      { cls := p.2, detail := n.toNat, lane := lowLane (is.guarded g.toNat), lmask := is.guarded g.toNat }) := by
  have run (cls : Nat) : execTrapOp cls g n s = .next (s.trap is
      { cls := cls, detail := n.toNat, lane := lowLane (is.guarded g.toNat), lmask := is.guarded g.toNat }) := by
    simp only [execTrapOp, withIssue, h.issue, h.team, if_neg guarded]
  intro p listed
  rcases List.mem_pair.1 listed with rfl | rfl
  · exact run 0x0E
  · exact run 0x11

end Running

/-! ### A group of 65 lanes -/

/-- One group of 65 lanes, wider than Table 11.1 allows; every thread stands at packet 2. -/
def wideTeam : Team :=
  { ctx := 0, grid := 4, index := 0, core := 0, t := 65, w := 65, wLaunch := 65, wmin := 65, nv := 0, ns := 0, lmem := 0, d := 0,
    nCopy := 0, nMat := 0, threads := List.replicate 65 { pc := 24 }, groups := [{}] }

/-- Lane 0 alone at issue. -/
def wideIssue : Issue := { team := 3, grp := 0, mask := 1, pc := 24, wpc := 24, len := 4 }

/-- Its grid, with a handler at packet 7. -/
def wideGrid : Grid := { ctx := 0, gid := 0, odo := 0, segbase := 0, entry := 0, thv := true, thandler := 7 }

def wideState : State := { State.reset with teams := [(3, wideTeam)], grids := [(4, wideGrid)], issue := some wideIssue }

/-- The trap of `trap 0` in lane 0. -/
def lane0Trap : TrapInfo := { cls := 0x0E, lmask := 1 }

theorem wide_running : Running wideState wideIssue wideTeam where
  issue := rfl
  team := rfl
  group := Nat.one_pos
  lanes l on := by
    have below : l < 64 := BitVec.lt_of_getLsbD on
    exact ⟨show l < 65 by omega, show 0 * 65 + l < 65 by omega⟩

/-- Lane 64, which no set of lanes can name, is at packet 2 after the trap and keeps the restart point 0. -/
theorem wide_lane64 : ((wideState.trap wideIssue lane0Trap).team? 3).map
    (fun tm => ((tm.thread 64).pc, (tm.thread 64).restart)) = some (24, 0) := by decide

/-- Refutes O32: the statement bounds no width, and the region-entry snapshot of handler entry reaches 64 lanes; in a group of 65 the live
thread of lane 64 is at packet 2 after the entry and its restart point is 0. Of lanes below 64 the statement is `trap_enters_handler`. -/
theorem not_trapsEnterTheHandlerOrReport : ¬ Obligations.TrapsEnterTheHandlerOrReport := by
  unfold Obligations.TrapsEnterTheHandlerOrReport
  intro claim
  obtain ⟨entry, -, -⟩ := claim wideState wideIssue wideTeam wide_running
  obtain ⟨t, tm', rfl, -, team, -, -, -, -, -, -, -, -, -, lanes⟩ :=
    entry lane0Trap wideGrid (by decide) (by decide) rfl rfl rfl
  obtain ⟨-, -, -, -, -, -, restart⟩ := lanes 64 (by decide) (by decide)
  have stands : (tm'.thread 64).restart = (tm'.thread 64).pc := (restart rfl).1
  have kept := wide_lane64
  rw [show (wideState.trap wideIssue lane0Trap).team? 3 = some tm' from team, Option.map_some, Option.some.injEq,
    Prod.mk.injEq] at kept
  obtain ⟨pc, old⟩ := kept
  rw [pc, old] at stands
  exact absurd stands (by decide)

end Sys2Proof.Machine
end
